-- ==== Sys2Proof/Word.lean ====
section
/-!
DEFINITION. The word types of the device and the containers that hold its sparse state.
Words are what the spec shifts, adds or masks (spec/00_scope.md R6, R9); counts and identities are natural numbers.
-/

namespace Sys2Proof

/-- A byte of memory. -/
abbrev Byte := BitVec 8

/-- The 32-bit datapath word of a lane (R12). -/
abbrev Word := BitVec 32

/-- A 64-bit value: a register pair or the literal (R56). -/
abbrev DWord := BitVec 64

/-- One value per lane of a group of 32 lanes (R12). -/
abbrev LVec := Vector Word 32

/-- A mask of lanes, bit l for lane l (R16). -/
abbrev Mask := BitVec 32

/-- A sparse table: pairs of a key and a value, keys strictly rising, absent keys hold the table's default. -/
abbrev NMap (α : Type) := List (Nat × α)

/-- The same value in every lane (R57). -/
def LVec.splat (w : Word) : LVec := Vector.replicate 32 w

end Sys2Proof
end

