-- ==== Sys2Proof/Syntax.lean ====
section
/-!
DEFINITION. The syntax of the device: operands, the fields of an instruction word, and `Instr`, one constructor for every
row of spec/opcode_table.json.
Rows 0 to 152 are encoded instructions; the rest are the events of the device, which have no encoding.
-/

namespace Sys2Proof

/-- An operand of a group instruction (R31, R51, R56). -/
inductive Operand where
  /-- A main-file register. -/
  | v (n : BitVec 8)
  /-- An operand-cache entry. -/
  | oc (n : BitVec 3)
  /-- The last-result latch of port A; as a destination, latch only. -/
  | la
  /-- The last-result latch of port B; as a destination, latch only. -/
  | lb
  /-- A uniform register. -/
  | s (n : BitVec 6)
  /-- Zero; as a destination, latch only. -/
  | zero
  /-- The trailing literal. -/
  | lit
  /-- A constant-window operand, word 2 [31:12] (R58). -/
  | cwin
  /-- A small immediate, the value in two's complement. -/
  | imm (k : BitVec 7)
  /-- A reserved code: cause 0x003. -/
  | bad (code : BitVec 9)
  deriving DecidableEq, Repr

/-- The fields of a base word (R50). -/
structure Base where
  dst : Operand
  a : Operand
  b : Operand
  y : Bool
  stall : BitVec 3
  deriving DecidableEq, Repr

/-- The form of an instruction that has more than one word (R46). -/
inductive Form where
  /-- LEN 01: a base word and a literal. -/
  | baseLit
  /-- LEN 10: three words. -/
  | ext
  /-- LEN 11: three words and a literal. -/
  | extLit
  deriving DecidableEq, Repr

/-- The fields of words 0 and 1 of the extended form that are no operands (R52, R54). -/
structure Head where
  y : Bool
  stall : BitVec 3
  guard : BitVec 3
  gneg : Bool
  sbset : BitVec 4
  wait : BitVec 6
  mod : BitVec 4
  mod2 : BitVec 2
  deadA : Bool
  deadB : Bool
  deadC : Bool
  deriving DecidableEq, Repr

/-- An instruction of the arithmetic layout of word 2 (R55), `spec` being word 2 [31:9]. -/
structure ExtA where
  form : Form
  h : Head
  dst : Operand
  a : Operand
  b : Operand
  c : Operand
  spec : BitVec 23
  lit : DWord
  deriving DecidableEq, Repr

/-- An instruction of the memory layout of word 2 (R55, R59, R60). -/
structure ExtM where
  h : Head
  dst : Operand
  a : Operand
  b : Operand
  offset : BitVec 24
  mmod : Byte
  deriving DecidableEq, Repr

/-- The head that the base form implies (R48). -/
def Head.base (y : Bool) (stall : BitVec 3) : Head :=
  { y, stall, guard := 7, gneg := false, sbset := 15, wait := 0, mod := 0, mod2 := 0
    deadA := false, deadB := false, deadC := false }

/-- The extended form as which a base word executes (R48). -/
def Base.toExt (w : Base) : ExtA :=
  { form := .ext, h := .base w.y w.stall, dst := w.dst, a := w.a, b := w.b, c := .zero, spec := 0, lit := 0 }

/-- A group: its team's identity and its place in the order of R137. -/
structure GRef where
  team : Nat
  grp : Nat
  deriving DecidableEq, Repr

/-- The source of a request to a slice (R207). -/
inductive Src where
  /-- A core of the package, 0 to 671. -/
  | core (n : Nat)
  /-- The fabric ports, for packets of other packages (R334). -/
  | fabric
  deriving DecidableEq, Repr

/-- A writer of control space (R271, R323). -/
inductive Port where
  | host0
  | host1
  /-- Firmware on a reserved core. -/
  | firmware
  deriving DecidableEq, Repr

/-- A UCIe module of a die edge: edges 0 to 3 are D0–D1, D2–D3, D0–D2, D1–D3; `down` is the direction to the lower die (R320). -/
structure UcieRef where
  edge : Nat
  module : Nat
  down : Bool
  deriving DecidableEq, Repr

/-- A unit that RDY, VRDY or FRDY reports (R324). -/
inductive ReadyUnit where
  | die (d : Nat)
  | vault (v : Nat)
  | far (channel : Nat)
  | queueEngine
  | fabric
  deriving DecidableEq, Repr

/-- A port that trains: a UCIe module or a Yunambi port (R320, R332). -/
inductive TrainPort where
  | ucie (m : UcieRef)
  | yunambi (p : Nat)
  deriving DecidableEq, Repr

/-- Where a soft error strikes (R154, R205, R212, R218, R248, R317, R355). -/
inductive ErrUnit where
  /-- The SRAM store or the register file of a core, in state of a team. -/
  | coreSram (team : Nat)
  /-- A line in a slice's SRAM, at its home or as a replica. -/
  | sliceLine (slice line : Nat)
  /-- A line of vault or LPDDR6 memory. -/
  | memLine (line : Nat)
  /-- An atomic unit, reservation table or monitor table. -/
  | sliceUnit (slice : Nat)
  /-- A message on its way to a cluster, by side and channel, or the neighbour link that carries it. -/
  | link (cluster side channel : Nat)
  /-- Matcher, queue or arena-table state of a partition. -/
  | queueEngine (part : Nat)
  /-- A bank of a Yunambi port's buffer. -/
  | fabric (port : Nat)
  /-- The end-to-end state of the streams of a peer. -/
  | endToEnd (peer : Nat)
  /-- A post slot of a partition. -/
  | postSlot (part slot : Nat)
  deriving DecidableEq, Repr

/-- The channels of a port that carry streams of packets: remote loads and stores, atomics, and collective data with the tap
sequencer's messages (R332, R336). -/
inductive Chan where
  | req | atom | coll
  deriving DecidableEq, Repr

/-- A stream of packets between this package and a peer: the peer and the channel (R336, R337). -/
structure StreamId where
  peer : Nat
  ch : Chan
  deriving DecidableEq, Repr

/-- One lane's operation in an atomic packet (R335): the lane, its byte offset in the line, its B value. -/
structure LaneOp where
  lane : Nat
  off : Nat
  b : BitVec 128
  deriving DecidableEq, Repr

/-- The key of a collective's descriptor (R343). -/
structure CollKey where
  op : BitVec 4
  dt : BitVec 4
  cnt : DWord
  root : BitVec 9
  deriving DecidableEq, Repr

/-- The state of a post slot (R350, R353). -/
inductive SlotState where
  | free | posted | numbered | started | done | cancelled | failed
  deriving DecidableEq, Repr

/-- A member's report that the collective of a tap is DONE there, or FAILED (R343, R350). -/
structure DoneReport where
  member : Nat
  tap : Word
  ok : Bool
  deriving DecidableEq, Repr

/-- The reply to a COLLC: whether its post is cancelled everywhere, and the epoch in which the primary says so (R346, R354). -/
structure CollcReply where
  cancelled : Bool
  epoch : Byte
  deriving DecidableEq, Repr

/-- A member's report of one slot after a failover (R346), `order` being its local post order. -/
structure SlotReport where
  comm : Nat
  tag : Word
  tap : Option Word
  state : SlotState
  key : CollKey
  order : Nat
  deriving DecidableEq, Repr

/-- Collective data and the messages of members and the tap sequencer (R341–R347), which travel on the channel COLL. -/
inductive CollMsg where
  | post (comm : Nat) (tag : Word) (key : CollKey)
  | cancel (comm : Nat) (tag : Word)
  | tap (comm : Nat) (tag tap : Word) (epoch : Byte)
  | start (comm : Nat) (tap : Word) (epoch : Byte)
  | failed (comm : Nat) (tap : Word) (epoch : Byte)
  /-- FAILED from another member, which is no message of the sequencer (R350). -/
  | peerFailed (comm : Nat) (tap : Word)
  | cancelled (comm : Nat) (tag : Word) (epoch : Byte)
  | reply (comm : Nat) (tag : Word) (ok : Bool) (epoch : Byte)
  /-- A member's report: DONE, or FAILED. -/
  | done (comm : Nat) (tap : Word) (ok : Bool)
  /-- The next bytes of the sender's source buffer. -/
  | data (comm : Nat) (tap : Word) (bytes : List Byte)
  | heartbeat
  | recovery (epoch : Byte)
  | report (slots : List SlotReport)
  deriving DecidableEq, Repr

/-- What a remote packet asks of one line (R334, R335). -/
inductive RemOp where
  | load
  /-- A store with its bytes and its nibble mask. -/
  | store (data : BitVec 1024) (mask : BitVec 256)
  /-- ATOM or RED: the handler, the size in bytes and the lanes' operations in ascending order. -/
  | atom (hnd size : Nat) (lanes : List LaneOp)
  /-- A packet of the channel COLL, which concerns no line. -/
  | message (m : CollMsg)
  deriving DecidableEq, Repr

/-- A packet of a remote stream (R335–R337), `line` being the target's physical address / 128. -/
structure RemPkt where
  st : StreamId
  seq : Word
  line : Nat
  /-- CLASS of the issuing package's leaf (R334). -/
  cls : BitVec 2
  op : RemOp
  deriving DecidableEq, Repr

/-- The response to a remote packet: load data or old values per lane, or a bare acknowledgement (R337). -/
structure RemRsp where
  st : StreamId
  seq : Word
  data : BitVec 1024
  olds : List (Nat × DWord)
  /-- The packet is an acknowledgement of a packet applied before, whose response is no longer kept. -/
  bare : Bool
  /-- The cause with which the packet ended at its target, or 0. -/
  cause : Nat
  deriving DecidableEq, Repr

/-- A packet that leaves the package: a packet of a stream, or the answer to one (R332, R335). -/
inductive FabMsg where
  | pkt (p : RemPkt)
  | rsp (r : RemRsp)
  deriving DecidableEq, Repr

/-- What the reply to an attestation request holds besides its signature (R328). The spec gives its bytes no layout. -/
structure Report where
  nonce : BitVec 256
  /-- All measurement registers, by 8 × die + register. -/
  mrs : List (Nat × BitVec 512)
  svns : List (Nat × Nat)
  fuse : Nat
  partNo : String
  deriving DecidableEq, Repr

/-- The instructions and events of the device: one constructor for every row of spec/opcode_table.json. -/
inductive Instr where
  /-- IADD (R93). -/
  | iadd (w : Base)
  /-- IADD_EXT (R93). -/
  | iaddExt (w : ExtA)
  /-- ISUB (R93). -/
  | isub (w : Base)
  /-- ISUB_EXT (R93). -/
  | isubExt (w : ExtA)
  /-- IMUL (R93). -/
  | imul (w : Base)
  /-- IMUL_EXT (R93). -/
  | imulExt (w : ExtA)
  /-- IMULHI (R93). -/
  | imulhi (w : Base)
  /-- IMULHI_EXT (R93). -/
  | imulhiExt (w : ExtA)
  /-- IMAD (R93). -/
  | imad (w : ExtA)
  /-- IMADW (R93). -/
  | imadw (w : ExtA)
  /-- IABS (R93). -/
  | iabs (w : Base)
  /-- IABS_EXT (R93). -/
  | iabsExt (w : ExtA)
  /-- IMIN (R93). -/
  | imin (w : Base)
  /-- IMIN_EXT (R93). -/
  | iminExt (w : ExtA)
  /-- IMAX (R93). -/
  | imax (w : Base)
  /-- IMAX_EXT (R93). -/
  | imaxExt (w : ExtA)
  /-- SHL (R93). -/
  | shl (w : Base)
  /-- SHL_EXT (R93). -/
  | shlExt (w : ExtA)
  /-- SHR (R93). -/
  | shr (w : Base)
  /-- SHR_EXT (R93). -/
  | shrExt (w : ExtA)
  /-- SAR (R93). -/
  | sar (w : Base)
  /-- SAR_EXT (R93). -/
  | sarExt (w : ExtA)
  /-- ROL (R93). -/
  | rol (w : Base)
  /-- ROL_EXT (R93). -/
  | rolExt (w : ExtA)
  /-- LOGIC (R93). -/
  | logic (w : ExtA)
  /-- POPC (R93). -/
  | popc (w : Base)
  /-- POPC_EXT (R93). -/
  | popcExt (w : ExtA)
  /-- CLZ (R93). -/
  | clz (w : Base)
  /-- CLZ_EXT (R93). -/
  | clzExt (w : ExtA)
  /-- CTZ (R93). -/
  | ctz (w : Base)
  /-- CTZ_EXT (R93). -/
  | ctzExt (w : ExtA)
  /-- BREV (R93). -/
  | brev (w : Base)
  /-- BREV_EXT (R93). -/
  | brevExt (w : ExtA)
  /-- BFX (R94). -/
  | bfx (w : ExtA)
  /-- BFI (R94). -/
  | bfi (w : ExtA)
  /-- SEL (R93). -/
  | sel (w : ExtA)
  /-- AADD (R93). -/
  | aadd (w : ExtA)
  /-- IDOT4 (R99). -/
  | idot4 (w : ExtA)
  /-- FADD (R95). -/
  | fadd (w : Base)
  /-- FADD_EXT (R95). -/
  | faddExt (w : ExtA)
  /-- FMUL (R95). -/
  | fmul (w : Base)
  /-- FMUL_EXT (R95). -/
  | fmulExt (w : ExtA)
  /-- FFMA (R95). -/
  | ffma (w : ExtA)
  /-- FMIN (R96). -/
  | fmin (w : Base)
  /-- FMIN_EXT (R96). -/
  | fminExt (w : ExtA)
  /-- FMAX (R96). -/
  | fmax (w : Base)
  /-- FMAX_EXT (R96). -/
  | fmaxExt (w : ExtA)
  /-- FCLS (R96). -/
  | fcls (w : ExtA)
  /-- FRCP (R97). -/
  | frcp (w : Base)
  /-- FRCP_EXT (R97). -/
  | frcpExt (w : ExtA)
  /-- FRSQ (R97). -/
  | frsq (w : Base)
  /-- FRSQ_EXT (R97). -/
  | frsqExt (w : ExtA)
  /-- FSQRT (R97). -/
  | fsqrt (w : Base)
  /-- FSQRT_EXT (R97). -/
  | fsqrtExt (w : ExtA)
  /-- FEXP2 (R97). -/
  | fexp2 (w : Base)
  /-- FEXP2_EXT (R97). -/
  | fexp2Ext (w : ExtA)
  /-- FLOG2 (R97). -/
  | flog2 (w : Base)
  /-- FLOG2_EXT (R97). -/
  | flog2Ext (w : ExtA)
  /-- FSIN (R97). -/
  | fsin (w : Base)
  /-- FSIN_EXT (R97). -/
  | fsinExt (w : ExtA)
  /-- FCOS (R97). -/
  | fcos (w : Base)
  /-- FCOS_EXT (R97). -/
  | fcosExt (w : ExtA)
  /-- FTANH (R97). -/
  | ftanh (w : Base)
  /-- FTANH_EXT (R97). -/
  | ftanhExt (w : ExtA)
  /-- HADD2 (R98). -/
  | hadd2 (w : ExtA)
  /-- HMUL2 (R98). -/
  | hmul2 (w : ExtA)
  /-- HFMA2 (R98). -/
  | hfma2 (w : ExtA)
  /-- HMIN2 (R98). -/
  | hmin2 (w : ExtA)
  /-- HMAX2 (R98). -/
  | hmax2 (w : ExtA)
  /-- FDOT2 (R99). -/
  | fdot2 (w : ExtA)
  /-- CVT (R104). -/
  | cvt (w : ExtA)
  /-- PACK (R105). -/
  | pack (w : ExtA)
  /-- UNPACK (R106). -/
  | unpack (w : ExtA)
  /-- MXSCALE (R107). -/
  | mxscale (w : ExtA)
  /-- QNT (R108). -/
  | qnt (w : ExtA)
  /-- ICMP (R100). -/
  | icmp (w : ExtA)
  /-- FCMP (R100). -/
  | fcmp (w : ExtA)
  /-- PLOGIC (R101). -/
  | plogic (w : ExtA)
  /-- PMOV_GET (R102). -/
  | pmovGet (w : ExtA)
  /-- PMOV_PUT (R102). -/
  | pmovPut (w : ExtA)
  /-- MOV (R109). -/
  | mov (w : Base)
  /-- MOV_EXT (R109). -/
  | movExt (w : ExtA)
  /-- MOVL (R109). -/
  | movl (w : ExtA)
  /-- MOVS (R110). -/
  | movs (w : ExtA)
  /-- BRA (R111). -/
  | bra (w : ExtA)
  /-- BRX (R112). -/
  | brx (w : ExtA)
  /-- CALL (R113). -/
  | call (w : ExtA)
  /-- RET (R113). -/
  | ret (w : ExtA)
  /-- EXIT (R114). -/
  | exit (w : Base)
  /-- EXIT_EXT (R114). -/
  | exitExt (w : ExtA)
  /-- NOP (R115). -/
  | nop (w : Base)
  /-- NOP_EXT (R115). -/
  | nopExt (w : ExtA)
  /-- YIELD (R115). -/
  | yield (w : Base)
  /-- YIELD_EXT (R115). -/
  | yieldExt (w : ExtA)
  /-- TRAP (R116). -/
  | trap (w : ExtA)
  /-- ERET (R118). -/
  | eret (w : Base)
  /-- ERET_EXT (R118). -/
  | eretExt (w : ExtA)
  /-- RDSYS (R119). -/
  | rdsys (w : ExtA)
  /-- WRSYS (R119). -/
  | wrsys (w : ExtA)
  /-- SHFL (R120). -/
  | shfl (w : ExtA)
  /-- VOTE (R121). -/
  | vote (w : ExtA)
  /-- MATCH (R122). -/
  | matchLanes (w : ExtA)
  /-- REDG (R123). -/
  | redg (w : ExtA)
  /-- ELECT (R124). -/
  | elect (w : ExtA)
  /-- PRMT (R125). -/
  | prmt (w : ExtA)
  /-- LD (R127). -/
  | ld (w : ExtM)
  /-- ST (R127). -/
  | st (w : ExtM)
  /-- LDL (R130). -/
  | ldl (w : ExtM)
  /-- STL (R130). -/
  | stl (w : ExtM)
  /-- LDC (R131). -/
  | ldc (w : ExtM)
  /-- PREF (R132). -/
  | pref (w : ExtM)
  /-- LDS (R157). -/
  | lds (w : ExtM)
  /-- STS (R157). -/
  | sts (w : ExtM)
  /-- ATOMS (R159). -/
  | atoms (w : ExtM)
  /-- HOOP_ACQ (R161). -/
  | hoopAcq (w : ExtA)
  /-- HOOP_WAIT (R161). -/
  | hoopWait (w : ExtA)
  /-- HOOP_REL (R161). -/
  | hoopRel (w : ExtA)
  /-- CP (R164). -/
  | cp (w : ExtA)
  /-- CP2D (R164). -/
  | cp2d (w : ExtA)
  /-- CPG (R164). -/
  | cpg (w : ExtA)
  /-- CPS (R164). -/
  | cps (w : ExtA)
  /-- CPQ (R169). -/
  | cpq (w : ExtA)
  /-- BART (R170). -/
  | bart (w : ExtA)
  /-- BARR_ARV (R170). -/
  | barrArv (w : ExtA)
  /-- BARR_WT (R170). -/
  | barrWt (w : ExtA)
  /-- FENCES (R172). -/
  | fences (w : ExtA)
  /-- WAYM (R173). -/
  | waym (w : ExtA)
  /-- WBLD (R185). -/
  | wbld (w : ExtA)
  /-- MLOOP (R185). -/
  | mloop (w : ExtA)
  /-- MSTEP (R185). -/
  | mstep (w : ExtA)
  /-- MWAIT (R188). -/
  | mwait (w : ExtA)
  /-- ACCRD (R189). -/
  | accrd (w : ExtA)
  /-- ACCWR (R190). -/
  | accwr (w : ExtA)
  /-- ACCCLR (R191). -/
  | accclr (w : ExtA)
  /-- OHND (R181). -/
  | ohnd (w : ExtA)
  /-- OHND_CLR (R181). -/
  | ohndClr (w : ExtA)
  /-- NSEND (R201). -/
  | nsend (w : ExtA)
  /-- NRECV (R201). -/
  | nrecv (w : ExtA)
  /-- NPOLL (R201). -/
  | npoll (w : ExtA)
  /-- BARC (R204). -/
  | barc (w : ExtA)
  /-- ATOM (R241). -/
  | atom (w : ExtM)
  /-- RED (R241). -/
  | red (w : ExtM)
  /-- LR (R242). -/
  | lr (w : ExtM)
  /-- SC (R242). -/
  | sc (w : ExtM)
  /-- WAITC (R243). -/
  | waitc (w : ExtM)
  /-- PHASE (R245). -/
  | phase (w : ExtA)
  /-- DISC (R247). -/
  | disc (w : ExtM)
  /-- CWB (R247). -/
  | cwb (w : ExtM)
  /-- CINV (R247). -/
  | cinv (w : ExtM)
  /-- QPOST (R301). -/
  | qpost (w : ExtA)
  /-- COLL (R352). -/
  | coll (w : ExtA)
  /-- COLLW (R353). -/
  | collw (w : ExtA)
  /-- COLLC (R354). -/
  | collc (w : ExtA)
  /-- QUARTER_ISSUE (R142). -/
  | quarterIssue (core quarter : Nat)
  /-- ACTIVE_PLACE_GRANT (R140). -/
  | activePlaceGrant (core quarter : Nat)
  /-- ACTIVE_PLACE_YIELD (R140). -/
  | activePlaceYield (core quarter : Nat)
  /-- PORT_RESULT_LANDS (R42). -/
  | portResultLands (g : GRef)
  /-- LOAD_DATA_RETURN (R44). -/
  | loadDataReturn (load piece : Nat)
  /-- CONSTANT_CACHE_FILL (R58). -/
  | constantCacheFill (g : GRef)
  /-- INSTRUCTION_FETCH_FILL (R47). -/
  | instructionFetchFill (g : GRef)
  /-- DISPATCHER_ADMIT (R196). -/
  | dispatcherAdmit (cluster : Nat)
  /-- TEAM_SAVE (R152). -/
  | teamSave (team : Nat)
  /-- TEAM_RESTORE (R152). -/
  | teamRestore (team : Nat)
  /-- COPY_COMMAND_START (R163). -/
  | copyCommandStart (core : Nat)
  /-- COPY_ENGINE_WRITE (R167). -/
  | copyEngineWrite (core cmd count : Nat)
  /-- COPY_RESUME (R168). -/
  | copyResume (core cmd : Nat)
  /-- COPY_COMMAND_COMPLETE (R163). -/
  | copyCommandComplete (core cmd : Nat)
  /-- MATRIX_STEP_START (R187). -/
  | matrixStepStart (core : Nat)
  /-- OPERAND_CACHE_FILL (R187). -/
  | operandCacheFill (core : Nat)
  /-- MATRIX_STEP_UPDATE (R176). -/
  | matrixStepUpdate (core : Nat)
  /-- MATRIX_ENTRY_COMPLETE (R187). -/
  | matrixEntryComplete (core : Nat)
  /-- WBLD_TRANSFER (R185). -/
  | wbldTransfer (core : Nat)
  /-- ACCUMULATOR_PERFORM (R186). -/
  | accumulatorPerform (core : Nat)
  /-- MESSAGE_ARRIVAL (R198). -/
  | messageArrival (cluster side channel : Nat)
  /-- SLICE_REQUEST (R213). -/
  | sliceRequest (slice : Nat) (src : Src)
  /-- SLICE_FILL_RETURN (R213). -/
  | sliceFillReturn (slice set : Nat)
  /-- REPLICA_INVALIDATION_ACK (R216). -/
  | replicaInvalidationAck (line holder : Nat)
  /-- REPLICA_DROP_NOTICE (R217). -/
  | replicaDropNotice (line holder : Nat)
  /-- L1_WRITEBACK_ARRIVAL (R147). -/
  | l1WritebackArrival (slice : Nat) (src : Src)
  /-- MONITOR_DEADLINE (R223). -/
  | monitorDeadline (slice entry : Nat)
  /-- OVERFLOW_REEVALUATION (R224). -/
  | overflowReevaluation (slice : Nat)
  /-- WAITC_OVERFLOW_RETRY (R224). -/
  | waitcOverflowRetry (slice req : Nat)
  /-- VAULT_SCRUB (R218). -/
  | vaultScrub (line : Nat) (uncorrectable : Bool)
  /-- WEAVER_RECORD_READ (R257). -/
  | weaverRecordRead (node die : Nat)
  /-- WEAVER_CLAIM (R258). -/
  | weaverClaim (node die : Nat)
  /-- TEAM_CREATE (R259). -/
  | teamCreate (node die : Nat)
  /-- WEAVER_SPILL_RESCAN (R261). -/
  | weaverSpillRescan (node die : Nat)
  /-- WEAVER_DEFER_WAKE (R263). -/
  | weaverDeferWake (node die : Nat)
  /-- WEAVER_NONOWNER_WAIT (R257). -/
  | weaverNonownerWait (node die : Nat)
  /-- WEAVER_REPAIR_WAKE (R264). -/
  | weaverRepairWake (node die : Nat)
  /-- TEAM_RETIRE (R267). -/
  | teamRetire (team : Nat)
  /-- NODE_RETIRE (R303). -/
  | nodeRetire (node : Nat)
  /-- QUEUE_DOORBELL (R293). -/
  | queueDoorbell (part queue : Nat) (w : Word)
  /-- QUEUE_CLR (R295). -/
  | queueClr (part queue : Nat)
  /-- QUEUE_HEAD_START (R294). -/
  | queueHeadStart
  /-- ABORTED_PACKET_DRAIN (R295). -/
  | abortedPacketDrain (part queue : Nat)
  /-- PACKET_BARRIER_EVALUATE (R300). -/
  | packetBarrierEvaluate (part queue : Nat)
  /-- PACKET_SIGNAL (R298). -/
  | packetSignal (pkt : Nat)
  /-- PACKET_COPY (R298). -/
  | packetCopy (pkt count : Nat)
  /-- PACKET_COMPLETION (R299). -/
  | packetCompletion (pkt : Nat)
  /-- QUEUE_ENGINE_ACCESS_PAUSE (R367). -/
  | queueEngineAccessPause (part queue : Nat)
  /-- NODE_START (R303). -/
  | nodeStart (node : Nat)
  /-- ARENA_BIRTH (R310). -/
  | arenaBirth (node : Nat)
  /-- NODE_KILL (R303). -/
  | nodeKill (node : Nat)
  /-- SHAKEOUT (R311). -/
  | shakeout (node : Nat)
  /-- FAULT_QUEUE_POST (R305). -/
  | faultQueuePost (part : Nat)
  /-- FQR_WRITE (R306). -/
  | fqrWrite (part : Nat) (r : Word)
  /-- FAULT_RESUME (R307). -/
  | faultResume (part : Nat) (index : Word)
  /-- FAULT_KILL (R307). -/
  | faultKill (part : Nat) (index : Word)
  /-- FAULT_STAT_POLL (R307). -/
  | faultStatPoll (part : Nat) (index : Word)
  /-- PAGE_WALK (R280). -/
  | pageWalk (die part : Nat) (va : BitVec 56)
  /-- SHOOTDOWN_GO (R285). -/
  | shootdownGo (port : Port) (part : Nat) (drop : Bool)
  /-- SHOOTDOWN_COMPLETE (R285). -/
  | shootdownComplete (part : Nat)
  /-- HEAT_TABLE_COMMIT (R313). -/
  | heatTableCommit (port : Port) (nent : Word)
  /-- HEAT_START (R315). -/
  | heatStart (cluster : Nat)
  /-- CSEM_WRITE (R323). -/
  | csemWrite (port : Port) (val : Word)
  /-- PORT_RESET_RELEASE (R323). -/
  | portResetRelease (port : Port)
  /-- REGISTER_WRITE (R272). -/
  | registerWrite (port : Port) (offset : Nat) (bytes : List Byte)
  /-- FUSE_COUNTER_WRITE (R327). -/
  | fuseCounterWrite (port : Port) (val : Word)
  /-- BOOT_ROM_LOAD (R326). -/
  | bootRomLoad (die : Nat)
  /-- ATTESTATION_REQUEST (R328). -/
  | attestationRequest (die : Nat) (nonce : BitVec 256)
  /-- CLOCK_THROTTLE (R329). -/
  | clockThrottle (overPower overTemp : Bool)
  /-- UCIE_FLIT_RECEIVE (R321). -/
  | ucieFlitReceive (m : UcieRef) (flit : List Byte)
  /-- UCIE_REPLAY (R321). -/
  | ucieReplay (m : UcieRef)
  /-- UCIE_LANE_LOSS (R322). -/
  | ucieLaneLoss (m : UcieRef)
  /-- YUNAMBI_FLIT_RECEIVE (R331). -/
  | yunambiFlitReceive (port : Nat) (flit : List Byte)
  /-- YUNAMBI_REPLAY (R331). -/
  | yunambiReplay (port : Nat)
  /-- PORT_WITHDRAW (R333). -/
  | portWithdraw (port : Nat)
  /-- NO_ROUTE_NOTICE (R333). -/
  | noRouteNotice (dest plane : Nat)
  /-- REMOTE_PACKET_APPLY (R337). -/
  | remotePacketApply (p : RemPkt)
  /-- REMOTE_RESPONSE_ARRIVAL (R335). -/
  | remoteResponseArrival (r : RemRsp)
  /-- REMOTE_RESEND (R337). -/
  | remoteResend (st : StreamId) (seq : Word)
  /-- PEER_UNREACHABLE (R337). -/
  | peerUnreachable (st : StreamId)
  /-- TAP_POST_ARRIVAL (R341). -/
  | tapPostArrival (member comm : Nat) (tag : Word) (key : CollKey)
  /-- TAP_CANCEL_ARRIVAL (R345). -/
  | tapCancelArrival (member comm : Nat) (tag : Word)
  /-- TAP_NUMBER_RECEIVED (R350). -/
  | tapNumberReceived (comm : Nat) (tag tap : Word) (epoch : Byte)
  /-- COLLECTIVE_START (R343). -/
  | collectiveStart (comm : Nat) (reports : List DoneReport)
  /-- START_RECEIVED (R350). -/
  | startReceived (comm : Nat) (tap : Word) (epoch : Byte)
  /-- COLLECTIVE_DONE (R350). -/
  | collectiveDone (comm : Nat) (tap : Word) (peers : List (Nat × List Byte))
  /-- COLLECTIVE_PAUSE_RESUME (R347). -/
  | collectivePauseResume (comm : Nat) (tap : Word)
  /-- SEQUENCER_HEARTBEAT (R346). -/
  | sequencerHeartbeat (received : Bool)
  /-- DISPATCHER_HEAD_TIMEOUT (R196). -/
  | dispatcherHeadTimeout (cluster : Nat)
  /-- RECOVERY_REPLY (R346). -/
  | recoveryReply (member : Nat) (slots : List SlotReport)
  /-- PRIORITY_AGING (R294). -/
  | priorityAging (part queue : Nat)
  /-- SEQUENCER_FAILOVER (R346). -/
  | sequencerFailover
  /-- PACKAGE_RESET (R324). -/
  | packageReset
  /-- UNIT_READY (R324). -/
  | unitReady (u : ReadyUnit)
  /-- PORT_TRAINING (R332). -/
  | portTraining (p : TrainPort) (lanes rtc : Nat)
  /-- SOFT_ERROR (R212). -/
  | softError (u : ErrUnit) (uncorrectable : Bool)
  /-- COLLC_REPLY_ARRIVAL (R354). -/
  | collcReplyArrival (comm : Nat) (tag : Word) (reply : CollcReply)
  /-- CANCELLED_RECEIVED (R345). -/
  | cancelledReceived (comm : Nat) (tag : Word) (epoch : Byte)
  /-- FAILED_RECEIVED (R343). -/
  | failedReceived (comm : Nat) (tap : Word) (epoch : Byte)
  /-- RECOVERY_REQUEST_ARRIVAL (R346). -/
  | recoveryRequestArrival (epoch : Byte) (standby : Nat)
  /-- SEQUENCER_LOST (R346). -/
  | sequencerLost
  deriving DecidableEq, Repr

end Sys2Proof
end

