-- ==== Sys2Proof/Config.lean ====
section
/-!
DEFINITION. What an implementation fixes, and the free values: constants without a body, so that nothing can be proved of
their values.
-/

namespace Sys2Proof.Config

/-- Live slices of sector S of any die after bring-up (R211).
DESIGN CHOICE, log 6: the fuses name the sector with 22 live slices; the model takes S0. -/
def liveSlices (sector : Nat) : Nat := if sector = 0 then 22 else 21

/-- The fused SHA-512 hash of the firmware public key (R326).
A free value, log 8. -/
opaque keyHash : BitVec 512

/-- The bytes of a public key, from modulus and exponent, that are hashed (R326); the header's layout is not given.
A free value, log 8. -/
opaque keyBytes : Nat → Nat → List Byte

/-- The measurement register that the ROM of a die extends with an image's digest (R328).
A free value, log 8. -/
opaque romRegister : Nat → Nat

/-- The measurement register that the k-th stage after the ROM of a die extends before it runs the next one (R328).
A free value, log 8. -/
opaque stageRegister : Nat → Nat → Nat

/-- The signature of a die's identity key over a report, the n-th that it signs (R328); the key never leaves the die.
A free value, log 8. -/
opaque deviceSign : Nat → Nat → Report → Nat

/-- The number of flits of a packet, taken modulo its channel's largest packet, less one (R332).
A free value, log 61. -/
opaque fabFlits : FabMsg → Nat

/-- The 240 bytes of a packet's pieces in its k-th flit (R331): the spec gives packets no format.
A free value, log 61. -/
opaque fabPiece : FabMsg → Nat → BitVec 1920

/-- The module of an edge to which a pair of a source and a destination port is mapped, taken modulo 16 (R322).
A free value, log 42. -/
opaque moduleOf : Nat → Nat → Nat → Nat

/-- Which of the remaining modules of an edge takes the traffic of a dead module: a number, taken modulo their count (R322).
A free value, log 42. -/
opaque remapTo : Nat → Nat → Nat

/-- The value of an open 32-bit result, a function of a number that the operands give.
A free value, log 5. -/
opaque freeWord : Nat → Word

/-- How far the %clk that a core reads is ahead of the package's count: reads on different cores at one instant differ by 8
cycles at most (R110).
A free value, log 7. -/
opaque clkSkew : Nat → Fin 9

end Sys2Proof.Config
end

