-- ==== Sys2Proof/Machine/State.lean ====
section
/-!
DEFINITION. The state of one package, as plain data, and the state after reset.
Every field's default value is its value at reset (spec where the rule gives one; log 1, 3, 4 and 6 where it gives none).
-/

namespace Sys2Proof.Machine

/-- Byte memory: pairs of address and byte, addresses strictly rising, no byte equal to what an unlisted address reads as. -/
abbrev Mem := List Host.Cell

/-! ### Lanes, groups and splits -/

/-- The role of a group (R110). -/
inductive Role where
  | copy | matrix | vector
  deriving DecidableEq, Repr

/-- STATE of a split slot (R16, R22). -/
inductive SplitSt where
  | free | runnable | waiting | parked | held
  deriving DecidableEq, Repr

/-- An entry of a split's path stack (R19). -/
inductive StackEnt where
  | path (pc : BitVec 56) (mask : Mask) (join : BitVec 56)
  | reconverge (pc : BitVec 56) (mask : Mask)
  deriving DecidableEq, Repr

/-- An occupied join-table entry (R17). -/
structure JoinEnt where
  j : BitVec 56
  m : Mask
  a : Mask
  parent : BitVec 2
  deriving DecidableEq, Repr

/-- What a WAITING split waits for (R22). -/
inductive WaitFor where
  | hoop (h : Nat)
  | bart
  | barr (k : Nat)
  | barc (k : Nat)
  | nrecv (side channel : Nat)
  | mwait (n : Nat)
  /-- A registered WAITC: the physical word address, the operand, the mode and the deadline unit, if any (R243). -/
  | waitc (word : Nat) (opnd : Word) (mode : BitVec 3) (deadline : Option Nat) (swap : Bool)
  | collw (slot : Nat) (keep : Bool)
  | collc (comm : Nat) (tag : Word)
  deriving DecidableEq, Repr

/-- The outcome of a wait: its flag and the words of its destination, low and high (R22). -/
structure WaitOut where
  flag : Bool
  lo : LVec
  hi : LVec
  deriving DecidableEq, Repr

/-- A wait: what for, the address of the waiting instruction, its destination, predicate and executing lanes. -/
structure Wait where
  on : WaitFor
  ipc : BitVec 56
  dst : Operand
  wide : Bool
  pd : Option (BitVec 3)
  lanes : Mask
  /-- The cycle in which the waiting instruction issued (R13). -/
  iss : Nat := 0
  deriving DecidableEq, Repr

/-- A split slot (R16); DEPTH is the length of `stack`, whose first entry is the top. -/
structure Split where
  st : SplitSt := .free
  pc : BitVec 56 := 0
  mask : Mask := 0
  jrec : BitVec 2 := 3
  stack : List StackEnt := []
  wait : Option Wait := none
  /-- The outcome recorded while the split is HELD or its team is saved (R22). -/
  out : Option WaitOut := none
  /-- The state held before the cause, while HELD. -/
  pre : SplitSt := .free
  deriving DecidableEq, Repr

/-- The trap state of a group (R117, R119). -/
structure TrapSt where
  tvec : DWord := 0
  ecause : Word := 0
  epc : DWord := 0
  emask : Word := 0
  einfo : DWord := 0
  eslot : Word := 0
  /-- The slot whose handler runs, if any. -/
  handling : Option Nat := none
  /-- The handling split's DEPTH at entry. -/
  depth : Nat := 0
  deriving DecidableEq, Repr

/-- A location a port result can be written to (R31, R33). -/
inductive Loc where
  | v (n : Nat)
  | s (n : Nat)
  | oc (n : Nat)
  | la
  | lb
  | p (n : Nat)
  deriving DecidableEq, Repr

/-- A port result that is not yet visible (R32, R42): where, in which lanes, and the words or, for a predicate, the bits;
`slot` is the split that issued it, and `iss` the cycle in which it did (R13). -/
structure PendWrite where
  at_ : Nat
  slot : Nat
  loc : Loc
  lanes : Mask
  val : LVec
  bits : Mask
  iss : Nat := 0
  deriving DecidableEq, Repr

/-- The class of a line (R214). -/
inductive Cls where
  | other | weight | act | kv
  deriving DecidableEq, Repr

/-- A translation: the page of `2^bits` bytes at virtual page number `page` of a partition, with its leaf (R278, R280).
`arena` tags an arena translation with its index and generation (R275). -/
structure TlbEnt where
  part : Nat
  page : Nat
  bits : Nat
  frame : Nat
  cls : Cls
  w : Bool
  d : Bool
  peer : BitVec 9
  arena : Option (Nat × Nat)
  deriving DecidableEq, Repr

/-- Where an agent's access lies: at the home in this package, or in the package `peer` (R276). -/
structure Spot where
  pa : Nat := 0
  cls : Cls := .other
  arena : Bool := false
  peer : Option Nat := none
  deriving DecidableEq, Repr

/-- A fetch that holds a group: an instruction line or a constant-cache word (R47, R58). -/
inductive Want where
  | fetch (va : BitVec 56)
  | const (va : BitVec 56)
  deriving DecidableEq, Repr

/-- A group of a team (R13). -/
structure Group where
  role : Role
  /-- %grp, the index within the role. -/
  grp : Nat
  /-- The register allotment N. -/
  n : Nat
  v : NMap LVec := []
  s : NMap Word := []
  /-- The cycle in which the last write of a uniform register by each split issued, by 4 × register + slot (R13). -/
  swr : NMap Nat := []
  p : NMap Mask := []
  la : Option LVec := none
  lb : Option LVec := none
  oc : NMap LVec := []
  sb : NMap Nat := []
  /-- The line of the current reservation (R221). -/
  rsv : Option Nat := none
  srstate : Word := 0
  splits : NMap Split := []
  joins : NMap JoinEnt := []
  trap : TrapSt := {}
  live : Mask := 0xFFFFFFFF
  cur : Nat := 0
  runLen : Nat := 0
  /-- The last issued instruction was a run end. -/
  atEnd : Bool := true
  pend : List PendWrite := []
  nextIssue : Nat := 0
  dead : NMap Mask := []
  lastPage : NMap TlbEnt := []
  progress : Nat := 0
  quarter : Nat := 0
  /-- The first main-file unit of 1 KiB (R137). -/
  unit : Nat := 0
  /-- The active place 0–3, when active. -/
  place : Option Nat := none
  /-- The cycle since which the group has been ready and inactive or, while it is active, the one in which it took its place (R140). -/
  readySince : Nat := 0
  lastIssue : Nat := 0
  /-- Outstanding operations that must perform before the next issue (R246, R247): stores to other packages among them in
  `holdFar` alone, which a boundary of scope POD fills (R229, R338). -/
  hold : List Nat := []
  holdFar : List Nat := []
  /-- A PKG boundary has not completed: with it, clean copies that have come into L1 meanwhile go (R229, R232). -/
  stale : Bool := false
  /-- The PHASE of a BARC.ph has been started, so that its next issue arrives (R204). -/
  phased : Bool := false
  want : Option Want := none
  /-- Cycles for which the group has been eligible since its last issue (R142), and the cycle after the one counted last. -/
  waited : Nat := 0
  waitMark : Nat := 0
  /-- The PC of the instruction that waits for its banks, with the cycle from which it could otherwise issue (R40). -/
  banked : Option (BitVec 56 × Nat) := none
  /-- The cycle after the one in which the group was last found unable to issue though picked (R58, R142). -/
  tried : Nat := 0
  /-- The largest %clk read, below which no later read goes (R110). -/
  clkSeen : Nat := 0
  deriving DecidableEq, Repr

/-! ### Teams -/

/-- Slot tags of a hoop (R150). -/
inductive Tag where
  | empty | filling | full | draining
  deriving DecidableEq, Repr

/-- A split that waits in a queue. -/
structure Waiter where
  g : GRef
  slot : Nat
  deriving DecidableEq, Repr

/-- A hoop: its configuration, its state word field by field, fill counters and waiters (R150, R162). -/
structure Hoop where
  off : Nat
  ssz : Nat
  nslot : Nat
  tag : NMap Tag := []
  ph : NMap Bool := []
  fill : NMap Nat := []
  nacq : Nat := 0
  nwt : Nat := 0
  nrel : Nat := 0
  waiters : List Waiter := []
  deriving DecidableEq, Repr

/-- Arrivals at a barrier of a team in the current generation (R170): per group the lanes that have arrived. -/
structure Bar where
  lanes : NMap Mask := []
  /-- The n that each group named last in this generation. -/
  counts : NMap Nat := []
  /-- Groups that have arrived, kept when a group exits after arriving. -/
  arrived : List Nat := []
  /-- n of the generation's first arrival. -/
  first : Option Nat := none
  gen : Nat := 0
  waiters : List Waiter := []
  deriving DecidableEq, Repr

/-- A copy command (R165). -/
structure CopyCmd where
  kind : Nat
  pad : Byte
  clip : Bool
  dk : Bool
  sk : Bool
  n : Nat
  src : Nat
  dst : Nat
  sstr : Nat
  dstr : Nat
  rowb : Nat
  boxh : Nat
  bstr : Nat
  idx : Nat
  srows : Nat
  srowb : Nat
  len : Nat
  deriving DecidableEq, Repr

/-- A patch record (R165). -/
structure Patch where
  y0 : Int
  x0 : Int
  h : Nat
  w : Nat
  deriving DecidableEq, Repr

/-- An entry of a copy queue (R163): the number of the next write of R167, the pause of R168, and the patch record of the box that
is being copied, by the number of the box, as it was read before the box's first write (R167). -/
structure CopyEnt where
  id : Nat
  team : Nat
  cmd : CopyCmd
  started : Bool := false
  pos : Nat := 0
  paused : Bool := false
  rec_ : Option (Nat × Patch) := none
  deriving DecidableEq, Repr

/-- An operand handle (R181). -/
structure Handle where
  word : Word := 0
  set : Bool := false
  gen : BitVec 16 := 0
  deriving DecidableEq, Repr

/-- The loop block of MLOOP and MSTEP (R177). -/
structure LoopBlk where
  aoff : Int
  ainc : Int
  saoff : Int
  sainc : Int
  astr : Nat
  boff : Int
  binc : Int
  sboff : Int
  sbinc : Int
  deriving DecidableEq, Repr

/-- What a sequencer entry does (R183). -/
inductive MxWork where
  | wbld (src len dst done : Nat)
  | loop (tile : Nat) (z : Bool) (ha hb : Nat) (wa wb : Word) (blk : LoopBlk) (total next : Nat)
  deriving DecidableEq, Repr

/-- A sequencer entry; `ready` is the earliest cycle of its first step or byte (R187). -/
structure MxEnt where
  id : Nat
  work : MxWork
  ready : Nat
  lastStart : Nat := 0
  started : Bool := false
  deriving DecidableEq, Repr

/-- A step whose tile update is not yet visible (R187): the new elements of the tile are computed when it becomes visible,
from the element codes and scales of the rows as read at its start, the B rows expanded. -/
structure MxStep where
  entry : Nat
  tile : Nat
  zero : Bool
  wa : Word
  wb : Word
  arows : List (List Nat)
  ascales : List (List Nat)
  brows : List (List Nat)
  bscales : List (List Nat)
  at_ : Nat
  deriving DecidableEq, Repr

/-- An accumulator instruction that has not performed (R186): the entries before which it must not perform. -/
inductive AccOp where
  | read (tile q : Nat) (tr ik sat : Bool) (rnd conv : Nat) (sr : Word) (load : Nat)
  | write (tile q : Nat) (tr : Bool) (lanes : Mask) (val : LVec)
  | clear (tile n : Nat) (sticky : Bool)
  deriving DecidableEq, Repr

structure AccIns where
  op : AccOp
  /-- Entries accepted earlier. -/
  after : List Nat
  deriving DecidableEq, Repr

/-- A line of the operand cache (R182). -/
structure OcLine where
  h : Nat
  gen : BitVec 16
  off : Nat
  bytes : List Byte
  deriving DecidableEq, Repr

/-- A matrix unit (R174–R187). -/
structure MxUnit where
  owner : Option Nat := none
  acc : NMap Word := []
  sticky : Bool := false
  wb : Mem := []
  hnd : NMap Handle := []
  ocache : List OcLine := []
  entries : List MxEnt := []
  steps : List MxStep := []
  accq : List AccIns := []
  /-- Lines arriving from scratch with the cycle after which each is present. -/
  fills : List (OcLine × Nat) := []
  fillFree : Nat := 0
  lastStep : Nat := 0
  deriving DecidableEq, Repr

/-- Why a team is saved (R152). -/
inductive SaveWhy where
  | fault
  | swap (g : GRef) (slot : Nat)
  | heat
  deriving DecidableEq, Repr

/-- The part of a context frame that is not a group record (R153). -/
structure Frame where
  scratch : Mem
  copies : List CopyEnt
  mx : Option MxUnit
  why : SaveWhy
  deriving DecidableEq, Repr

/-- Where a team is. -/
inductive Place where
  /-- In the queue of a cluster, created or saved. -/
  | queued (cluster : Nat)
  | resident (core : Nat)
  /-- Admitted to a core, its frame not yet read back (R152). -/
  | restoring (core : Nat)
  /-- Saved in the shadow region of a cluster's vault. -/
  | saved (cluster : Nat)
  | retired
  deriving DecidableEq, Repr

/-- A team (R259). -/
structure Team where
  id : Nat
  node : Nat
  part : Nat
  lid : Word
  num : Nat
  tlin : Nat
  tc : List Nat
  tiles : Nat
  addr : DWord
  record : Nat
  /-- Where the team's record lies (R267). -/
  recAt : Spot := {}
  /-- A shootdown has dropped that translation: the record is translated again before it is accessed (R285). -/
  recStale : Bool := false
  /-- Group counts of the copy, matrix and vector roles. -/
  gcnt : Nat × Nat × Nat
  groups : List Group
  /-- Rounded scratch bytes. -/
  scr : Nat
  scrBase : Nat := 0
  hoops : NMap Hoop := []
  bart : Bar := {}
  barr : NMap Bar := []
  place : Place
  frame : Option Frame := none
  saving : Option SaveWhy := none
  /-- The cycle from which its groups stop at their run ends, while it is being saved: groups that fault in one cycle all post their
  entries (R287). -/
  stopAt : Nat := 0
  /-- Write-backs that a boundary of the whole team waits for: its release, save, restore or retirement (R228, R304). -/
  boundary : Option (List Nat) := none
  /-- Privileged firmware code (R173); false for every team that a weaver creates. -/
  priv : Bool := false
  deriving DecidableEq, Repr

/-! ### Cores -/

/-- A line of an L1 data cache (R144, R147); `line` is the physical address / 128. -/
structure L1Line where
  line : Nat
  way : Nat
  data : BitVec 1024
  valid : BitVec 256
  dirty : BitVec 256
  cls : Cls
  part : Nat
  deriving DecidableEq, Repr

/-- A core (R135, R144). -/
structure Core where
  wmask : Word := 0
  /-- Sets, each with its lines from MRU to LRU. -/
  l1 : NMap (List L1Line) := []
  scratch : Mem := []
  icache : List (Nat × List Word) := []
  ccache : NMap (BitVec 1024) := []
  tlb : List TlbEnt := []
  victims : List TlbEnt := []
  cq : List CopyEnt := []
  mx : MxUnit := {}
  /-- The cycle after that of each quarter's last issue. -/
  issued : NMap Nat := []
  deriving DecidableEq, Repr

/-! ### Clusters -/

/-- A neighbour message (R198). -/
structure LinkMsg where
  words : LVec
  lanes : Mask
  lid : Word
  tlin : Nat
  deriving DecidableEq, Repr

/-- A message in flight to a FIFO of a cluster (R198). -/
structure FlyMsg where
  cluster : Nat
  side : Nat
  channel : Nat
  at_ : Nat
  part : Nat
  msg : LinkMsg
  deriving DecidableEq, Repr

/-- A cluster barrier (R204). -/
structure CBar where
  lid : Option Word := none
  first : Option Nat := none
  /-- Per team: the barrier count it named and its groups' lanes that have arrived. -/
  lanes : NMap (NMap Mask) := []
  counts : NMap Nat := []
  arrived : List Nat := []
  gen : Nat := 0
  waiters : List Waiter := []
  deriving DecidableEq, Repr

/-- The links, barriers and dispatcher queue of a cluster: partition state (R199, R315). -/
structure LinkSt where
  /-- FIFOs by 4 × side + channel, oldest message first. -/
  fifo : NMap (List LinkMsg) := []
  /-- Credits spent by this cluster as a sender, by 4 × direction + channel. -/
  spent : NMap Nat := []
  waiters : NMap (List Waiter) := []
  bars : NMap CBar := []
  dq : List Nat := []
  /-- The cycle at which the head of the queue became the head. -/
  headSince : Nat := 0
  /-- The head has waited 4,096 cycles: no team overtakes it (R196). -/
  alone : Bool := false
  deriving DecidableEq, Repr

/-- A cluster (R195–R204, R315). -/
structure Cluster where
  links : LinkSt := {}
  tlb : List TlbEnt := []
  /-- The resident partition. -/
  part : Option Nat := none
  /-- The partition to which the cluster is switching. -/
  switching : Option (Option Nat) := none
  /-- The state of the partitions that are switched out. -/
  out : NMap LinkSt := []
  vshad : Word := 0
  deriving DecidableEq, Repr

/-! ### Memory side -/

/-- A hardware agent that accesses lines at their homes: who waits there for its turn (R213, R216). -/
inductive Agent where
  /-- A fetch for a group: an instruction line or a constant-cache line. -/
  | fetch (g : GRef)
  /-- A QPOST. -/
  | post (g : GRef)
  | copy (core cmd : Nat)
  | weaver (node die : Nat)
  /-- A queue's head, as 64 × partition + queue. -/
  | head (queue : Nat)
  | packet (id : Nat)
  | node (id : Nat)
  /-- The retirement of a team. -/
  | team (id : Nat)
  | coll (part slot : Nat)
  | faults (part : Nat)
  | shootdown (part : Nat)
  /-- A stream of packets from another package. -/
  | stream (peer : Nat) (atom : Bool)
  /-- A store whose lanes' accesses lie in several lines (R225). -/
  | op (id : Nat)
  deriving DecidableEq, Repr

/-- An access of a hardware agent to another package: the line there, the operation's identity in its stream, and the answer with the
cycle in which it arrived: a cause or 0, and the line or the old value (R276, R335). -/
structure FarOp where
  who : Agent
  peer : Nat
  line : Nat
  op : Nat
  /-- The partition for which it was translated, and the epoch (R285). -/
  part : Option Nat := none
  epoch : Nat := 0
  done : Option (Nat × Nat × BitVec 1024) := none
  deriving DecidableEq, Repr

/-- What a request asks of a line at a slice (R213, R238). -/
inductive ReqOp where
  | read (bypass : Bool)
  | write (data : BitVec 1024) (mask : BitVec 256) (writeback : Bool)
  | atom (hnd size : Nat) (ops : List LaneOp)
  | lr (off size : Nat)
  /-- `held` says that the core held a reservation of the line when the SC issued (R221). -/
  | sc (off size : Nat) (val : DWord) (held : Bool)
  | waitc (off : Nat) (opnd : Word) (mode : BitVec 3) (timeout : Word) (swap : Bool) (slot : Nat)
  | disc
  /-- The release of a reservation at its old home (R221). -/
  | release
  /-- The place of a hardware agent's access in the order of arrival: the agent performs it when its turn has come. -/
  | agent (who : Agent) (write : Bool)
  deriving DecidableEq, Repr

/-- A request on its way to a slice, or held there. -/
structure Req where
  /-- The outstanding operation it belongs to, and the piece of it. -/
  op : Nat
  piece : Nat
  src : Src
  line : Nat
  cls : Cls
  arena : Bool
  g : GRef
  part : Nat
  epoch : Nat
  body : ReqOp
  deriving DecidableEq, Repr

/-- A line of a slice (R212, R214, R215). -/
structure SLine where
  line : Nat
  data : BitVec 1024
  valid : BitVec 256
  dirty : BitVec 256
  cls : Cls
  replica : Bool
  poison : Bool
  deriving DecidableEq, Repr

/-- A blocked set (R213): the line being filled with its class, the request that missed, none for a page walk, and the wait
chain. -/
structure Blocked where
  set : Nat
  line : Nat
  cls : Cls
  first : Option Req
  chain : List Req
  deriving DecidableEq, Repr

/-- Requests held at a home while invalidations of a line are outstanding (R216), or behind the access of a hardware agent
whose turn it is, with the cycle in which the agent was last heard of. -/
structure Held where
  line : Nat
  awaiting : BitVec 12
  owner : Option (Agent × Nat) := none
  /-- The agent knows that its turn has come; one of another die is told by a message (R321). -/
  told : Bool := true
  reqs : List Req
  deriving DecidableEq, Repr

/-- Who a monitor wakes (R222). -/
inductive MonWho where
  | group (g : GRef) (slot : Nat)
  | team (g : GRef) (slot : Nat)
  | weaver (node die : Nat)
  | queue (part queue : Nat)
  | fault (part : Nat) (index : Word)
  deriving DecidableEq, Repr

/-- A monitor or overflow entry (R222, R224); the deadline is in units of 256 cycles. -/
structure Mon where
  word : Nat
  opnd : Word
  mode : BitVec 3
  who : MonWho
  deadl : Option Nat
  deriving DecidableEq, Repr

/-- A slice of the last-level cache (R212–R224). -/
structure Slice where
  /-- Sets, each with its lines from MRU to LRU. -/
  sets : NMap (List SLine) := []
  /-- Holder vectors of the lines homed here, by line (R215). -/
  holders : NMap (BitVec 12) := []
  clquota : Word := 0x00484210#32
  /-- The bypass queues of the four banks, oldest request first (R213). -/
  queues : NMap (List Req) := []
  /-- Replicas that other dies have granted and that have come here, each with its set (R215, R321). -/
  arrivals : List (Nat × SLine) := []
  /-- Requests that wait at the crossbar for a bank that has stopped, oldest first (R213). -/
  xbar : NMap (List Req) := []
  /-- The cycle from which the atomic unit is free: it performs one lane operation in a cycle (R219). -/
  atomFree : Nat := 0
  blocked : List Blocked := []
  held : List Held := []
  /-- Reservations, oldest first. -/
  resv : List (GRef × Nat) := []
  mons : NMap Mon := []
  overflow : List Mon := []
  /-- WAITCs refused by a full overflow list, each with the cycle of its next try (R224). -/
  refused : List (Req × Nat) := []
  deriving DecidableEq, Repr

/-- How the result of an outstanding operation reaches its registers. -/
inductive OutKind where
  | load | ldc | scratch | atom | lr | sc | accrd
  /-- No register result: a store, RED, WAITC or DISC. -/
  | effect
  /-- A write-back of a line (R147). -/
  | wb
  deriving DecidableEq, Repr

/-- One access of a lane within a line: byte offset, length, and byte position in the lane's value. -/
structure Acc where
  lane : Nat
  off : Nat
  len : Nat
  pos : Nat
  deriving DecidableEq, Repr

/-- The part of an outstanding operation that touches one line; `vals` are the lanes' bytes once bound, lane by lane and
access by access. -/
structure Piece where
  line : Nat
  accs : List Acc
  /-- The line as its slice returned it. -/
  data : Option (BitVec 1024) := none
  vals : Option (List (Nat × BitVec 128)) := none
  landed : Bool := false
  /-- The answer is on its way from another die, so that it has not come to the core (R321). -/
  away : Bool := false
  /-- A remote access over the fabric (R334). -/
  remote : Bool := false
  cls : Cls := .other
  deriving DecidableEq, Repr

/-- An outstanding variable-latency operation (R44). -/
structure Outst where
  id : Nat
  g : GRef
  core : Nat
  kind : OutKind
  sb : Option Nat
  dst : Operand
  /-- Destination registers, 0 to 4. -/
  regs : Nat
  size : Nat
  sx : Bool
  /-- Lanes that receive the result. -/
  lanes : Mask
  /-- Every receiving lane gets the value of this lane (LR, SC, a uniform destination). -/
  from_ : Option Nat
  pieces : List Piece
  part : Nat
  epoch : Nat
  /-- Position in the L1 set at which a filled line enters; none for an access that allocates nothing (R143, R366). -/
  l1pos : Option Nat
  cls : Cls
  /-- A load or store under CLASS L1 bypass (R366). -/
  bypass : Bool := false
  /-- A store to another package, for which only a boundary of scope POD waits (R229, R338). -/
  fabStore : Bool := false
  /-- Each lane's accesses are one event over several lines: its values are bound together (R225). -/
  whole : Bool := false
  /-- The cycle from which the results may land (R189). -/
  at_ : Nat := 0
  /-- The split that issued it, and the cycle in which it did (R13). -/
  slot : Nat := 0
  iss : Nat := 0
  deriving DecidableEq, Repr

/-- A die's translation hardware and registers (R211, R280). -/
structure Die where
  /-- D0 = 22, D1 = D2 = 21 (log 6). -/
  secdiv : Word := 0x000056B6#32
  /-- SECMAP by sector; an absent register holds the identity map (log 6). -/
  secmap : NMap (BitVec 128) := []
  tlb : List TlbEnt := []
  /-- Cached table entries: (partition, level, table index of the virtual address, entry). -/
  walk : List (Nat × Nat × Nat × DWord) := []
  deriving DecidableEq, Repr

/-- A message between dies (R207, R320). -/
inductive RingMsg where
  /-- A request on its way to a slice, or the place that an agent asks for there. -/
  | req (slice : Nat) (r : Req)
  /-- The answer to a piece of an operation: a line, values, or neither for an acknowledgement. -/
  | rsp (op piece : Nat) (data : Option (BitVec 1024)) (vals : Option (List (Nat × BitVec 128)))
  /-- A replica granted, for a set of a slice (R215). -/
  | grant (slice set : Nat) (l : SLine)
  /-- An invalidation to a holder of a line, the holder's answer to the home slice, and a drop notice (R216, R217). -/
  | inval (line holder : Nat)
  | ack (slice line holder : Nat)
  | drop (line holder : Nat)
  /-- The turn of an agent's access to a line of a slice has come. -/
  | turn (slice line : Nat) (a : Agent)
  /-- A message of a neighbour link (R198). -/
  | fly (m : FlyMsg)
  deriving DecidableEq, Repr

/-- A message that crosses dies: from which die to which, the pair of ports that it belongs to, and what it says. -/
structure Crossing where
  from_ : Nat
  to_ : Nat
  pair : Nat × Nat
  msg : RingMsg
  deriving DecidableEq, Repr

/-- One direction of a UCIe module (R320–R322). -/
structure Ucie where
  /-- The receiver's expected SEQ. -/
  exp : Byte := 0
  /-- The sender's next SEQ. -/
  seq : Byte := 0
  /-- Unacknowledged payload flits, oldest first, with the messages that each carries in send order. -/
  replay : List (Byte × List Crossing) := []
  /-- Messages that wait for room in the replay buffer, or for the module to train. -/
  waiting : List Crossing := []
  lanes : Nat := 0
  dead : Bool := false
  /-- PTP time of the last progress of the ACK. -/
  progressAt : Nat := 0
  /-- Flits of 256 bytes on their way to the other end, oldest first. -/
  wire : List (List Byte) := []
  deriving DecidableEq, Repr

/-! ### Queues, nodes and partitions -/

/-- An entry of a fault queue (R305) and the agent that waits for its STAT. -/
inductive FAgent where
  | team (t : Nat)
  | copy (core cmd : Nat)
  | weaver (node die : Nat)
  /-- A queue-engine access: of a queue's head, a packet or a starting node. -/
  | head (queue : Nat)
  | packet (id : Nat)
  | node (id : Nat)
  | coll (slot : Nat)
  deriving DecidableEq, Repr

structure FaultEnt where
  cause : Nat
  kind : Nat
  lid : Word
  va : DWord
  team : Word
  loc : Byte
  record : Word
  reason : Word
  frame : DWord
  node : Nat
  agent : FAgent
  deriving DecidableEq, Repr

/-- A queue descriptor and its head (R292–R295, R300). -/
structure Queue where
  base : DWord := 0
  ctl : Word := 0
  ridx : Word := 0
  widx : Word := 0
  /-- The cycle since which the head has been startable. -/
  since : Option Nat := none
  /-- Full 65,536-cycle waits counted for the head (R294). -/
  age : Nat := 0
  /-- The head packet as read (R294). -/
  got : Option (List Byte) := none
  /-- Signals of the head BARRIER read so far: n, where it lies if it could be read, value (R300). -/
  read : List (Nat × Option Spot × DWord) := []
  /-- The evaluation of the head BARRIER: every signal zero, or some negative. -/
  eval : Option Bool := none
  /-- The head BARRIER waits: the number of monitors armed for it, and whether signals are read every 1,024 cycles instead. -/
  armed : Option (Nat × Bool) := none
  nextRead : Nat := 0
  /-- COPY packets that nodes have posted by QPOST and that have not started, by index: the node (R301, R311). -/
  posted : NMap Nat := []
  /-- An access of the head waits for a fault entry to hold RESUME (R367). -/
  paused : Bool := false
  deriving DecidableEq, Repr

/-- What a started packet still has to do. -/
inductive PktSt where
  | signal
  | copy (pos : Nat)
  | launch
  /-- The completion with this STS: 0 signal write, 1 header write, 2 vector. -/
  | completing (sts : Nat) (stage : Nat)
  deriving DecidableEq, Repr

/-- A packet that has started and not completed (R296–R299). -/
structure Pkt where
  id : Nat
  part : Nat
  queue : Nat
  index : Word
  bytes : List Byte
  st : PktSt
  paused : Bool := false
  /-- The node that has posted it by QPOST (R311). -/
  poster : Option Nat := none
  deriving DecidableEq, Repr

/-- The launch descriptor as read (R249). -/
structure LDesc where
  code : Nat := 0
  entry : Nat × Nat × Nat := (0, 0, 0)
  psz : Nat := 0
  gcnt : Nat × Nat × Nat := (0, 0, 0)
  regs : Nat × Nat × Nat := (0, 0, 0)
  scr : Nat := 0
  tpt : Nat := 1
  sd : Nat := 0
  rw : Bool := false
  arsz : Nat := 0
  tens : Nat := 0
  args : DWord := 0
  opds : List Nat := []
  hoops : List DWord := []
  priv : Nat := 0
  deriving DecidableEq, Repr

/-- The launch tensor's descriptor as read (R251, R252). -/
structure Tensor where
  base : Nat := 0
  fmt : Nat := 0
  rank : Nat := 1
  norep : Bool := false
  tb : Nat := 0
  tstr : Nat := 0
  dims : List Nat := []
  ntiles : Nat := 0
  recs : Nat := 0
  nrec : Nat := 0
  repstr : Nat := 0
  deriving DecidableEq, Repr

/-- A placement record as read (R253). -/
structure Rec where
  first : Word
  count : Word
  loc : Word
  migt : Word
  state : Word
  stamp : Word
  live : Word
  rsvd : Word
  deriving DecidableEq, Repr

/-- What a weaver does next (R257–R264). -/
inductive WSt where
  | read
  /-- The next step of a claim (R258): 0 validate and add to LIVE, 1 the swap, 2 subtract from LIVE again, 3 clear the V bits. -/
  | claim (step : Nat)
  | create (j : Nat)
  /-- Team j waits for room from cluster `c0` on, with its copy index (R261). -/
  | spill (j c0 copy : Nat)
  | nonowner (at_ : Nat)
  /-- A wait on the STATE word of the first deferred record: by a monitor, or by reads from a cycle on (R263). -/
  | deferWait (at_ : Option Nat)
  /-- A wait for STATE to differ from the FAULTED word: by a monitor, or by reads from a cycle on (R264). -/
  | repair (w : Word) (at_ : Option Nat)
  /-- A wait for RESUME in the entry of an unmapped record (R264). -/
  | resume
  | done
  deriving DecidableEq, Repr

/-- A deferred record (R257). -/
structure Defer where
  k : Nat
  tf : Nat
  tm : Nat
  w : Word
  deriving DecidableEq, Repr

/-- The progress of one weaver in a launch (R265). -/
structure Weaver where
  k : Nat := 0
  tf : Nat := 0
  tm : Nat := 0
  st : WSt := .read
  rec_ : Option Rec := none
  /-- Where the record being worked on lies. -/
  recAt : Spot := {}
  /-- A shootdown has dropped that translation (R285). -/
  recStale : Bool := false
  defer : List Defer := []
  /-- The main loop is over, and the list is being walked. -/
  deferring : Bool := false
  /-- Claims made, with the record, its teams and the teams retired. -/
  claims : List (Nat × Nat × Nat) := []
  deriving DecidableEq, Repr

/-- The states of a node (R303). -/
inductive NodeSt where
  | waiting | starting | running | killing | shakeout | retired
  deriving DecidableEq, Repr

/-- A node (R302, R303). -/
structure Node where
  id : Nat
  part : Nat
  pkt : Nat
  dom : Byte
  /-- Read ranges and write ranges as (base, length). -/
  reads : List (Nat × Nat)
  writes : List (Nat × Nat)
  ldesc : Nat
  st : NodeSt := .waiting
  lid : Word := 0
  srbase : Word := 0
  chksb : Bool := false
  desc : LDesc := {}
  tensor : Tensor := {}
  /-- Base and length of the eight constant windows (R361). -/
  windows : NMap (Nat × Nat) := []
  /-- Parts of its descriptors that have been read, by address and length: an access that pauses is made again alone (R249, R367). -/
  got : List ((Nat × Nat) × List Byte) := []
  /-- Descriptors have been read. -/
  ready : Bool := false
  paused : Bool := false
  arena : Option Nat := none
  weavers : NMap Weaver := []
  /-- The die whose weaver owns a record, by record, fixed at the first read of it (R256, R266). -/
  owners : NMap Nat := []
  /-- The cause that killed the node. -/
  cause : Option Nat := none
  sts : Nat := 1
  deriving DecidableEq, Repr

/-- A post slot (R350). -/
structure PostSlot where
  st : SlotState := .free
  comm : Nat := 0
  tag : Word := 0
  tap : Option Word := none
  key : CollKey := { op := 0, dt := 0, cnt := 0, root := 0 }
  sbuf : Nat := 0
  dbuf : Nat := 0
  node : Nat := 0
  order : Nat := 0
  /-- The posting node has gone: the slot is freed when terminal. -/
  orphan : Bool := false
  /-- The collective's accesses are paused (R347). -/
  paused : Bool := false
  /-- The source buffer as the engine has read it (R349), and how much of it has been read so far. -/
  src : Option (List Byte) := none
  part : List Byte := []
  /-- Bytes of the destination written. -/
  pos : Nat := 0
  deriving DecidableEq, Repr

/-- A partition block and the partition's own machinery (R289–R309). -/
structure Part where
  ptroot : DWord := 0
  pcfg : DWord := 0
  pclus : BitVec 128 := 0
  sdVa : DWord := 0
  sdLen : DWord := 0
  sdOld : DWord := 0
  sdDrop : Bool := false
  sdBusy : Bool := false
  sdErr : Bool := false
  sdSig : DWord := 0
  epoch : Nat := 0
  fqBase : DWord := 0
  fqCtl : Word := 0
  fqw : Word := 0
  fqr : Word := 0
  /-- Entries not yet posted, oldest first. -/
  posts : List FaultEnt := []
  /-- Posted entries whose agent is paused, by ring index. -/
  watch : List (Word × FaultEnt) := []
  /-- The cycle of the next read of STAT of a posted entry for which no monitor was free, by ring index (R307). -/
  polls : NMap Nat := []
  plBase : DWord := 0
  plCnt : Word := 0
  /-- Pool entries taken, each with the index of its arena. -/
  taken : List (Nat × Nat) := []
  queues : NMap Queue := []
  /-- Word 0 and word 1 of the arena table. -/
  arena : NMap (DWord × DWord) := []
  /-- Granules of each live arena, as PA[51:21], in order. -/
  granules : NMap (List Nat) := []
  /-- Arena indices freed by shakeout, oldest first; indices not in `used` come before them (R308). -/
  freed : List Nat := []
  used : List Nat := []
  slots : NMap PostSlot := []
  /-- Nodes of the range matcher, oldest first. -/
  matcher : List Nat := []
  resident : Bool := false
  deriving DecidableEq, Repr

/-! ### Fabric -/

/-- A remote packet awaiting its acknowledgement (R336, R337). -/
structure Unacked where
  pkt : RemPkt
  op : Nat
  piece : Nat
  firstAt : Nat
  sentAt : Nat
  plane : Nat
  deriving DecidableEq, Repr

/-- A packet held back under R336, with its place in the order of issue and the PTP time since which it has waited. -/
structure HeldPkt where
  pkt : RemPkt
  op : Nat
  piece : Nat
  order : Nat
  since : Nat
  deriving DecidableEq, Repr

/-- The source side of a stream (R336, R337). -/
structure StreamOut where
  next : Word := 0
  unacked : List Unacked := []
  waiting : List HeldPkt := []
  deriving DecidableEq, Repr

/-- The target side of a stream (R337): the count applied, packets ahead of their turn, the last 512 responses. -/
structure StreamIn where
  applied : Word := 0
  early : List RemPkt := []
  resps : List RemRsp := []
  deriving DecidableEq, Repr

/-- A Yunambi port (R331–R333). -/
structure FabPort where
  lanes : Nat := 0
  rtc : Nat := 0
  badBanks : Nat := 0
  /-- The receiver's expected SEQ. -/
  exp : BitVec 12 := 0
  /-- The sender's next SEQ. -/
  seq : BitVec 12 := 0
  /-- Unacknowledged payload flits, oldest first: SEQ, channel, payload. -/
  replay : List (BitVec 12 × Nat × BitVec 1920) := []
  /-- Flits that wait for credits or for room in the replay buffer, oldest first. -/
  waiting : List (Nat × BitVec 1920) := []
  /-- Flits in the switch's buffer by channel, as far as the credits returned tell. -/
  used : NMap Nat := []
  /-- The package's own buffer: flits accepted in order that have not been handed on, with their channels. -/
  buf : List (Nat × List Byte) := []
  /-- Credits to be returned, by channel. -/
  owed : NMap Nat := []
  /-- PTP time of the last progress of the ACK. -/
  progressAt : Nat := 0
  /-- Flits of 256 bytes that have left the port, the newest last. -/
  sent : List (List Byte) := []
  deriving DecidableEq, Repr

/-- A pair at the tap sequencer (R341). -/
structure Pair where
  comm : Nat
  tag : Word
  tap : Word
  posted : List (Nat × CollKey) := []
  cancels : List Nat := []
  cancelled : Bool := false
  started : Bool := false
  failed : Bool := false
  /-- Members at which the collective is DONE or FAILED. -/
  done : List Nat := []
  deriving DecidableEq, Repr

/-- The tap sequencer's state, in use while this package is the primary (R341–R346). -/
structure TapSeq where
  next : NMap Word := []
  pairs : List Pair := []
  /-- Posts, or without a key cancellations, that wait for the window of R342: member, communicator, tag, key. -/
  waiting : List (Nat × Nat × Word × Option CollKey) := []
  lastBeat : Nat := 0
  lastHeard : Nat := 0
  /-- Reports still awaited after a failover, and those received. -/
  recovering : Option (List Nat) := none
  reports : List (Nat × List SlotReport) := []
  /-- Reports of collectives that are over, by communicator, which have come during the recovery. -/
  late : List (Nat × DoneReport) := []
  deriving DecidableEq, Repr

/-! ### Firmware -/

/-- A firmware image of a flash slot (R326): the header's RSA modulus and signature, its version, header and body bytes. -/
structure FwImage where
  modulus : Nat
  exponent : Nat
  signature : Nat
  svn : Nat
  header : List Byte
  body : List Byte
  /-- The later stages that the image runs, one after another. -/
  stages : List (List Byte) := []
  deriving DecidableEq, Repr

/-- The reply to an attestation request (R328). -/
structure Attest where
  die : Nat
  report : Report
  signature : Nat
  deriving DecidableEq, Repr

/-- The heat table (R313): EPOCH, PERIOD, NENT and entries (START, RUN). -/
structure HeatTable where
  epoch : DWord := 0
  period : DWord := 0
  nent : Nat := 0
  ents : NMap (DWord × Word) := []
  deriving DecidableEq, Repr

/-! ### The package -/

structure State where
  /-- %clk, core-clock cycles since package reset (R110). -/
  clk : Nat := 0
  /-- PTP time in nanoseconds. -/
  ptp : Nat := 0
  /-- The core clock in MHz (R329). -/
  mhz : Nat := 2100
  /-- The PTP time since which power and temperature have been clear. -/
  clearSince : Nat := 0
  lastLid : Word := 0
  /-- The next identity for teams, operations, commands, packets and nodes: the model's own. -/
  nextId : Nat := 1
  /-- The group whose instruction executes next: the model's own (log 2). -/
  cur : Option GRef := none
  /-- The events that occur next: the model's own (log 2). -/
  agenda : List Instr := []
  /-- Waits that end when the next cycle begins, with their outcomes; the outcome of an MWAIT is taken then (R188, R203). -/
  wakes : List (Waiter × Option WaitOut) := []
  mem : Mem := []
  poison : List Nat := []
  corrected : Nat := 0
  csem : Nat := 0
  cerr : List Port := []
  rdy : DWord := 0
  vrdy : BitVec 128 := 0
  frdy : DWord := 0
  podcfg : DWord := 0
  fabev : DWord := 0
  staged : HeatTable := {}
  heats : Option HeatTable := none
  fuse : Nat := 0
  pmask : NMap (BitVec 16) := []
  comms : NMap (DWord × DWord) := []
  /-- Measurement registers by 8 × die + register. -/
  mr : NMap (BitVec 512) := []
  /-- MSI-X table bytes written, both ports; an unlisted byte reads its reset value. -/
  msix : List (Nat × Byte) := []
  msixPend : List (Port × Nat) := []
  vectors : List (Port × Nat) := []
  mailbox : List (Nat × Byte) := []
  flashA : Option FwImage := none
  flashB : Option FwImage := none
  /-- Dies whose ROM has accepted an image, with its version. -/
  fwSvn : NMap Nat := []
  /-- Dies whose ROM has refused both slots (R326). -/
  refused : List Nat := []
  /-- Replies in the attestation mailbox, newest first (R328). -/
  replies : List Attest := []
  parts : NMap Part := []
  nodes : NMap Node := []
  teams : NMap Team := []
  cores : NMap Core := []
  clusters : NMap Cluster := []
  slices : NMap Slice := []
  dies : NMap Die := []
  /-- Requests on their way to slices, oldest first. -/
  net : List (Nat × Req) := []
  outst : NMap Outst := []
  fly : List FlyMsg := []
  /-- Invalidations on their way to holders, as (line, holder) (R216). -/
  invals : List (Nat × Nat) := []
  /-- Drop notices on their way to homes (R217). -/
  drops : List (Nat × Nat) := []
  pkts : NMap Pkt := []
  /-- The last queue served at each effective priority (R294). -/
  rr : NMap Nat := []
  /-- The cycle after that of the queue engine's last start. -/
  qeNext : Nat := 0
  ucie : NMap Ucie := []
  /-- The module that has taken over the pairs of a dead one, by 16 × edge + module (R322). -/
  remaps : NMap Nat := []
  ports : NMap FabPort := []
  rrPlane : NMap Nat := []
  /-- PTP time since which a destination's PMASK has been empty, 0 where absent (R337). -/
  emptySince : NMap Nat := []
  outStreams : NMap StreamOut := []
  /-- Accesses of hardware agents to other packages (R276). -/
  far : List FarOp := []
  inStreams : NMap StreamIn := []
  /-- Packets that have been handed to ports, each with its plane, the newest last. -/
  fabOut : List (FabMsg × Nat) := []
  /-- Source data of collectives from other members, by communicator, tap number and package (R347). -/
  collIn : List ((Nat × Word × Nat) × List Byte) := []
  /-- Collectives that have FAILED at another member before their tap numbers have come here, by communicator and tap (R350). -/
  collFailed : List (Nat × Word) := []
  /-- Messages of packages that take effect when the next cycle begins, each with its sender. -/
  inbox : List (Nat × CollMsg) := []
  seq : TapSeq := {}
  deriving DecidableEq, Repr

/-- Why the machine stops.
The step function raises none of these from a state whose `cur` names a resident group. -/
inductive Fault where
  /-- A group instruction was executed while no group was picked: raised by `exec` alone, never by `step`; safe. -/
  | noIssuer
  deriving DecidableEq, Repr

/-- Why an instruction has no meaning. -/
inductive Refusal where
  /-- The instruction is not modelled: raised by an arm of `exec` that has no meaning yet; safe. -/
  | notModelled (mnemonic : String)
  deriving DecidableEq, Repr

/-- The package right after reset: every field at its default, which is the value the spec gives for reset or the value
that log 1, 3, 4 or 6 names. -/
def State.reset : State := {}

end Sys2Proof.Machine
end

