-- ==== Sys2Proof/Machine/Exact.lean ====
section
/-!
DEFINITION. Exact reals and rounding (spec/04_number_formats.md R67, R77, R78).
A positive real is given by its floor_log2 and by its floor on any binary grid, which is all that rounding needs;
dyadic numbers, quotients, square roots and powers 2^(p/4) are of this kind.
-/

namespace Sys2Proof.Machine

/-- A rounding mode (R77). -/
inductive Rnd where
  | rne | rz | rd | ru | sr
  deriving DecidableEq, Repr

/-- The rounding field (R92). -/
def Rnd.ofField (n : Nat) : Rnd :=
  match n with
  | 0 => .rne
  | 1 => .rz
  | 2 => .rd
  | 3 => .ru
  | _ => .sr

/-- `n × 2^k`, rounded down when k is negative. -/
def shl (n : Nat) (k : Int) : Nat :=
  if 0 ≤ k then n * 2 ^ k.toNat else n / 2 ^ (-k).toNat

/-- `n × 2^k` is an integer. -/
def shlExact (n : Nat) (k : Int) : Bool :=
  0 ≤ k || n % 2 ^ (-k).toNat == 0

/-- Integer square root, rounded down, of a number below 2^(2·bits): one result bit a step. -/
def isqrtAux (n : Nat) : Nat → Nat → Nat
  | 0, r => r
  | b + 1, r =>
    let r' := r + 2 ^ b
    isqrtAux n b (if r' * r' ≤ n then r' else r)

/-- Integer square root, rounded down. -/
def isqrt (n : Nat) : Nat := isqrtAux n (Nat.log2 n / 2 + 1) 0

/-- A positive real: its floor_log2 (R67), and for each k the floor of its product with 2^k and whether that is exact. -/
structure Mag where
  fl2 : Int
  scaled : Int → Nat × Bool

/-- The dyadic number m × 2^e, m positive. -/
def Mag.dyadic (m : Nat) (e : Int) : Mag where
  fl2 := (Nat.log2 m : Int) + e
  scaled k := (shl m (e + k), shlExact m (e + k))

/-- The quotient (a / b) × 2^e, both positive. -/
def Mag.quot (a b : Nat) (e : Int) : Mag :=
  let la : Int := Nat.log2 a
  let lb : Int := Nat.log2 b
  let below := if lb ≤ la then a < b * 2 ^ (la - lb).toNat else a * 2 ^ (lb - la).toNat < b
  { fl2 := la - lb + e - (if below then 1 else 0)
    scaled := fun k =>
      let s := e + k
      let num := if 0 ≤ s then a * 2 ^ s.toNat else a
      let den := if 0 ≤ s then b else b * 2 ^ (-s).toNat
      (num / den, num % den == 0) }

/-- The square root of m × 2^e, m positive and e even. -/
def Mag.sqrt (m : Nat) (e : Int) : Mag where
  fl2 := (Nat.log2 m / 2 : Int) + e / 2
  scaled k :=
    let s := 2 * k + e
    let n := shl m s
    let r := isqrt n
    (r, shlExact m s && r * r == n)

/-- The reciprocal of the square root of m × 2^e, m positive and e even. -/
def Mag.rsqrt (m : Nat) (e : Int) : Mag :=
  let sc : Int → Nat × Bool := fun k =>
    let s := 2 * k - e
    let num := if 0 ≤ s then 2 ^ s.toNat else 1
    let den := if 0 ≤ s then m else m * 2 ^ (-s).toNat
    let r := isqrt (num / den)
    (r, r * r * den == num)
  let guess : Int := -((Nat.log2 m : Int) + e) / 2
  { fl2 := if (sc (-guess)).1 = 0 then guess - 1 else guess
    scaled := sc }

/-- 2^(p / 4) (R74). -/
def Mag.root4 (p : Int) : Mag where
  fl2 := p / 4
  scaled k :=
    let q := p + 4 * k
    if q < 0 then (0, false) else (isqrt (isqrt (2 ^ q.toNat)), q % 4 == 0)

/-- Round `x` to a multiple of 2^q: the multiple, as a count, away from zero when the mode says so (R77, R78). -/
def Mag.roundAt (x : Mag) (q : Int) (mode : Rnd) (neg : Bool) (u : Word) : Nat :=
  let (h, hx) := x.scaled (1 - q)
  let n := h / 2
  let exact := hx && h % 2 == 0
  let up :=
    match mode with
    | .rne => h % 2 == 1 && (!hx || n % 2 == 1)
    | .rz => false
    | .rd => neg && !exact
    | .ru => !neg && !exact
    | .sr => !exact && decide (2 ^ 32 ≤ (x.scaled (32 - q)).1 % 2 ^ 32 + u.toNat)
  if up then n + 1 else n

/-- A binary floating format (R69): mantissa bits, bias, the code of the largest finite magnitude, the codes of infinity
and of the canonical NaN where it has them, the position of the sign bit. -/
structure FltFmt where
  mb : Nat
  bias : Nat
  maxCode : Nat
  inf : Option Nat
  nan : Nat
  sign : Nat
  deriving DecidableEq, Repr

def fp32 : FltFmt := { mb := 23, bias := 127, maxCode := 0x7F7FFFFF, inf := some 0x7F800000, nan := 0x7FC00000, sign := 31 }
def fp16 : FltFmt := { mb := 10, bias := 15, maxCode := 0x7BFF, inf := some 0x7C00, nan := 0x7E00, sign := 15 }
def bf16 : FltFmt := { mb := 7, bias := 127, maxCode := 0x7F7F, inf := some 0x7F80, nan := 0x7FC0, sign := 15 }
def e4m3 : FltFmt := { mb := 3, bias := 7, maxCode := 0x7E, inf := none, nan := 0x7F, sign := 7 }
def e5m2 : FltFmt := { mb := 2, bias := 15, maxCode := 0x7B, inf := some 0x7C, nan := 0x7E, sign := 7 }
/-- E2M1 has no NaN: its source NaN gives +0 (R82). -/
def e2m1 : FltFmt := { mb := 1, bias := 1, maxCode := 0x7, inf := none, nan := 0, sign := 3 }

/-- The value of a code: NaN, an infinity, the signed dyadic (−1)^neg × m × 2^e, or ± 2^(p/4) (R69, R74). -/
inductive Val where
  | nan
  | inf (neg : Bool)
  | num (neg : Bool) (m : Nat) (e : Int)
  | root (neg : Bool) (p : Int)
  deriving DecidableEq, Repr

/-- The value of a code of a binary floating format (R69). -/
def FltFmt.val (f : FltFmt) (code : Nat) : Val :=
  let neg := code / 2 ^ f.sign % 2 == 1
  let mag := code % 2 ^ f.sign
  if mag ≤ f.maxCode then
    let ex := mag / 2 ^ f.mb
    let man := mag % 2 ^ f.mb
    if ex = 0 then .num neg man (1 - (f.bias : Int) - f.mb)
    else .num neg (2 ^ f.mb + man) ((ex : Int) - f.bias - f.mb)
  else if f.inf = some mag then .inf neg
  else .nan

/-- The code of magnitude `mag` with a sign. -/
def FltFmt.signed (f : FltFmt) (neg : Bool) (mag : Nat) : Nat :=
  if neg then mag + 2 ^ f.sign else mag

/-- The overflow result of R82: with saturation the largest finite, else infinity, else the canonical NaN; E2M1 saturates. -/
def FltFmt.overflow (f : FltFmt) (neg sat : Bool) : Nat :=
  if sat || f.sign == 3 then f.signed neg f.maxCode
  else
    match f.inf with
    | some i => f.signed neg i
    | none => f.nan

/-- The result for a source infinity (R82). -/
def FltFmt.ofInf (f : FltFmt) (neg sat : Bool) : Nat :=
  match f.inf with
  | some i => f.signed neg i
  | none => f.overflow neg sat

/-- Round a positive real into a format (R77, R78, R82). -/
def FltFmt.roundMag (f : FltFmt) (mode : Rnd) (sat neg : Bool) (u : Word) (x : Mag) : Nat :=
  let e : Int := max x.fl2 (1 - (f.bias : Int))
  let n := x.roundAt (e - f.mb) mode neg u
  let code := (e + f.bias - 1).toNat * 2 ^ f.mb + n
  if code ≤ f.maxCode then f.signed neg code
  else
    match mode with
    | .rz => f.signed neg f.maxCode
    | .rd => if neg then f.overflow neg sat else f.signed neg f.maxCode
    | .ru => if neg then f.signed neg f.maxCode else f.overflow neg sat
    | _ => f.overflow neg sat

/-- Round a value into a format (R77, R78, R82); a zero keeps its sign. -/
def FltFmt.round (f : FltFmt) (mode : Rnd) (sat : Bool) (u : Word) (v : Val) : Nat :=
  match v with
  | .nan => f.nan
  | .inf neg => f.ofInf neg sat
  | .num neg m e => if m = 0 then f.signed neg 0 else f.roundMag mode sat neg u (.dyadic m e)
  | .root neg p => f.roundMag mode sat neg u (.root4 p)

/-- Negation of a value. -/
def Val.neg (v : Val) : Val :=
  match v with
  | .nan => .nan
  | .inf n => .inf !n
  | .num n m e => .num (!n) m e
  | .root n p => .root (!n) p

/-- The value times 2^k. -/
def Val.scale (v : Val) (k : Int) : Val :=
  match v with
  | .nan => .nan
  | .inf n => .inf n
  | .num n m e => .num n m (e + k)
  | .root n p => .root n (p + 4 * k)

/-- The signed integer m of a dyadic, on the grid 2^g, g at most its exponent. -/
def onGrid (neg : Bool) (m : Nat) (e g : Int) : Int :=
  let n : Int := (m * 2 ^ (e - g).toNat : Nat)
  if neg then -n else n

/-- An integer times 2^g as a value; an exact zero takes the sign given (R77). -/
def Val.ofInt (i g : Int) (zeroNeg : Bool) : Val :=
  if i = 0 then .num zeroNeg 0 0 else .num (decide (i < 0)) i.natAbs g

/-- The exact sum of two values; the sign of an exact zero follows IEEE 754 in the mode (R77, R83). -/
def Val.add (x y : Val) (mode : Rnd) : Val :=
  match x, y with
  | .nan, _ => .nan
  | _, .nan => .nan
  | .inf a, .inf b => if a = b then .inf a else .nan
  | .inf a, _ => .inf a
  | _, .inf b => .inf b
  | .num a m e, .num b n d =>
    if m = 0 ∧ n = 0 then .num (if a = b then a else decide (mode = .rd)) 0 0
    else
      let g := min e d
      .ofInt (onGrid a m e g + onGrid b n d g) g (decide (mode = .rd))
  | .root a p, _ => .root a p
  | _, .root b p => .root b p

/-- The exact product of two values that are no roots (R83). -/
def Val.mul (x y : Val) : Val :=
  match x, y with
  | .nan, _ => .nan
  | _, .nan => .nan
  | .inf a, .inf b => .inf (a != b)
  | .inf a, .num b n _ => if n = 0 then .nan else .inf (a != b)
  | .num a m _, .inf b => if m = 0 then .nan else .inf (a != b)
  | .num a m e, .num b n d => .num (a != b) (m * n) (e + d)
  | .root a p, _ => .root a p
  | _, .root b p => .root b p

/-- The signed integer that a dyadic is on the grid 2^g, g at most its exponent; 0 for other values. -/
def Val.toGrid (v : Val) (g : Int) : Int :=
  match v with
  | .num a m e => onGrid a m e g
  | _ => 0

/-- Less than, on values that are not NaN; both zeros are equal (R100). -/
def Val.lt (x y : Val) : Bool :=
  match x, y with
  | .nan, _ => false
  | _, .nan => false
  | .inf a, .inf b => a && !b
  | .inf a, _ => a
  | _, .inf b => !b
  | .num a m e, .num b n d =>
    let g := min e d
    decide (onGrid a m e g < onGrid b n d g)
  | _, _ => false

/-- Equality as values; both zeros are equal (R100). -/
def Val.eq (x y : Val) : Bool :=
  match x, y with
  | .inf a, .inf b => a == b
  | .num a m e, .num b n d =>
    let g := min e d
    decide (onGrid a m e g = onGrid b n d g)
  | _, _ => false

def Val.isNan (v : Val) : Bool :=
  match v with
  | .nan => true
  | _ => false

/-- Clamp an integer to [lo, hi] (R67). -/
def clampI (lo hi x : Int) : Int := max lo (min hi x)

/-- Round a value to an integer (R77); an infinity counts as beyond every range, NaN as 0 (R82). -/
def Val.roundInt (v : Val) (mode : Rnd) (u : Word) (lo hi : Int) : Int :=
  match v with
  | .nan => 0
  | .inf neg => if neg then lo else hi
  | .num neg m e =>
    if m = 0 then 0
    else
      let n : Int := ((Mag.dyadic m e).roundAt 0 mode neg u : Nat)
      clampI lo hi (if neg then -n else n)
  | .root neg p =>
    let n : Int := ((Mag.root4 p).roundAt 0 mode neg u : Nat)
    clampI lo hi (if neg then -n else n)

/-- floor_log2 of the magnitude of a nonzero dyadic (R67). -/
def Val.fl2 (v : Val) : Option Int :=
  match v with
  | .num _ m e => if m = 0 then none else some ((Nat.log2 m : Int) + e)
  | _ => none

end Sys2Proof.Machine
end

