-- ==== Sys2Proof/Machine/Formats.lean ====
section
/-!
DEFINITION. The element formats, the L6 logarithmic format, conversions with overflow and saturation, stochastic-rounding
states and the MXINT8 requantisation (spec/04_number_formats.md).
-/

namespace Sys2Proof.Machine

/-- A format code of R65. -/
inductive Fmt where
  | s8 | u8 | s16 | u16 | s32 | u32 | s64 | u64 | f32 | f16 | bf16 | e4m3 | e5m2 | e2m1 | l6 | e8m0
  | mxf8e4m3 | mxf8e5m2 | mxf4 | mxi8 | mxl6
  deriving DecidableEq, Repr

/-- The format of a code; a reserved code has none (R65). -/
def Fmt.ofCode (n : Nat) : Option Fmt :=
  [Fmt.s8, .u8, .s16, .u16, .s32, .u32, .s64, .u64, .f32, .f16, .bf16, .e4m3, .e5m2, .e2m1, .l6, .e8m0,
    .mxf8e4m3, .mxf8e5m2, .mxf4, .mxi8, .mxl6][n]?

/-- Element bits (R65), without a block's scale. -/
def Fmt.bits (f : Fmt) : Nat :=
  match f with
  | .s8 | .u8 | .e4m3 | .e5m2 | .e8m0 | .mxf8e4m3 | .mxf8e5m2 | .mxi8 => 8
  | .s16 | .u16 | .f16 | .bf16 => 16
  | .s32 | .u32 | .f32 => 32
  | .s64 | .u64 => 64
  | .e2m1 | .mxf4 => 4
  | .l6 | .mxl6 => 6

/-- Bits between the elements of a register; L6 elements lie a byte apart (R71). -/
def Fmt.pitch (f : Fmt) : Nat :=
  match f with
  | .l6 | .mxl6 => 8
  | _ => f.bits

/-- Elements of a 32-bit register (R71, R104). -/
def Fmt.count (f : Fmt) : Nat := if f.pitch ≤ 32 then 32 / f.pitch else 1

/-- The range of an integer format. -/
def Fmt.range (f : Fmt) : Option (Int × Int) :=
  match f with
  | .s8 => some (-128, 127)
  | .u8 => some (0, 255)
  | .s16 => some (-32768, 32767)
  | .u16 => some (0, 65535)
  | .s32 => some (-2147483648, 2147483647)
  | .u32 => some (0, 4294967295)
  | .s64 => some (-9223372036854775808, 9223372036854775807)
  | .u64 => some (0, 18446744073709551615)
  | _ => none

/-- The binary floating layout of a format or of a block format's element (R69). -/
def Fmt.flt (f : Fmt) : Option FltFmt :=
  match f with
  | .f32 => some fp32
  | .f16 => some fp16
  | .bf16 => some Machine.bf16
  | .e4m3 | .mxf8e4m3 => some Machine.e4m3
  | .e5m2 | .mxf8e5m2 => some Machine.e5m2
  | .e2m1 | .mxf4 => some Machine.e2m1
  | _ => none

/-- A block format (R73). -/
def Fmt.block (f : Fmt) : Bool :=
  match f with
  | .mxf8e4m3 | .mxf8e5m2 | .mxf4 | .mxi8 | .mxl6 => true
  | _ => false

/-- A `bits`-bit code read as two's complement (R67). -/
def signedOf (bits code : Nat) : Int :=
  let c := code % 2 ^ bits
  if 2 ^ (bits - 1) ≤ c then (c : Int) - 2 ^ bits else c

/-- An integer as a `bits`-bit code. -/
def codeOf (bits : Nat) (i : Int) : Nat := (i % (2 ^ bits : Nat)).toNat

/-- The value of an L6 code (R74). -/
def l6Val (code : Nat) : Val :=
  let m := code % 32
  let neg := code / 32 % 2 == 1
  if m = 0 then (if neg then .nan else .num false 0 0) else .root neg ((m : Int) - 16)

/-- The value of an element code (R66, R69, R73, R74); a block element is read without its scale. -/
def Fmt.val (f : Fmt) (code : Nat) : Val :=
  match f with
  | .s8 | .s16 | .s32 | .s64 =>
    let i := signedOf f.bits code
    .num (decide (i < 0)) i.natAbs 0
  | .u8 | .u16 | .u32 | .u64 => .num false (code % 2 ^ f.bits) 0
  | .mxi8 =>
    let i := signedOf 8 code
    .num (decide (i < 0)) i.natAbs (-6)
  | .l6 | .mxl6 => l6Val code
  | .e8m0 => if code % 256 = 255 then .nan else .num false 1 ((code % 256 : Int) - 127)
  | _ =>
    match f.flt with
    | some l => l.val (code % 2 ^ (l.sign + 1))
    | none => .nan

/-- The exponent of an E8M0 scale; none for NaN (R72). -/
def e8m0Exp (x : Nat) : Option Int := if x % 256 = 255 then none else some ((x % 256 : Int) - 127)

/-! ### L6 -/

/-- Bounds on log2 of m / 2^(bits − 1) for 1 ≤ m / 2^(bits−1) < 2, by repeated squaring on a grid of 2^−128:
`steps` fraction bits of the lower bound, and whether the upper bound has the same bits. -/
def log2Bits : Nat → Nat → Nat → Nat → Bool → Nat × Bool
  | 0, _, _, acc, same => (acc, same)
  | n + 1, lo, hi, acc, same =>
    let lo2 := lo * lo / 2 ^ 128
    let hi2 := hi * hi / 2 ^ 128 + 1
    let b := decide (2 ^ 129 ≤ lo2)
    let b' := decide (2 ^ 129 ≤ hi2)
    log2Bits n (if b then lo2 / 2 else lo2) (if b then hi2 / 2 + 1 else hi2) (2 * acc + (if b then 1 else 0)) (same && b == b')

/-- 4 × log2 of a dyadic m × 2^e with 32 fraction bits, rounded down: the integer part and the fraction in units of 2^−32.
Where the bounds do not decide, a free value (log 5) would be taken; no source of 64 bits is known to reach it. -/
def fourLog2 (m : Nat) (e : Int) : Int × Nat :=
  let l := Nat.log2 m
  let norm := shl m (128 - (l : Int))
  let (f, same) := log2Bits 34 norm (norm + 1) 0 true
  let f := if same || m == 2 ^ l then f else (Config.freeWord f).toNat * 4
  (4 * ((l : Int) + e) + f / 2 ^ 32, f % 2 ^ 32)

/-- Code of L6 with a sign and a magnitude code; zero has one code (R74). -/
def l6Code (neg : Bool) (m : Nat) : Nat := if m = 0 then 0 else m + (if neg then 32 else 0)

/-- Round x = 4 × log2|v| = i + fr / 2^32, `tail` telling whether more lies below the fraction, into L6 (R82). -/
def l6OfLog (mode : Rnd) (sat neg : Bool) (u : Word) (i : Int) (fr : Nat) (tail : Bool) : Nat :=
  let ovf := if sat then l6Code neg 31 else 0x20
  if i < -15 then
    -- between zero, at −19, and m = 1, at −15
    let one := l6Code neg 1
    match mode with
    | .rne => if -17 < i || (i = -17 && (0 < fr || tail)) then one else 0
    | .rz => 0
    | .rd => if neg then one else 0
    | .ru => if neg then 0 else one
    | .sr =>
      let t := if i < -19 then 0 else ((i + 19).toNat * 2 ^ 32 + fr) / 4
      if 2 ^ 32 ≤ t + u.toNat then one else 0
  else
    let m := (i + 16).toNat
    let exact := fr == 0 && !tail
    let up :=
      match mode with
      | .rne => decide (2 ^ 31 < fr) || (fr == 2 ^ 31 && (tail || m % 2 == 1))
      | .rz => false
      | .rd => neg && !exact
      | .ru => !neg && !exact
      | .sr => !exact && decide (2 ^ 32 ≤ fr + u.toNat)
    let n := if up then m + 1 else m
    if n ≤ 31 then l6Code neg n
    else
      match mode with
      | .rz => l6Code neg 31
      | .rd => if neg then ovf else l6Code neg 31
      | .ru => if neg then l6Code neg 31 else ovf
      | _ => ovf

/-- Round a value into L6 (R82). -/
def l6Round (mode : Rnd) (sat : Bool) (u : Word) (v : Val) : Nat :=
  match v with
  | .nan => 0x20
  | .inf neg => if sat then l6Code neg 31 else 0x20
  | .num neg m e =>
    if m = 0 then 0
    else
      let (i, fr) := fourLog2 m e
      l6OfLog mode sat neg u i fr (m != 2 ^ Nat.log2 m)
  | .root neg p => l6OfLog mode sat neg u p 0 false

/-- convert(v, F): an element code of the format, with rounding and saturation (R68, R82, R104). -/
def Fmt.convert (f : Fmt) (mode : Rnd) (sat : Bool) (u : Word) (v : Val) : Nat :=
  match f.range with
  | some (lo, hi) => codeOf f.bits (v.roundInt mode u lo hi)
  | none =>
    match f.flt with
    | some l => l.round mode sat u v
    | none => l6Round mode sat u v

/-! ### Stochastic rounding -/

/-- The next stochastic-rounding state (R79). -/
def lfsrNext (st : Word) : Word := if st.getLsbD 0 then (st >>> 1) ^^^ 0x80200003#32 else st >>> 1

/-- The random word of element j of lane l (R79). -/
def srWord (st : Word) (l j : Nat) : Word := st.rotateLeft ((l + 8 * (j % 4)) % 32)

/-! ### MXINT8 requantisation -/

/-- The largest floor_log2 of the nonzero values of a block; none when all are zero. -/
def maxFl2 (xs : List Val) : Option Int :=
  xs.foldl (fun acc v =>
    match v.fl2, acc with
    | some e, some a => some (max e a)
    | some e, none => some e
    | none, a => a) none

/-- requant_mxint8 (R88): the scale and the codes of the elements. -/
def requantMxint8 (xs : List Val) : Nat × List Nat :=
  if xs.any (fun v => match v with | .num _ _ _ => false | _ => true) then (0xFF, xs.map fun _ => 0)
  else
    let s : Int := match maxFl2 xs with
      | none => 0
      | some e => max e (-127)
    ((s + 127).toNat, xs.map fun v => codeOf 8 ((v.scale (6 - s)).roundInt .rne 0 (-127) 127))

/-! ### L6 products and the matrix step -/

/-- T(f) of R76. -/
def l6Table (f : Nat) : Nat := [0x1000000, 0x1306FE1, 0x16A09E6, 0x1AE89FA].getD f 0

/-- prod(x, y) of two L6 codes (R76). -/
def l6Prod (x y : Nat) : Val :=
  let mx := x % 32
  let my := y % 32
  let sx := x / 32 % 2 == 1
  let sy := y / 32 % 2 == 1
  if (mx = 0 ∧ sx = true) ∨ (my = 0 ∧ sy = true) then .nan
  else if mx = 0 ∨ my = 0 then .num (sx != sy) 0 0
  else
    let q : Int := mx + my - 32
    let n := q / 4
    let f := (q - 4 * n).toNat
    .num (sx != sy) (l6Table f) (n - 24)

/-- prod(x, y) of two element codes of their formats (R68, R76). -/
def prodOf (fx fy : Fmt) (x y : Nat) : Val :=
  match fx, fy with
  | .l6, .l6 => l6Prod x y
  | .mxl6, .mxl6 => l6Prod x y
  | _, _ => (fx.val x).mul (fy.val y)

/-- One product truncated toward zero to a multiple of 2^w (R84). -/
def truncTo (w : Int) (v : Val) : Int :=
  match v with
  | .num neg m e => let n : Int := shl m (e - w); if neg then -n else n
  | _ => 0

/-- The exact sum of products truncated to multiples of 2^(E − 60) (R84). -/
def truncSum (ps : List Val) : Val :=
  match maxFl2 ps with
  | none => .num false 0 0
  | some e => .ofInt (ps.foldl (fun s p => s + truncTo (e - 60) p) 0) (e - 60) false

/-- The result of a special step, if it is special (R85). -/
def specialResult (ps : List Val) : Option Val :=
  if ps.any Val.isNan then some .nan
  else
    let pos := ps.any fun v => v == .inf false
    let neg := ps.any fun v => v == .inf true
    if pos && neg then some .nan
    else if pos then some (.inf false)
    else if neg then some (.inf true)
    else none

/-- matrix_step_fp (R84): the FP32 code of the accumulator after a step. -/
def matrixStepFp (ps : List Val) (acc : Word) : Word :=
  let a := fp32.val acc.toNat
  match specialResult (a :: ps) with
  | some v => BitVec.ofNat 32 (fp32.round .rne false 0 v)
  | none =>
    match a.add (truncSum ps) .rne with
    | .num neg m e => if m = 0 then 0 else BitVec.ofNat 32 (fp32.round .rne false 0 (.num neg m e))
    | v => BitVec.ofNat 32 (fp32.round .rne false 0 v)

end Sys2Proof.Machine
end

