-- ==== Sys2Proof/Machine/OpTable.lean ====
section
/-!
DEFINITION. The opcode map (spec/03_instruction_words.md R61) and the shape of every encoded instruction: which operands
it uses and of what kind, and which values of its fields its table defines.
The decode checks of R62 are made from these shapes.
-/

namespace Sys2Proof.Machine

/-! ### The opcode map -/

/-- The layout of word 2 (R55). -/
inductive Layout where
  | arith | mem
  deriving DecidableEq, Repr

/-- A row of R61: the permitted forms as LEN values 0 to 3, and the layout of word 2. -/
structure OpRow where
  op : Nat
  forms : List Nat
  layout : Layout
  deriving DecidableEq, Repr

/-- Opcodes from `lo` to `hi` with the same forms and layout. -/
def opRange (lo hi : Nat) (forms : List Nat) (layout : Layout) : List OpRow :=
  (List.range (hi + 1 - lo)).map fun i => { op := lo + i, forms, layout }

/-- The opcode map (R61). -/
def opTable : List OpRow :=
  opRange 0x00 0x03 [0, 1, 2, 3] .arith ++ opRange 0x04 0x05 [2, 3] .arith ++ opRange 0x06 0x06 [0, 2, 3] .arith
  ++ opRange 0x07 0x0C [0, 1, 2, 3] .arith ++ opRange 0x0D 0x0D [2, 3] .arith ++ opRange 0x0E 0x11 [0, 2, 3] .arith
  ++ opRange 0x12 0x16 [2, 3] .arith ++ opRange 0x40 0x41 [0, 1, 2, 3] .arith ++ opRange 0x42 0x42 [2, 3] .arith
  ++ opRange 0x43 0x44 [0, 1, 2, 3] .arith ++ opRange 0x45 0x45 [2, 3] .arith ++ opRange 0x48 0x4F [0, 2, 3] .arith
  ++ opRange 0x50 0x54 [2, 3] .arith ++ opRange 0x58 0x58 [2, 3] .arith ++ opRange 0x70 0x74 [2, 3] .arith
  ++ opRange 0x80 0x81 [2, 3] .arith ++ opRange 0x82 0x83 [2] .arith ++ opRange 0x88 0x88 [0, 2, 3] .arith
  ++ opRange 0x89 0x89 [1, 3] .arith ++ opRange 0x8A 0x8A [2] .arith ++ opRange 0x90 0x90 [2, 3] .arith
  ++ opRange 0x91 0x91 [2] .arith ++ opRange 0x92 0x92 [2, 3] .arith ++ opRange 0x93 0x93 [2] .arith
  ++ opRange 0x94 0x96 [0, 2] .arith ++ opRange 0x97 0x97 [2] .arith ++ opRange 0x98 0x98 [0, 2] .arith
  ++ opRange 0x99 0x9A [2] .arith ++ opRange 0xA0 0xA4 [2] .arith ++ opRange 0xA5 0xA5 [2, 3] .arith
  ++ opRange 0xB0 0xB5 [2] .mem ++ opRange 0xC0 0xC2 [2] .mem ++ opRange 0xC3 0xCF [2] .arith
  ++ opRange 0xD0 0xD7 [2] .arith ++ opRange 0xE0 0xE3 [2] .arith ++ opRange 0xE8 0xEC [2] .mem
  ++ opRange 0xED 0xED [2] .arith ++ opRange 0xEE 0xEF [2] .mem ++ opRange 0xF0 0xF3 [2] .arith

/-- The row of a major opcode; none for an unassigned one (R61). -/
def opRow (op : Nat) : Option OpRow := opTable.find? fun r => r.op == op

/-! ### Shapes -/

/-- What a source position accepts: `n` registers from the one named, and which other operands (R51, R56, R91). -/
structure SrcUse where
  n : Nat := 1
  v : Bool := false
  s : Bool := false
  /-- Latches and operand-cache entries. -/
  upper : Bool := false
  zero : Bool := false
  imm : Bool := false
  lit : Bool := false
  cwin : Bool := false
  deriving DecidableEq, Repr

/-- What a destination position accepts; `latch` is the port whose latch-only destination it may name (R33). -/
structure DstUse where
  n : Nat := 1
  v : Bool := false
  s : Bool := false
  oc : Bool := false
  latchA : Bool := false
  latchB : Bool := false
  zero : Bool := false
  deriving DecidableEq, Repr

/-- The shape of an instruction: its operand positions, none where unused, whether its MOD, MOD2, MMOD and SPEC values are
defined, whether its result has variable latency, and whether its guard must be 7. -/
structure Shape where
  dst : Option DstUse := none
  a : Option SrcUse := none
  b : Option SrcUse := none
  c : Option SrcUse := none
  ok : Bool := true
  var : Bool := false
  always : Bool := false
  deriving DecidableEq, Repr

/-- A 32-bit source of a port operation (R57). -/
def src32 : Option SrcUse := some { v := true, s := true, upper := true, zero := true, imm := true, lit := true }

/-- A mask source: no immediate and no literal (R57; log 55). -/
def srcMask : Option SrcUse := some { v := true, s := true, upper := true, zero := true }

/-- A 32-bit C source, which may be a constant-window operand (R58). -/
def srcC : Option SrcUse :=
  some { v := true, s := true, upper := true, zero := true, imm := true, lit := true, cwin := true }

/-- A 64-bit source (R91). -/
def src64 : Option SrcUse := some { n := 2, v := true, s := true, zero := true, imm := true, lit := true }

/-- A 64-bit C source; a constant window supplies two words (R58). -/
def srcC64 : Option SrcUse :=
  some { n := 2, v := true, s := true, zero := true, imm := true, lit := true, cwin := true }

/-- `n` consecutive v or s registers. -/
def srcReg (n : Nat) : Option SrcUse := some { n, v := true, s := true }

/-- A v or s register, or Zero. -/
def srcRegZ : Option SrcUse := some { v := true, s := true, zero := true }

/-- `n` consecutive v or s registers, Zero or a small immediate (R238). -/
def srcRegI (n : Nat) : Option SrcUse := some { n, v := true, s := true, zero := true, imm := true }

/-- An s register. -/
def srcS : Option SrcUse := some { s := true }

/-- The eight s registers of a loop block (R177). -/
def srcBlk : Option SrcUse := some { n := 8, s := true }

/-- An s register or a small immediate. -/
def srcSI : Option SrcUse := some { s := true, imm := true }

/-- An s register, Zero or a small immediate (R184). -/
def srcSZI : Option SrcUse := some { s := true, zero := true, imm := true }

/-- A 32-bit result of port A (R33). -/
def dstA : Option DstUse := some { v := true, s := true, oc := true, latchA := true, zero := true }

/-- A 32-bit result of port B (R33). -/
def dstB : Option DstUse := some { v := true, s := true, oc := true, latchB := true, zero := true }

/-- `n` consecutive v or s registers as a destination. -/
def dstReg (n : Nat) : Option DstUse := some { n, v := true, s := true }

/-- A v or s register, or 340 for none. -/
def dstOpt (n : Nat) : Option DstUse := some { n, v := true, s := true, zero := true }

end Sys2Proof.Machine

namespace Sys2Proof

/-- SPEC without the constant-window bits (R55). -/
def ExtA.own (w : ExtA) : Nat := if w.c = .cwin then w.spec.toNat % 8 else w.spec.toNat

/-- Bits [hi:lo] of word 2, as the instruction's own SPEC bits. -/
def ExtA.f (w : ExtA) (hi lo : Nat) : Nat := w.own / 2 ^ (lo - 9) % 2 ^ (hi + 1 - lo)

/-- The own SPEC bits lie within the word-2 bits [hi:9]. -/
def ExtA.upTo (w : ExtA) (hi : Nat) : Bool := w.own < 2 ^ (hi - 8)

/-- The own SPEC bits outside the word-2 bits [hi:lo] are zero. -/
def ExtA.only (w : ExtA) (hi lo : Nat) : Bool := w.own == w.f hi lo * 2 ^ (lo - 9)

/-- MOD as a number. -/
def ExtA.mod (w : ExtA) : Nat := w.h.mod.toNat

def ExtA.mod2 (w : ExtA) : Nat := w.h.mod2.toNat

/-- No field of MOD2 and SPEC is set, and MOD is at most `m`. -/
def ExtA.plain (w : ExtA) (m : Nat) : Bool := w.mod ≤ m && w.mod2 == 0 && w.own == 0

def ExtM.mod (w : ExtM) : Nat := w.h.mod.toNat

def ExtM.mod2 (w : ExtM) : Nat := w.h.mod2.toNat

/-- SIZE (R60). -/
def ExtM.size (w : ExtM) : Nat := w.mmod.toNat % 8

/-- SX (R60). -/
def ExtM.sx (w : ExtM) : Bool := w.mmod.getLsbD 3

/-- MMOD [5:4]: SCOPE, or the field F of R238. -/
def ExtM.fld (w : ExtM) : Nat := w.mmod.toNat / 16 % 4

/-- CLASS (R60). -/
def ExtM.cls (w : ExtM) : Nat := w.mmod.toNat / 64

/-- Bytes of an access of SIZE; n4 counts as one byte (R60). -/
def sizeBytes (size : Nat) : Nat :=
  match size with
  | 0 => 1
  | 1 => 2
  | 2 => 4
  | 3 => 8
  | 4 => 16
  | _ => 1

/-- Registers of an access of SIZE (R126). -/
def sizeRegs (size : Nat) : Nat :=
  match size with
  | 3 => 2
  | 4 => 4
  | _ => 1

/-- The handler index of ATOM and RED (R238). -/
def ExtM.hnd (w : ExtM) : Nat := w.fld % 2 * 16 + w.mod

end Sys2Proof

namespace Sys2Proof.Machine

/-- SIZE of a handler: 2 for b32, 3 for b64; FETCH takes either (R240). -/
def hndSizeOk (hnd size : Nat) : Bool :=
  if hnd = 31 then size == 2 || size == 3
  else if [1, 15, 16, 17, 19, 21, 24, 25, 26, 27].contains hnd then size == 3
  else size == 2

/-- The B operand of a handler: a register, pair or quad; FETCH has none (R240). -/
def hndB (hnd : Nat) : Option SrcUse :=
  if hnd = 31 then none
  else if hnd = 21 then srcReg 4
  else if hnd = 20 then srcRegI 2
  else if [1, 15, 16, 17, 19, 25, 26, 27].contains hnd then srcRegI 2
  else srcRegI 1

/-- The handler of an ATOMS operation (R159). -/
def atomsHnd (mod : Nat) : Nat := [0, 1, 3, 4, 6, 7, 8, 9, 12, 13, 14, 18, 20, 21, 22, 2].getD mod 0

/-- Special registers of MOVS that are 64 bits wide (R110). -/
def movsWide (n : Nat) : Bool := 0x0F ≤ n && n ≤ 0x12

/-- System registers that exist (R119). -/
def sysKnown (n : Nat) : Bool := n ≤ 5 || n == 8 || n == 0x10 || n == 0x11

/-- System registers that are 64 bits wide (R119). -/
def sysWide (n : Nat) : Bool := n == 0 || n == 2 || n == 4

/-- The largest Q of PACK or UNPACK for a format; none outside the table (R105, R106). -/
def packQ (f : Fmt) : Option Nat :=
  match f with
  | .f16 | .bf16 | .s16 | .u16 => some 0
  | .e4m3 | .e5m2 | .l6 | .s8 | .u8 => some 1
  | .e2m1 => some 3
  | _ => none

def unpackQ (f : Fmt) : Option Nat :=
  match f with
  | .mxf8e4m3 | .mxf8e5m2 | .mxi8 | .mxl6 => some 1
  | .mxf4 => some 3
  | _ => packQ f

/-- A format field names a format that satisfies `p`. -/
def fmtIs (code : Nat) (p : Fmt → Bool) : Bool :=
  match Fmt.ofCode code with
  | some f => p f
  | none => false

/-- CVT's fields (R104). -/
def cvtOk (w : ExtA) : Bool :=
  w.upTo 21 && w.f 13 9 ≤ 14 && w.f 18 14 ≤ 14 && w.mod2 == 0 && w.mod % 8 ≤ 4
  && fmtIs (w.f 13 9) (fun f => decide (w.f 21 19 < f.count))
  && !(w.mod % 8 == 4 && fmtIs (w.f 18 14) (fun f => f.range.isSome))

/-- PACK's fields (R105); SR with an integer format follows CVT (R104). -/
def packOk (w : ExtA) : Bool :=
  w.mod2 == 0 && w.mod % 8 ≤ 4
  && (w.c == .cwin
    || (w.upTo 15
      && fmtIs (w.f 13 9) (fun f => match packQ f with | some q => decide (w.f 15 14 ≤ q) | none => false)
      && !(w.mod % 8 == 4 && fmtIs (w.f 13 9) (fun f => f.range.isSome))))

/-- UNPACK's fields (R106). -/
def unpackOk (w : ExtA) : Bool :=
  w.mod2 == 0 && w.mod % 8 ≤ 3 && w.upTo 15
  && fmtIs (w.f 13 9) (fun f => match unpackQ f with | some q => decide (w.f 15 14 ≤ q) | none => false)

/-- QNT's fields (R108). -/
def qntOk (w : ExtA) : Bool :=
  w.mod2 == 0 && w.mod ≤ 4
  && (w.c == .cwin
    || (w.upTo 16 && fmtIs (w.f 13 9) (fun f => f.block && decide (w.f 16 14 ≤ if f = .mxf4 then 7 else 3))))

/-- The fields of ICMP and FCMP beyond MOD and MOD2 (R100). -/
def cmpOk (w : ExtA) : Bool := w.upTo 17 && (w.f 17 16 != 0 || w.f 15 12 == 0)

/-- ACCRD's fields (R189). -/
def accrdOk (w : ExtA) : Bool :=
  let ik := w.f 21 21
  let sat := w.f 20 20
  let rnd := w.f 19 17
  w.mod2 == 0 && w.f 16 9 == 0 && w.f 25 23 ≤ 5
  && match w.mod with
    | 0 => ik == 0 && sat == 0 && rnd == 0
    | 1 | 2 | 3 | 4 => rnd ≤ 4
    | 5 => ik == 1 && sat == 0 && rnd == 0
    | 6 => sat == 0 && rnd == 0
    | 7 => ik == 1 && sat == 0 && rnd ≤ 4
    | _ => false

/-- The fields of the word-2 layout PD [14:12] with the rest zero. -/
def pdOnly (w : ExtA) (m : Nat) : Bool := w.mod ≤ m && w.mod2 == 0 && w.only 14 12

/-- The modifiers of a load or store: no SCOPE, a SIZE of the instruction, SX on narrow loads alone (R126). -/
def mmodOk (w : ExtM) (sizes : List Nat) (load : Bool) : Bool :=
  w.fld == 0 && sizes.contains w.size && (!w.sx || (load && w.size ≤ 1))

/-- A lane memory instruction: address kind 0 or 1, which is then no reserved one (R59, R126). -/
def memOk (w : ExtM) (sizes : List Nat) (load : Bool) : Bool := w.mod2 ≤ 1 && mmodOk w sizes load

/-- A scratch instruction: no CLASS. MOD2 = 10 and 11 fail the check of R59 (0x002), which R62 makes before the one of R156 (0x003);
MOD2 = 00 fails that one alone. DEDUCED, log 67. -/
def scrOk (w : ExtM) (sizes : List Nat) (load : Bool) : Bool := memOk w sizes load && w.cls == 0

/-- A slice operation: no CLASS and no SX (R238). -/
def dieOk (w : ExtM) : Bool := w.mod2 ≤ 1 && w.cls == 0 && !w.sx

/-- The address operand of R59. -/
def srcAddr : Option SrcUse := srcReg 2

/-- Two-source integer or FP32 shape on port A. -/
def shape2 (ok : Bool) : Shape := { dst := dstA, a := src32, b := src32, ok }

/-- FP32 source and mask on port A (R96). -/
def shapeCls (ok : Bool) : Shape := { dst := dstA, a := src32, b := srcMask, ok }

/-- One-source shape on port A. -/
def shape1A (ok : Bool) : Shape := { dst := dstA, a := src32, ok }

/-- One-source shape on port B. -/
def shape1B (ok : Bool) : Shape := { dst := dstB, a := src32, ok }

/-- Three-source shape on port A. -/
def shape3 (ok : Bool) : Shape := { dst := dstA, a := src32, b := src32, c := srcC, ok }

/-- MOD and MOD2 of FADD and FMUL (R95). -/
def faddOk (w : ExtA) : Bool := w.mod ≤ 3 && w.own == 0

/-- The packed half instructions (R98). -/
def halfOk (w : ExtA) (m hi : Nat) : Bool := w.mod ≤ m && w.own < 2 ^ (hi - 8)

/-- MOVL (R109): B is the literal in both forms. -/
def movlShape (w : ExtA) : Shape :=
  { dst := if w.mod = 1 then dstReg 2 else dstA, b := some { lit := true }, ok := w.plain 1 }

/-- The shape of an encoded instruction; an event has none. -/
def shapeOf (i : Instr) : Option Shape :=
  match i with
  | .iadd w | .isub w | .imul w | .imulhi w | .imin w | .imax w | .shl w | .shr w | .sar w | .rol w
  | .fadd w | .fmul w | .fmin w | .fmax w => some (shape2 (w.toExt.plain 0))
  | .iabs w | .popc w | .clz w | .ctz w | .brev w | .mov w => some (shape1A (w.toExt.plain 0))
  | .frcp w | .frsq w | .fsqrt w | .fexp2 w | .flog2 w | .fsin w | .fcos w | .ftanh w =>
    some (shape1B (w.toExt.plain 0))
  | .exit _ | .nop _ | .yield _ | .eret _ => some {}
  | .iaddExt w | .isubExt w => some (shape2 (w.plain 2))
  | .imulhiExt w | .iminExt w | .imaxExt w => some (shape2 (w.plain 1))
  | .imulExt w | .shlExt w | .shrExt w | .sarExt w | .rolExt w => some (shape2 (w.plain 0))
  | .imad w => some (shape3 (w.plain 2))
  | .imadw w => some { dst := dstReg 2, a := src32, b := src32, c := srcC64, ok := w.plain 1 }
  | .iabsExt w => some (shape1A (w.plain 1))
  | .popcExt w | .clzExt w | .ctzExt w | .brevExt w => some (shape1A (w.plain 0))
  | .logic w =>
    some { dst := dstA, a := src32, b := src32, c := src32,
           ok := w.mod == 0 && w.mod2 == 0 && (w.c == .cwin || w.upTo 16) }
  | .bfx w => some (shape2 (w.plain 1))
  | .bfi w => some (shape3 (w.plain 0))
  | .sel w => some (shape2 (w.mod == 0 && w.mod2 == 0 && w.upTo 12))
  | .aadd w =>
    some { dst := dstReg 2, a := src64, b := if w.mod = 2 then src64 else src32, ok := w.plain 2 }
  | .idot4 w => some (shape3 (w.plain 7))
  | .faddExt w | .fmulExt w => some (shape2 (faddOk w))
  | .ffma w => some (shape3 (w.mod ≤ 3 && w.upTo 9))
  | .fminExt w | .fmaxExt w => some (shape2 (w.mod == 0 && w.own == 0))
  | .fcls w => some (shapeCls (w.mod == 0 && w.mod2 == 0 && w.upTo 12 && (w.f 12 12 == 1 || w.f 11 9 == 0)))
  | .frcpExt w | .frsqExt w | .fsqrtExt w | .fexp2Ext w | .flog2Ext w | .fsinExt w | .fcosExt w | .ftanhExt w =>
    some (shape1B (w.plain 0))
  | .hadd2 w | .hmul2 w => some (shape2 (halfOk w 7 8))
  | .hfma2 w => some (shape3 (halfOk w 7 9))
  | .hmin2 w | .hmax2 w => some (shape2 (halfOk w 1 8))
  | .fdot2 w => some (shape3 (halfOk w 7 8))
  | .cvt w =>
    some { dst := if fmtIs (w.f 18 14) (fun f => f.bits == 64) then dstReg 2 else dstB
           a := if fmtIs (w.f 13 9) (fun f => f.bits == 64) then src64 else src32, ok := cvtOk w }
  | .pack w => some { dst := dstB, a := src32, b := src32, c := src32, ok := packOk w }
  | .unpack w =>
    some { dst := dstReg 2, a := src32, b := if fmtIs (w.f 13 9) Fmt.block then src32 else none, ok := unpackOk w }
  | .mxscale w => some (shape1B (w.mod == 0 && w.mod2 == 0 && w.upTo 13 && fmtIs (w.f 13 9) Fmt.block))
  | .qnt w => some { dst := dstB, a := src32, b := src32, c := src32, ok := qntOk w }
  | .icmp w => some { a := src32, b := src32, ok := w.mod ≤ 5 && w.mod2 ≤ 1 && cmpOk w }
  | .fcmp w => some { a := src32, b := src32, ok := w.mod ≤ 7 && w.mod2 == 0 && cmpOk w }
  | .plogic w => some { ok := w.mod == 0 && w.mod2 == 0 && w.upTo 28 }
  | .pmovGet w => some { dst := dstA, ok := w.plain 0 }
  | .pmovPut w => some { a := src32, ok := w.mod == 1 && w.mod2 == 0 && w.upTo 15 }
  | .movExt w =>
    some { dst := if w.mod = 1 then dstReg 2 else dstA, a := if w.mod = 1 then src64 else src32, ok := w.plain 1 }
  | .movl w => some (movlShape w)
  | .movs w =>
    some { dst := if movsWide (w.f 14 9) then dstReg 2 else dstA
           ok := w.mod == 0 && w.mod2 == 0 && w.upTo 14 && w.f 14 9 ≤ 0x12 }
  | .bra w =>
    some { b := some { zero := true, imm := true, lit := true }
           ok := w.mod == 0 && w.mod2 == 0 && (w.b != .lit || w.lit.toNat < 2 ^ 32) }
  | .brx w => some { a := srcReg 2, ok := w.mod == 0 && w.mod2 == 0 }
  | .call w =>
    some { dst := dstReg 2, a := some { n := 2, s := true, zero := true, lit := true }
           ok := w.mod == 0 && w.mod2 == 0 && (w.a == .zero || w.own == 0), always := true }
  | .ret w => some { a := srcReg 2, ok := w.plain 0, always := true }
  | .exitExt w | .nopExt w | .yieldExt w | .eretExt w => some { ok := w.plain 0 }
  | .trap w => some { ok := w.mod == 0 && w.mod2 == 0 && w.upTo 16 }
  | .rdsys w =>
    some { dst := dstReg (if sysWide (w.f 16 9) then 2 else 1)
           ok := w.mod == 0 && w.mod2 == 0 && w.upTo 16 && sysKnown (w.f 16 9) }
  | .wrsys w =>
    some { a := if sysWide (w.f 16 9) then src64 else src32
           ok := w.mod == 0 && w.mod2 == 0 && w.upTo 16 && sysKnown (w.f 16 9) }
  | .shfl w =>
    some { dst := dstB, a := src32, b := src32
           ok := w.mod ≤ 3 && w.mod2 == 0 && w.upTo 16 && w.f 12 12 == 0 && w.f 11 9 ≤ 5
             && (w.f 16 16 == 1 || w.f 15 13 == 0) }
  | .vote w =>
    some { dst := if w.mod = 2 then dstB else none
           ok := w.mod ≤ 3 && w.mod2 == 0 && w.upTo 15 && (w.mod != 2 || w.f 15 13 == 0) }
  | .matchLanes w =>
    some { dst := dstB, a := if w.mod / 2 % 2 = 1 then src64 else src32
           ok := w.mod ≤ 3 && w.mod2 == 0 && w.upTo 16 && w.f 12 9 == 0
             && (w.f 16 16 == 0 || w.mod % 2 == 1) }
  | .redg w => some (shape1B (w.plain 8))
  | .elect w => some { dst := some { v := true, s := true, latchB := true, zero := true }, ok := w.mod == 0 && w.mod2 == 0 && w.only 15 13 }
  | .prmt w => some { dst := dstB, a := src32, b := src32, c := srcC, ok := w.plain 0 }
  | .ld w =>
    some { dst := dstReg (sizeRegs w.size), a := srcAddr, var := true
           ok := memOk w [0, 1, 2, 3, 4] true && w.mod == 0 }
  | .st w =>
    some { a := srcAddr, b := srcReg (sizeRegs w.size)
           ok := memOk w [0, 1, 2, 3, 4, 5] false && w.mod ≤ (if w.size = 5 then 1 else 0) }
  | .ldl w =>
    some { dst := dstReg (sizeRegs w.size), a := srcRegZ, var := true
           ok := memOk w [0, 1, 2, 3, 4] true && w.mod == 0 }
  | .stl w =>
    some { a := srcRegZ, b := srcReg (sizeRegs w.size), ok := memOk w [0, 1, 2, 3, 4] false && w.mod == 0 }
  | .ldc w =>
    some { dst := dstReg (sizeRegs w.size), a := srcAddr, var := true, ok := memOk w [2, 3] false && w.mod == 0 }
  | .pref w => some { a := srcAddr, ok := memOk w [0] false && w.mod == 0 }
  | .lds w =>
    some { dst := dstReg (sizeRegs w.size), a := srcRegZ, var := true
           ok := scrOk w [0, 1, 2, 3, 4] true && w.mod == 0 }
  | .sts w =>
    some { a := srcRegZ, b := srcReg (sizeRegs w.size)
           ok := scrOk w [0, 1, 2, 3, 4, 5] false && w.mod ≤ (if w.size = 5 then 1 else 0) }
  | .atoms w =>
    some { dst := dstOpt (sizeRegs w.size), a := srcRegZ
           b := srcReg (match w.mod with | 12 => 2 | 13 => 4 | 1 => 2 | _ => 1), var := true
           ok := scrOk w [2, 3] false && hndSizeOk (atomsHnd w.mod) w.size
             && (w.dst != .zero || w.h.sbset == 15) }
  | .hoopAcq w => some { dst := dstOpt 1, ok := w.mod == 0 && w.mod2 == 0 && w.upTo 14 }
  | .hoopWait w => some { dst := dstOpt 1, ok := w.mod == 0 && w.mod2 == 0 && w.upTo 11 }
  | .hoopRel w => some { ok := w.mod == 0 && w.mod2 == 0 && w.upTo 11 }
  | .cp w =>
    some { a := some { n := if w.mod % 2 = 1 then 1 else 2, s := true }
           b := some { n := if w.mod / 2 % 2 = 1 then 1 else 2, s := true }, c := srcSI, ok := pdOnly w 3 }
  | .cp2d w | .cpg w | .cps w => some { a := srcS, ok := pdOnly w 0 }
  | .cpq w => some { dst := dstReg 1, ok := w.plain 0 }
  | .bart w => some { ok := w.plain 0, always := true }
  | .barrArv w | .barrWt w => some { ok := w.mod == 0 && w.mod2 == 0 && w.upTo 15, always := true }
  | .fences w => some { ok := w.plain 0 }
  | .waym w => some { dst := dstOpt 1, a := srcReg 1, ok := w.plain 0 }
  | .wbld w => some { a := srcSZI, b := srcSZI, c := srcSZI, ok := pdOnly w 0 }
  | .mloop w => some { a := srcBlk, b := srcSZI, ok := w.mod ≤ 1 && w.mod2 == 0 && w.f 19 15 == 0 && w.f 11 9 == 0 }
  | .mstep w => some { a := srcBlk, c := srcSZI, ok := w.mod ≤ 1 && w.mod2 == 0 && w.f 19 15 == 0 && w.f 11 9 == 0 }
  | .mwait w => some { dst := dstOpt 1, ok := w.mod == 0 && w.mod2 == 0 && w.upTo 11 && w.f 11 9 ≤ 4 }
  | .accrd w => some { dst := some { v := true }, a := srcSZI, var := true, ok := accrdOk w }
  | .accwr w =>
    some { a := srcSZI, b := srcRegI 1, ok := w.mod == 0 && w.mod2 == 0 && w.f 21 9 == 0 && w.f 25 23 ≤ 5 }
  | .accclr w => some { a := srcSZI, ok := w.mod == 0 && w.mod2 == 0 && w.f 18 9 == 0 }
  | .ohnd w => some { a := srcSZI, ok := w.mod == 0 && w.mod2 == 0 && w.upTo 11 }
  | .ohndClr w => some { ok := w.mod == 1 && w.mod2 == 0 && w.upTo 11 }
  | .nsend w => some { b := srcRegI 1, ok := w.mod == 0 && w.mod2 == 0 && w.upTo 18 && w.f 11 9 == 0 }
  | .nrecv w => some { dst := dstReg 1, ok := w.mod == 0 && w.mod2 == 0 && w.only 18 15 }
  | .npoll w => some { dst := dstOpt 1, ok := w.mod == 0 && w.mod2 == 0 && w.upTo 18 && w.f 11 9 == 0 }
  | .barc w => some { ok := w.mod ≤ 1 && w.mod2 == 0 && w.upTo 17 && w.f 11 11 == 0, always := true }
  | .atom w =>
    some { dst := dstReg (sizeRegs w.size), a := srcAddr, b := hndB w.hnd, var := true
           ok := dieOk w && w.fld ≤ 1 && hndSizeOk w.hnd w.size }
  | .red w => some { a := srcAddr, b := hndB w.hnd, ok := dieOk w && w.fld ≤ 1 && w.hnd != 31 && hndSizeOk w.hnd w.size }
  | .lr w =>
    some { dst := dstReg (sizeRegs w.size), a := srcAddr, var := true
           ok := dieOk w && w.fld == 0 && w.mod == 0 && (w.size == 2 || w.size == 3) }
  | .sc w =>
    some { dst := dstOpt 1, a := srcAddr, b := srcRegI (sizeRegs w.size), var := true
           ok := dieOk w && w.fld == 0 && w.mod == 0 && (w.size == 2 || w.size == 3) }
  | .waitc w =>
    some { dst := dstOpt 1, a := srcAddr, b := srcRegI 2, ok := dieOk w && w.mod % 8 ≤ 5 && w.size == 2 }
  | .phase w => some { ok := w.plain 3 && w.mod != 0 }
  | .disc w => some { a := srcAddr, ok := dieOk w && w.fld == 0 && w.mod == 0 && w.size == 0 }
  | .cwb w => some { a := srcAddr, ok := dieOk w && w.fld == 0 && w.mod == 0 && w.size == 0 }
  | .cinv w => some { a := srcAddr, ok := dieOk w && w.fld == 0 && w.mod == 1 && w.size == 0 }
  | .qpost w => some { a := srcS, b := srcSI, ok := pdOnly w 0 }
  | .coll w => some { dst := dstReg 1, a := srcS, b := srcSI, ok := pdOnly w 0 }
  | .collw w => some { dst := dstReg 2, a := srcSI, ok := w.plain 3 }
  | .collc w => some { a := srcS, b := srcSI, ok := pdOnly w 0 }
  | _ => none

/-! ### The checks of R62 -/

/-- The operands and head of an encoded instruction; `form` is none for a base word. -/
structure Fields where
  form : Option Form
  h : Head
  dst : Operand
  a : Operand
  b : Operand
  c : Operand
  deriving DecidableEq, Repr

def Fields.ofA (form : Option Form) (w : ExtA) : Fields :=
  { form, h := w.h, dst := w.dst, a := w.a, b := w.b, c := w.c }

def Fields.ofM (w : ExtM) : Fields :=
  { form := some .ext, h := w.h, dst := w.dst, a := w.a, b := w.b, c := .zero }

/-- The fields of an encoded instruction in the extended form as which it executes (R48). -/
def fieldsOf (i : Instr) : Option Fields :=
  match i with
  | .iadd w | .isub w | .imul w | .imulhi w | .iabs w | .imin w | .imax w | .shl w | .shr w | .sar w | .rol w
  | .popc w | .clz w | .ctz w | .brev w | .fadd w | .fmul w | .fmin w | .fmax w | .frcp w | .frsq w
  | .fsqrt w | .fexp2 w | .flog2 w | .fsin w | .fcos w | .ftanh w | .mov w | .exit w | .nop w | .yield w
  | .eret w =>
    some (Fields.ofA none w.toExt)
  | .iaddExt w | .isubExt w | .imulExt w | .imulhiExt w | .imad w | .imadw w | .iabsExt w | .iminExt w
  | .imaxExt w | .shlExt w | .shrExt w | .sarExt w | .rolExt w | .logic w | .popcExt w | .clzExt w
  | .ctzExt w | .brevExt w | .bfx w | .bfi w | .sel w | .aadd w | .idot4 w | .faddExt w | .fmulExt w
  | .ffma w | .fminExt w | .fmaxExt w | .fcls w | .frcpExt w | .frsqExt w | .fsqrtExt w | .fexp2Ext w
  | .flog2Ext w | .fsinExt w | .fcosExt w | .ftanhExt w | .hadd2 w | .hmul2 w | .hfma2 w | .hmin2 w
  | .hmax2 w | .fdot2 w | .cvt w | .pack w | .unpack w | .mxscale w | .qnt w | .icmp w | .fcmp w | .plogic w
  | .pmovGet w | .pmovPut w | .movExt w | .movl w | .movs w | .bra w | .brx w | .call w | .ret w | .exitExt w
  | .nopExt w | .yieldExt w | .trap w | .eretExt w | .rdsys w | .wrsys w | .shfl w | .vote w | .matchLanes w
  | .redg w | .elect w | .prmt w | .hoopAcq w | .hoopWait w | .hoopRel w | .cp w | .cp2d w | .cpg w | .cps w
  | .cpq w | .bart w | .barrArv w | .barrWt w | .fences w | .waym w | .wbld w | .mloop w | .mstep w
  | .mwait w | .accrd w | .accwr w | .accclr w | .ohnd w | .ohndClr w | .nsend w | .nrecv w | .npoll w
  | .barc w | .phase w | .qpost w | .coll w | .collw w | .collc w =>
    some (Fields.ofA (some w.form) w)
  | .ld w | .st w | .ldl w | .stl w | .ldc w | .pref w | .lds w | .sts w | .atoms w | .atom w | .red w
  | .lr w | .sc w | .waitc w | .disc w | .cwb w | .cinv w =>
    some (Fields.ofM w)
  | _ => none

/-- SPEC and the literal of an instruction of the arithmetic layout; zero for the others. -/
def specOf (i : Instr) : BitVec 23 × DWord :=
  match i with
  | .iaddExt w | .isubExt w | .imulExt w | .imulhiExt w | .imad w | .imadw w | .iabsExt w | .iminExt w
  | .imaxExt w | .shlExt w | .shrExt w | .sarExt w | .rolExt w | .logic w | .popcExt w | .clzExt w
  | .ctzExt w | .brevExt w | .bfx w | .bfi w | .sel w | .aadd w | .idot4 w | .faddExt w | .fmulExt w
  | .ffma w | .fminExt w | .fmaxExt w | .fcls w | .frcpExt w | .frsqExt w | .fsqrtExt w | .fexp2Ext w
  | .flog2Ext w | .fsinExt w | .fcosExt w | .ftanhExt w | .hadd2 w | .hmul2 w | .hfma2 w | .hmin2 w
  | .hmax2 w | .fdot2 w | .cvt w | .pack w | .unpack w | .mxscale w | .qnt w | .icmp w | .fcmp w | .plogic w
  | .pmovGet w | .pmovPut w | .movExt w | .movl w | .movs w | .bra w | .brx w | .call w | .ret w | .exitExt w
  | .nopExt w | .yieldExt w | .trap w | .eretExt w | .rdsys w | .wrsys w | .shfl w | .vote w | .matchLanes w
  | .redg w | .elect w | .prmt w | .hoopAcq w | .hoopWait w | .hoopRel w | .cp w | .cp2d w | .cpg w | .cps w
  | .cpq w | .bart w | .barrArv w | .barrWt w | .fences w | .waym w | .wbld w | .mloop w | .mstep w
  | .mwait w | .accrd w | .accwr w | .accclr w | .ohnd w | .ohndClr w | .nsend w | .nrecv w | .npoll w
  | .barc w | .phase w | .qpost w | .coll w | .collw w | .collc w =>
    (w.spec, w.lit)
  | _ => (0, 0)

/-- The form carries a literal (R46). -/
def Fields.hasLit (f : Fields) : Bool := f.form == some .baseLit || f.form == some .extLit

/-- An unused operand field holds Zero (R51, R54). -/
def unusedOk {α : Type} (u : Option α) (o : Operand) : Bool := u.isSome || o == .zero

/-- A dead bit stands on a used source that is a main-file register, a latch or an operand-cache entry (R39).
DEDUCED, log 50: a dead bit on a reserved operand code fails here too (0x002), before the operand codes are checked (0x003). -/
def deadOk (dead : Bool) (u : Option SrcUse) (o : Operand) : Bool :=
  !dead || (u.isSome && match o with | .v _ | .oc _ | .la | .lb => true | _ => false)

/-- SBSET names a slot only where the result has variable latency (R44, R52). -/
def sbsetOk (sb : BitVec 4) (var : Bool) : Bool := sb == 15 || (var && sb.toNat ≤ 5)

/-- The guard is one that the instruction permits (R53). -/
def guardOk (h : Head) (always : Bool) : Bool :=
  if h.guard = 7 then !h.gneg else !always

/-- The checks of R62 that raise 0x002 all pass. -/
def reservedOk (sh : Shape) (f : Fields) : Bool :=
  sh.ok && guardOk f.h sh.always && sbsetOk f.h.sbset sh.var
  && unusedOk sh.dst f.dst && unusedOk sh.a f.a && unusedOk sh.b f.b && unusedOk sh.c f.c
  && deadOk f.h.deadA sh.a f.a && deadOk f.h.deadB sh.b f.b && deadOk f.h.deadC sh.c f.c

/-- A source operand is of a kind that its position accepts (R51, R56, R91). -/
def srcOk (hasLit : Bool) (u : Option SrcUse) (o : Operand) : Bool :=
  match u with
  | none => true
  | some p =>
    match o with
    | .v _ => p.v
    | .s n => p.s && decide (n.toNat + p.n ≤ 64)
    | .oc _ | .la | .lb => p.upper
    | .zero => p.zero
    | .imm _ => p.imm
    | .lit => p.lit && hasLit
    | .cwin => p.cwin
    | .bad _ => false

/-- A destination operand is of a kind that its position accepts (R33, R51, R56). -/
def dstOk (u : Option DstUse) (o : Operand) : Bool :=
  match u with
  | none => true
  | some p =>
    match o with
    | .v _ => p.v
    | .s n => p.s && decide (n.toNat + p.n ≤ 64)
    | .oc _ => p.oc
    | .la => p.latchA
    | .lb => p.latchB
    | .zero => p.zero
    | _ => false

/-- What an instruction's own chapter adds to the 0x003 checks: the address kind of R59 and R156, the loop block of R185
and the length of CP, which may be no negative immediate (R164). -/
def extra003 (i : Instr) : Option Nat :=
  match i with
  | .lds w | .sts w | .atoms w => if w.mod2 = 1 then none else some 1
  | .ld w | .st w | .ldl w | .stl w | .ldc w | .pref w | .atom w | .red w | .lr w | .sc w | .waitc w | .disc w
  | .cwb w | .cinv w => if w.mod2 = 0 then none else some 1
  | .mloop w | .mstep w =>
    match w.a with
    | .s n => if n.toNat % 8 = 0 then none else some 1
    | _ => some 1
  | .cp w =>
    match w.c with
    | .imm k => if k.toNat < 64 then none else some 3
    | _ => none
  | _ => none

/-- The operand position at which the static checks of R62 raise 0x003, if any: 0 DST, 1 A, 2 B, 3 C (R117).
The first failing position decides. DEDUCED, log 10. -/
def illegalOperand (i : Instr) (sh : Shape) (f : Fields) : Option Nat :=
  if !dstOk sh.dst f.dst then some 0
  else if !srcOk f.hasLit sh.a f.a then some 1
  else if !srcOk f.hasLit sh.b f.b then some 2
  else if !srcOk f.hasLit sh.c f.c then some 3
  else extra003 i

/-- An extended form with a literal names it in some operand (R56). -/
def literalNamed (f : Fields) : Bool :=
  f.form != some .extLit || f.dst == .lit || f.a == .lit || f.b == .lit || f.c == .lit

/-- The major opcode of an encoded instruction (R61). -/
def opOf (i : Instr) : Option Nat :=
  match i with
  | .iadd _ | .iaddExt _ => some 0x00
  | .isub _ | .isubExt _ => some 0x01
  | .imul _ | .imulExt _ => some 0x02
  | .imulhi _ | .imulhiExt _ => some 0x03
  | .imad _ => some 0x04
  | .imadw _ => some 0x05
  | .iabs _ | .iabsExt _ => some 0x06
  | .imin _ | .iminExt _ => some 0x07
  | .imax _ | .imaxExt _ => some 0x08
  | .shl _ | .shlExt _ => some 0x09
  | .shr _ | .shrExt _ => some 0x0A
  | .sar _ | .sarExt _ => some 0x0B
  | .rol _ | .rolExt _ => some 0x0C
  | .logic _ => some 0x0D
  | .popc _ | .popcExt _ => some 0x0E
  | .clz _ | .clzExt _ => some 0x0F
  | .ctz _ | .ctzExt _ => some 0x10
  | .brev _ | .brevExt _ => some 0x11
  | .bfx _ => some 0x12
  | .bfi _ => some 0x13
  | .sel _ => some 0x14
  | .aadd _ => some 0x15
  | .idot4 _ => some 0x16
  | .fadd _ | .faddExt _ => some 0x40
  | .fmul _ | .fmulExt _ => some 0x41
  | .ffma _ => some 0x42
  | .fmin _ | .fminExt _ => some 0x43
  | .fmax _ | .fmaxExt _ => some 0x44
  | .fcls _ => some 0x45
  | .frcp _ | .frcpExt _ => some 0x48
  | .frsq _ | .frsqExt _ => some 0x49
  | .fsqrt _ | .fsqrtExt _ => some 0x4A
  | .fexp2 _ | .fexp2Ext _ => some 0x4B
  | .flog2 _ | .flog2Ext _ => some 0x4C
  | .fsin _ | .fsinExt _ => some 0x4D
  | .fcos _ | .fcosExt _ => some 0x4E
  | .ftanh _ | .ftanhExt _ => some 0x4F
  | .hadd2 _ => some 0x50
  | .hmul2 _ => some 0x51
  | .hfma2 _ => some 0x52
  | .hmin2 _ => some 0x53
  | .hmax2 _ => some 0x54
  | .fdot2 _ => some 0x58
  | .cvt _ => some 0x70
  | .pack _ => some 0x71
  | .unpack _ => some 0x72
  | .mxscale _ => some 0x73
  | .qnt _ => some 0x74
  | .icmp _ => some 0x80
  | .fcmp _ => some 0x81
  | .plogic _ => some 0x82
  | .pmovGet _ | .pmovPut _ => some 0x83
  | .mov _ | .movExt _ => some 0x88
  | .movl _ => some 0x89
  | .movs _ => some 0x8A
  | .bra _ => some 0x90
  | .brx _ => some 0x91
  | .call _ => some 0x92
  | .ret _ => some 0x93
  | .exit _ | .exitExt _ => some 0x94
  | .nop _ | .nopExt _ => some 0x95
  | .yield _ | .yieldExt _ => some 0x96
  | .trap _ => some 0x97
  | .eret _ | .eretExt _ => some 0x98
  | .rdsys _ => some 0x99
  | .wrsys _ => some 0x9A
  | .shfl _ => some 0xA0
  | .vote _ => some 0xA1
  | .matchLanes _ => some 0xA2
  | .redg _ => some 0xA3
  | .elect _ => some 0xA4
  | .prmt _ => some 0xA5
  | .ld _ => some 0xB0
  | .st _ => some 0xB1
  | .ldl _ => some 0xB2
  | .stl _ => some 0xB3
  | .ldc _ => some 0xB4
  | .pref _ => some 0xB5
  | .lds _ => some 0xC0
  | .sts _ => some 0xC1
  | .atoms _ => some 0xC2
  | .hoopAcq _ => some 0xC3
  | .hoopWait _ => some 0xC4
  | .hoopRel _ => some 0xC5
  | .cp _ => some 0xC6
  | .cp2d _ => some 0xC7
  | .cpg _ => some 0xC8
  | .cps _ => some 0xC9
  | .cpq _ => some 0xCA
  | .bart _ => some 0xCB
  | .barrArv _ => some 0xCC
  | .barrWt _ => some 0xCD
  | .fences _ => some 0xCE
  | .waym _ => some 0xCF
  | .wbld _ => some 0xD0
  | .mloop _ => some 0xD1
  | .mstep _ => some 0xD2
  | .mwait _ => some 0xD3
  | .accrd _ => some 0xD4
  | .accwr _ => some 0xD5
  | .accclr _ => some 0xD6
  | .ohnd _ | .ohndClr _ => some 0xD7
  | .nsend _ => some 0xE0
  | .nrecv _ => some 0xE1
  | .npoll _ => some 0xE2
  | .barc _ => some 0xE3
  | .atom _ => some 0xE8
  | .red _ => some 0xE9
  | .lr _ => some 0xEA
  | .sc _ => some 0xEB
  | .waitc _ => some 0xEC
  | .phase _ => some 0xED
  | .disc _ => some 0xEE
  | .cwb _ | .cinv _ => some 0xEF
  | .qpost _ => some 0xF0
  | .coll _ => some 0xF1
  | .collw _ => some 0xF2
  | .collc _ => some 0xF3
  | _ => none

end Sys2Proof.Machine
end

