-- ==== Sys2Proof/WellFormed.lean ====
section
/-!
DEFINITION. Well-formed instructions: those that some words encode and that pass every static check of R62.
The checks themselves stand in Machine/OpTable.lean, in the order in which the decoder applies them.
-/

namespace Sys2Proof

open Machine

/-- The operand has a compact code (R51). -/
def Operand.compact (o : Operand) : Bool :=
  match o with
  | .v n => n.toNat < 40
  | .s n => n.toNat < 8
  | .oc _ | .la | .lb | .zero => true
  | _ => false

/-- The fields are those that the words of the form can hold (R46, R48, R50): a base word with a literal implies all but its
operands, and a form without a literal holds none. -/
def Machine.Fields.canonical (f : Fields) (spec : BitVec 23) (lit : DWord) : Bool :=
  match f.form with
  | none => f.dst.compact && f.a.compact && f.b.compact
  | some .baseLit =>
    f.h == .base f.h.y f.h.stall && f.dst.compact && f.a.compact && f.b == .lit && f.c == .zero && spec == 0
  | some .ext => lit == 0
  | some .extLit => true

/-- The instruction's fields fit its words; an event has no words. -/
def Instr.canonical (i : Instr) : Bool :=
  match fieldsOf i, specOf i with
  | some f, (spec, lit) => f.canonical spec lit
  | none, _ => false

/-- LEN of a form (R46). -/
def lenOf (form : Option Form) : Nat :=
  match form with
  | none => 0
  | some .baseLit => 1
  | some .ext => 2
  | some .extLit => 3

/-- The opcode permits the instruction's form (R61). -/
def Instr.formOk (i : Instr) : Bool :=
  match opOf i, fieldsOf i with
  | some op, some f =>
    match opRow op with
    | some r => r.forms.contains (lenOf f.form) && literalNamed f
    | none => false
  | _, _ => false

/-- No check of R62 raises cause 0x002. -/
def Instr.reservedOk (i : Instr) : Bool :=
  match shapeOf i, fieldsOf i with
  | some sh, some f => Machine.reservedOk sh f
  | _, _ => false

/-- No static check of R62 raises cause 0x003. -/
def Instr.operandsOk (i : Instr) : Bool :=
  match shapeOf i, fieldsOf i with
  | some sh, some f => (illegalOperand i sh f).isNone
  | _, _ => false

/-- A well-formed instruction (R62). -/
def Instr.wf (i : Instr) : Bool := i.canonical && i.formOk && i.reservedOk && i.operandsOk

end Sys2Proof
end

