-- ==== Sys2Proof/Decode.lean ====
section
/-!
DEFINITION. The decoder, total on any words, and the encoder (spec/03_instruction_words.md R46–R62).
-/

namespace Sys2Proof

open Machine

/-- What the words at an address are: an instruction and its length in words, or a cause with its operand position (R62). -/
inductive Decoded where
  | instr (i : Instr) (len : Nat)
  | cause (code pos : Nat)
  deriving DecidableEq, Repr

/-- Bits [hi:lo] of a word as a number. -/
def bitsOf (w : Word) (hi lo : Nat) : Nat := w.toNat / 2 ^ lo % 2 ^ (hi + 1 - lo)

/-- A 9-bit operand code (R56). -/
def operand9 (c : Nat) : Operand :=
  if c < 256 then .v (BitVec.ofNat 8 c)
  else if c < 264 then .oc (BitVec.ofNat 3 (c - 256))
  else if c = 264 then .la
  else if c = 265 then .lb
  else if c < 330 then .s (BitVec.ofNat 6 (c - 266))
  else if c = 340 then .zero
  else if c = 344 then .lit
  else if c = 345 then .cwin
  else if 384 ≤ c then .imm (BitVec.ofInt 7 ((c : Int) - 448))
  else .bad (BitVec.ofNat 9 c)

/-- A compact operand code (R51). -/
def operand6 (c : Nat) : Operand :=
  if c < 40 then .v (BitVec.ofNat 8 c)
  else if c < 48 then .oc (BitVec.ofNat 3 (c - 40))
  else if c = 48 then .la
  else if c = 49 then .lb
  else if c < 58 then .s (BitVec.ofNat 6 (c - 50))
  else if c = 58 then .zero
  else .bad (BitVec.ofNat 9 c)

/-- The 9-bit code of an operand (R56). -/
def Operand.code9 (o : Operand) : Nat :=
  match o with
  | .v n => n.toNat
  | .oc n => 256 + n.toNat
  | .la => 264
  | .lb => 265
  | .s n => 266 + n.toNat
  | .zero => 340
  | .lit => 344
  | .cwin => 345
  | .imm k => (448 + k.toInt).toNat
  | .bad c => c.toNat

/-- The compact code of an operand (R51). -/
def Operand.code6 (o : Operand) : Nat :=
  match o with
  | .v n => n.toNat
  | .oc n => 40 + n.toNat
  | .la => 48
  | .lb => 49
  | .s n => 50 + n.toNat
  | .zero => 58
  | .bad c => c.toNat
  | _ => 63

/-- The operands of a base word (R50). -/
def baseOf (w : Word) : Base :=
  { dst := operand6 (bitsOf w 19 14), a := operand6 (bitsOf w 25 20), b := operand6 (bitsOf w 31 26)
    y := w.getLsbD 13, stall := BitVec.ofNat 3 (bitsOf w 12 10) }

/-- The head of words 0 and 1 of the extended form (R52, R54). -/
def headOf (w0 w1 : Word) : Head :=
  { y := w0.getLsbD 13, stall := BitVec.ofNat 3 (bitsOf w0 12 10), guard := BitVec.ofNat 3 (bitsOf w0 16 14)
    gneg := w0.getLsbD 17, sbset := BitVec.ofNat 4 (bitsOf w0 21 18), wait := BitVec.ofNat 6 (bitsOf w0 27 22)
    mod := BitVec.ofNat 4 (bitsOf w0 31 28), mod2 := BitVec.ofNat 2 (bitsOf w1 31 30)
    deadA := w1.getLsbD 27, deadB := w1.getLsbD 28, deadC := w1.getLsbD 29 }

/-- The literal: low word first (R46). -/
def litOf (lo hi : Word) : DWord := BitVec.ofNat 64 (lo.toNat + 2 ^ 32 * hi.toNat)

/-- An extended instruction of the arithmetic layout (R55). -/
def extAOf (form : Form) (w0 w1 w2 : Word) (lit : DWord) : ExtA :=
  { form, h := headOf w0 w1, dst := operand9 (bitsOf w1 8 0), a := operand9 (bitsOf w1 17 9), b := operand9 (bitsOf w1 26 18)
    c := operand9 (bitsOf w2 8 0), spec := BitVec.ofNat 23 (bitsOf w2 31 9), lit }

/-- An instruction of the memory layout (R55). -/
def extMOf (w0 w1 w2 : Word) : ExtM :=
  { h := headOf w0 w1, dst := operand9 (bitsOf w1 8 0), a := operand9 (bitsOf w1 17 9), b := operand9 (bitsOf w1 26 18)
    offset := BitVec.ofNat 24 (bitsOf w2 31 8), mmod := BitVec.ofNat 8 (bitsOf w2 7 0) }

/-- A base word with a literal, as the extended form as which it executes (R48). -/
def baseLitOf (w0 : Word) (lit : DWord) : ExtA :=
  let b := baseOf w0
  { form := .baseLit, h := .base b.y b.stall, dst := b.dst, a := b.a, b := .lit, c := .zero, spec := 0, lit }

/-- The instruction of a base word (R61). -/
def buildBase (op : Nat) (w : Base) : Option Instr :=
  match op with
  | 0x00 => some (.iadd w)
  | 0x01 => some (.isub w)
  | 0x02 => some (.imul w)
  | 0x03 => some (.imulhi w)
  | 0x06 => some (.iabs w)
  | 0x07 => some (.imin w)
  | 0x08 => some (.imax w)
  | 0x09 => some (.shl w)
  | 0x0A => some (.shr w)
  | 0x0B => some (.sar w)
  | 0x0C => some (.rol w)
  | 0x0E => some (.popc w)
  | 0x0F => some (.clz w)
  | 0x10 => some (.ctz w)
  | 0x11 => some (.brev w)
  | 0x40 => some (.fadd w)
  | 0x41 => some (.fmul w)
  | 0x43 => some (.fmin w)
  | 0x44 => some (.fmax w)
  | 0x48 => some (.frcp w)
  | 0x49 => some (.frsq w)
  | 0x4A => some (.fsqrt w)
  | 0x4B => some (.fexp2 w)
  | 0x4C => some (.flog2 w)
  | 0x4D => some (.fsin w)
  | 0x4E => some (.fcos w)
  | 0x4F => some (.ftanh w)
  | 0x88 => some (.mov w)
  | 0x94 => some (.exit w)
  | 0x95 => some (.nop w)
  | 0x96 => some (.yield w)
  | 0x98 => some (.eret w)
  | _ => none

/-- The instruction of an opcode of the arithmetic layout; MOD tells PMOV and OHND apart (R102, R181). -/
def buildA (op : Nat) (w : ExtA) : Option Instr :=
  match op with
  | 0x00 => some (.iaddExt w)
  | 0x01 => some (.isubExt w)
  | 0x02 => some (.imulExt w)
  | 0x03 => some (.imulhiExt w)
  | 0x04 => some (.imad w)
  | 0x05 => some (.imadw w)
  | 0x06 => some (.iabsExt w)
  | 0x07 => some (.iminExt w)
  | 0x08 => some (.imaxExt w)
  | 0x09 => some (.shlExt w)
  | 0x0A => some (.shrExt w)
  | 0x0B => some (.sarExt w)
  | 0x0C => some (.rolExt w)
  | 0x0D => some (.logic w)
  | 0x0E => some (.popcExt w)
  | 0x0F => some (.clzExt w)
  | 0x10 => some (.ctzExt w)
  | 0x11 => some (.brevExt w)
  | 0x12 => some (.bfx w)
  | 0x13 => some (.bfi w)
  | 0x14 => some (.sel w)
  | 0x15 => some (.aadd w)
  | 0x16 => some (.idot4 w)
  | 0x40 => some (.faddExt w)
  | 0x41 => some (.fmulExt w)
  | 0x42 => some (.ffma w)
  | 0x43 => some (.fminExt w)
  | 0x44 => some (.fmaxExt w)
  | 0x45 => some (.fcls w)
  | 0x48 => some (.frcpExt w)
  | 0x49 => some (.frsqExt w)
  | 0x4A => some (.fsqrtExt w)
  | 0x4B => some (.fexp2Ext w)
  | 0x4C => some (.flog2Ext w)
  | 0x4D => some (.fsinExt w)
  | 0x4E => some (.fcosExt w)
  | 0x4F => some (.ftanhExt w)
  | 0x50 => some (.hadd2 w)
  | 0x51 => some (.hmul2 w)
  | 0x52 => some (.hfma2 w)
  | 0x53 => some (.hmin2 w)
  | 0x54 => some (.hmax2 w)
  | 0x58 => some (.fdot2 w)
  | 0x70 => some (.cvt w)
  | 0x71 => some (.pack w)
  | 0x72 => some (.unpack w)
  | 0x73 => some (.mxscale w)
  | 0x74 => some (.qnt w)
  | 0x80 => some (.icmp w)
  | 0x81 => some (.fcmp w)
  | 0x82 => some (.plogic w)
  | 0x83 => some (if w.h.mod = 1 then .pmovPut w else .pmovGet w)
  | 0x88 => some (.movExt w)
  | 0x89 => some (.movl w)
  | 0x8A => some (.movs w)
  | 0x90 => some (.bra w)
  | 0x91 => some (.brx w)
  | 0x92 => some (.call w)
  | 0x93 => some (.ret w)
  | 0x94 => some (.exitExt w)
  | 0x95 => some (.nopExt w)
  | 0x96 => some (.yieldExt w)
  | 0x97 => some (.trap w)
  | 0x98 => some (.eretExt w)
  | 0x99 => some (.rdsys w)
  | 0x9A => some (.wrsys w)
  | 0xA0 => some (.shfl w)
  | 0xA1 => some (.vote w)
  | 0xA2 => some (.matchLanes w)
  | 0xA3 => some (.redg w)
  | 0xA4 => some (.elect w)
  | 0xA5 => some (.prmt w)
  | 0xC3 => some (.hoopAcq w)
  | 0xC4 => some (.hoopWait w)
  | 0xC5 => some (.hoopRel w)
  | 0xC6 => some (.cp w)
  | 0xC7 => some (.cp2d w)
  | 0xC8 => some (.cpg w)
  | 0xC9 => some (.cps w)
  | 0xCA => some (.cpq w)
  | 0xCB => some (.bart w)
  | 0xCC => some (.barrArv w)
  | 0xCD => some (.barrWt w)
  | 0xCE => some (.fences w)
  | 0xCF => some (.waym w)
  | 0xD0 => some (.wbld w)
  | 0xD1 => some (.mloop w)
  | 0xD2 => some (.mstep w)
  | 0xD3 => some (.mwait w)
  | 0xD4 => some (.accrd w)
  | 0xD5 => some (.accwr w)
  | 0xD6 => some (.accclr w)
  | 0xD7 => some (if w.h.mod = 1 then .ohndClr w else .ohnd w)
  | 0xE0 => some (.nsend w)
  | 0xE1 => some (.nrecv w)
  | 0xE2 => some (.npoll w)
  | 0xE3 => some (.barc w)
  | 0xED => some (.phase w)
  | 0xF0 => some (.qpost w)
  | 0xF1 => some (.coll w)
  | 0xF2 => some (.collw w)
  | 0xF3 => some (.collc w)
  | _ => none

/-- The instruction of an opcode of the memory layout; MOD tells CWB and CINV apart (R61). -/
def buildM (op : Nat) (w : ExtM) : Option Instr :=
  match op with
  | 0xB0 => some (.ld w)
  | 0xB1 => some (.st w)
  | 0xB2 => some (.ldl w)
  | 0xB3 => some (.stl w)
  | 0xB4 => some (.ldc w)
  | 0xB5 => some (.pref w)
  | 0xC0 => some (.lds w)
  | 0xC1 => some (.sts w)
  | 0xC2 => some (.atoms w)
  | 0xE8 => some (.atom w)
  | 0xE9 => some (.red w)
  | 0xEA => some (.lr w)
  | 0xEB => some (.sc w)
  | 0xEC => some (.waitc w)
  | 0xEE => some (.disc w)
  | 0xEF => some (if w.h.mod = 1 then .cinv w else .cwb w)
  | _ => none

/-- Words of a form (R46). -/
def formWords (len : Nat) : Nat := [1, 3, 3, 5].getD len 1

/-- The instruction of an opcode, a form and the words, before the checks of 0x00B on literals, 0x002 and 0x003. -/
def buildWords (op len : Nat) (layout : Layout) (w0 w1 w2 w3 w4 : Word) : Option Instr :=
  match len, layout with
  | 0, _ => buildBase op (baseOf w0)
  | 1, _ => buildA op (baseLitOf w0 (litOf w1 w2))
  | 2, .arith => buildA op (extAOf .ext w0 w1 w2 0)
  | _, .arith => buildA op (extAOf .extLit w0 w1 w2 (litOf w3 w4))
  | _, .mem => buildM op (extMOf w0 w1 w2)

/-- The static checks that follow the form (R62): a literal that no operand names, reserved fields, operand codes. -/
def staticCheck (i : Instr) (form01B : Nat) (len : Nat) : Decoded :=
  match shapeOf i, fieldsOf i with
  | some sh, some f =>
    if !literalNamed f then .cause 0x00B 0
    else if form01B ≠ 0 || !Machine.reservedOk sh f then .cause 0x002 0
    else
      match illegalOperand i sh f with
      | some pos => .cause 0x003 pos
      | none => .instr i len
  | _, _ => .cause 0x001 0

/-- Decode the words from an instruction's address to the end of its line (R47, R62). -/
def decode (ws : List Word) : Decoded :=
  let w (k : Nat) : Word := ws.getD k 0
  let op := bitsOf (w 0) 9 2
  let len := bitsOf (w 0) 1 0
  match opRow op with
  | none => .cause 0x001 0
  | some r =>
    if ws.length < formWords len then .cause 0x001 0
    else if !r.forms.contains len then .cause 0x00B 0
    else
      match buildWords op len r.layout (w 0) (w 1) (w 2) (w 3) (w 4) with
      | some i => staticCheck i (if len = 1 then bitsOf (w 0) 31 26 else 0) (formWords len)
      | none => .cause 0x001 0

/-! ### The encoder -/

/-- The first word's common fields (R49). -/
def commonWord (op len : Nat) (y : Bool) (stall : BitVec 3) : Nat :=
  len + op * 2 ^ 2 + stall.toNat * 2 ^ 10 + (if y then 2 ^ 13 else 0)

/-- Word 0 of the extended form (R52). -/
def word0Of (op len : Nat) (h : Head) : Word :=
  BitVec.ofNat 32 (commonWord op len h.y h.stall + h.guard.toNat * 2 ^ 14 + (if h.gneg then 2 ^ 17 else 0)
    + h.sbset.toNat * 2 ^ 18 + h.wait.toNat * 2 ^ 22 + h.mod.toNat * 2 ^ 28)

/-- Word 1 of the extended form (R54). -/
def word1Of (h : Head) (dst a b : Operand) : Word :=
  BitVec.ofNat 32 (dst.code9 + a.code9 * 2 ^ 9 + b.code9 * 2 ^ 18 + (if h.deadA then 2 ^ 27 else 0)
    + (if h.deadB then 2 ^ 28 else 0) + (if h.deadC then 2 ^ 29 else 0) + h.mod2.toNat * 2 ^ 30)

/-- A base word (R50). -/
def baseWord (op len : Nat) (y : Bool) (stall : BitVec 3) (dst a : Operand) (b : Nat) : Word :=
  BitVec.ofNat 32 (commonWord op len y stall + dst.code6 * 2 ^ 14 + a.code6 * 2 ^ 20 + b * 2 ^ 26)

/-- The two words of a literal (R46). -/
def litWords (lit : DWord) : List Word := [BitVec.ofNat 32 lit.toNat, BitVec.ofNat 32 (lit.toNat / 2 ^ 32)]

/-- The words of an instruction of the arithmetic layout (R46, R55). -/
def encodeA (op : Nat) (w : ExtA) : List Word :=
  match w.form with
  | .baseLit => baseWord op 1 w.h.y w.h.stall w.dst w.a 0 :: litWords w.lit
  | .ext => [word0Of op 2 w.h, word1Of w.h w.dst w.a w.b, BitVec.ofNat 32 (w.c.code9 + w.spec.toNat * 2 ^ 9)]
  | .extLit =>
    [word0Of op 3 w.h, word1Of w.h w.dst w.a w.b, BitVec.ofNat 32 (w.c.code9 + w.spec.toNat * 2 ^ 9)] ++ litWords w.lit

/-- The words of an instruction of the memory layout (R55). -/
def encodeM (op : Nat) (w : ExtM) : List Word :=
  [word0Of op 2 w.h, word1Of w.h w.dst w.a w.b, BitVec.ofNat 32 (w.mmod.toNat + w.offset.toNat * 2 ^ 8)]

/-- The words of an instruction; an event has none. -/
def encode (i : Instr) : Option (List Word) :=
  match opOf i with
  | none => none
  | some op =>
    match i with
    | .iadd w | .isub w | .imul w | .imulhi w | .iabs w | .imin w | .imax w | .shl w | .shr w | .sar w
    | .rol w | .popc w | .clz w | .ctz w | .brev w | .fadd w | .fmul w | .fmin w | .fmax w | .frcp w
    | .frsq w | .fsqrt w | .fexp2 w | .flog2 w | .fsin w | .fcos w | .ftanh w | .mov w | .exit w | .nop w
    | .yield w | .eret w =>
      some [baseWord op 0 w.y w.stall w.dst w.a w.b.code6]
    | .iaddExt w | .isubExt w | .imulExt w | .imulhiExt w | .imad w | .imadw w | .iabsExt w | .iminExt w
    | .imaxExt w | .shlExt w | .shrExt w | .sarExt w | .rolExt w | .logic w | .popcExt w | .clzExt w
    | .ctzExt w | .brevExt w | .bfx w | .bfi w | .sel w | .aadd w | .idot4 w | .faddExt w | .fmulExt w
    | .ffma w | .fminExt w | .fmaxExt w | .fcls w | .frcpExt w | .frsqExt w | .fsqrtExt w | .fexp2Ext w
    | .flog2Ext w | .fsinExt w | .fcosExt w | .ftanhExt w | .hadd2 w | .hmul2 w | .hfma2 w | .hmin2 w
    | .hmax2 w | .fdot2 w | .cvt w | .pack w | .unpack w | .mxscale w | .qnt w | .icmp w | .fcmp w
    | .plogic w | .pmovGet w | .pmovPut w | .movExt w | .movl w | .movs w | .bra w | .brx w | .call w
    | .ret w | .exitExt w | .nopExt w | .yieldExt w | .trap w | .eretExt w | .rdsys w | .wrsys w | .shfl w
    | .vote w | .matchLanes w | .redg w | .elect w | .prmt w | .hoopAcq w | .hoopWait w | .hoopRel w | .cp w
    | .cp2d w | .cpg w | .cps w | .cpq w | .bart w | .barrArv w | .barrWt w | .fences w | .waym w | .wbld w
    | .mloop w | .mstep w | .mwait w | .accrd w | .accwr w | .accclr w | .ohnd w | .ohndClr w | .nsend w
    | .nrecv w | .npoll w | .barc w | .phase w | .qpost w | .coll w | .collw w | .collc w =>
      some (encodeA op w)
    | .ld w | .st w | .ldl w | .stl w | .ldc w | .pref w | .lds w | .sts w | .atoms w | .atom w | .red w
    | .lr w | .sc w | .waitc w | .disc w | .cwb w | .cinv w =>
      some (encodeM op w)
    | _ => none

/-! ### Bytes -/

/-- Little-endian words of bytes (R46). -/
def wordsOf : List Byte → List Word
  | a :: b :: c :: d :: rest => BitVec.ofNat 32 (a.toNat + b.toNat * 2 ^ 8 + c.toNat * 2 ^ 16 + d.toNat * 2 ^ 24) :: wordsOf rest
  | _ => []

/-- The little-endian bytes of a number. -/
def bytesOf (n : Nat) : Nat → List Byte
  | 0 => []
  | k + 1 => BitVec.ofNat 8 n :: bytesOf (n / 256) k

/-- The instruction that the decoder reads from an instruction whose bits are `w`, bit 0 the least significant bit of the
first word; bits at and above `nbits` are zero, up to the longest form of five words. -/
def decodeTableWord (nbits w : Nat) : Option Instr :=
  match decode (wordsOf (bytesOf (w % 2 ^ nbits) 20)) with
  | .instr i _ => some i
  | .cause _ _ => none

end Sys2Proof
end

