-- ==== Sys2Proof/Machine/Assoc.lean ====
section
/-!
DEFINITION. Operations on the containers of the state: sparse tables, byte memory in canonical form, lane vectors, masks,
and the bytes and nibbles of a 128-byte line.
-/

namespace Sys2Proof

/-! ### Sparse tables -/

/-- The value at a key, if any. -/
def NMap.get? {α : Type} (m : NMap α) (k : Nat) : Option α := m.lookup k

/-- The value at a key, or the default. -/
def NMap.getD {α : Type} (m : NMap α) (k : Nat) (d : α) : α := (m.lookup k).getD d

/-- Set the value at a key, keeping the keys rising. -/
def NMap.set {α : Type} (m : NMap α) (k : Nat) (x : α) : NMap α :=
  match m with
  | [] => [(k, x)]
  | (j, y) :: r => if k < j then (k, x) :: (j, y) :: r else if k = j then (k, x) :: r else (j, y) :: NMap.set r k x

/-- Remove a key. -/
def NMap.erase {α : Type} (m : NMap α) (k : Nat) : NMap α := m.filter fun e => e.1 != k

/-- Change the value at a key that is present. -/
def NMap.modify {α : Type} (m : NMap α) (k : Nat) (f : α → α) : NMap α :=
  m.map fun e => if e.1 = k then (e.1, f e.2) else e

/-- Change the value at a key, absent keys holding the default. -/
def NMap.update {α : Type} (m : NMap α) (k : Nat) (d : α) (f : α → α) : NMap α := m.set k (f (m.getD k d))

end Sys2Proof

namespace Sys2Proof.Machine

/-! ### Order -/

/-- Insert an element before the first that it does not come after. -/
def insertBy {α : Type} (le : α → α → Bool) (x : α) : List α → List α
  | [] => [x]
  | y :: r => if le x y then x :: y :: r else y :: insertBy le x r

/-- A list in an order; elements that the order does not tell apart stay as they stand. -/
def sortBy {α : Type} (le : α → α → Bool) : List α → List α
  | [] => []
  | x :: r => insertBy le x (sortBy le r)

/-! ### Byte memory -/

/-- What an unlisted address reads as.
DESIGN CHOICE, log 1: the spec gives memory no contents before it is written. -/
def unlisted : Byte := 0

/-- The byte at an address. -/
def Mem.read (m : Mem) (a : Nat) : Byte := (m.lookup a).getD unlisted

/-- Write a byte, keeping the canonical form: an entry equal to what an unlisted address reads as is removed. -/
def Mem.write (m : Mem) (a : Nat) (b : Byte) : Mem :=
  match m with
  | [] => if b = unlisted then [] else [(a, b)]
  | (j, y) :: r =>
    if a < j then (if b = unlisted then (j, y) :: r else (a, b) :: (j, y) :: r)
    else if a = j then (if b = unlisted then r else (a, b) :: r)
    else (j, y) :: Mem.write r a b

/-- `n` bytes from an address, as a little-endian number (R6). -/
def Mem.readN (m : Mem) (a : Nat) : Nat → Nat
  | 0 => 0
  | n + 1 => (m.read a).toNat + 256 * Mem.readN m (a + 1) n

/-- Write the low `n` bytes of a number, little-endian (R6). -/
def Mem.writeN (m : Mem) (a : Nat) : Nat → Nat → Mem
  | 0, _ => m
  | n + 1, x => Mem.writeN (m.write a (BitVec.ofNat 8 x)) (a + 1) n (x / 256)

/-- Write a list of bytes from an address. -/
def Mem.writeBytes (m : Mem) (a : Nat) (bs : List Byte) : Mem :=
  match bs with
  | [] => m
  | b :: r => Mem.writeBytes (m.write a b) (a + 1) r

/-- The bytes of an address range. -/
def Mem.bytes (m : Mem) (a n : Nat) : List Byte := (List.range n).map fun i => m.read (a + i)

/-- The cells of an address range. -/
def Mem.slice (m : Mem) (a n : Nat) : Mem := m.filter fun c => a ≤ c.1 && c.1 < a + n

/-- The memory without an address range: every byte of it reads as unlisted. -/
def Mem.clear (m : Mem) (a n : Nat) : Mem := m.filter fun c => !(a ≤ c.1 && c.1 < a + n)

/-- The canonical form: addresses strictly rising, no entry equal to what an unlisted address reads as. -/
def Memory.wf (m : Mem) : Bool :=
  match m with
  | [] => true
  | (a, b) :: r => b != unlisted && (match r with | [] => true | (a', _) :: _ => decide (a < a')) && Memory.wf r

/-- Bytes as a little-endian number (R6). -/
def leNat : List Byte → Nat
  | [] => 0
  | b :: r => b.toNat + 256 * leNat r

/-! ### Lines of 128 bytes -/

/-- Byte `i` of a line. -/
def lineByte (d : BitVec 1024) (i : Nat) : Byte := d.extractLsb' (8 * i) 8

/-- The mask of the nibbles of bytes `off` to `off + n - 1` (R147). -/
def nibbles (off n : Nat) : BitVec 256 := BitVec.ofNat 256 ((2 ^ (2 * n) - 1) * 2 ^ (2 * off))

/-- Spread a nibble mask over the bits of a line, nibble `n` downwards from the count given. -/
def spreadMask (mask : BitVec 256) : Nat → Nat → Nat
  | 0, acc => acc
  | n + 1, acc => spreadMask mask n (acc * 16 + if mask.getLsbD n then 15 else 0)

/-- The line with the nibbles of the mask taken from `new` (R147, R212). -/
def mergeNibbles (old new : BitVec 1024) (mask : BitVec 256) : BitVec 1024 :=
  if mask = 0 then old
  else
    let m := BitVec.ofNat 1024 (spreadMask mask 256 0)
    (old &&& ~~~m) ||| (new &&& m)

/-- A number placed at byte `off` of a line. -/
def atByte (off x : Nat) : BitVec 1024 := BitVec.ofNat 1024 (x * 2 ^ (8 * off))

/-- `n` bytes of a line from byte `off`, as a little-endian number. -/
def lineGet (d : BitVec 1024) (off n : Nat) : Nat := d.toNat / 2 ^ (8 * off) % 2 ^ (8 * n)

/-- The line of memory at a line number. -/
def Mem.line (m : Mem) (line : Nat) : BitVec 1024 :=
  (m.slice (128 * line) 128).foldl (fun acc c => acc ||| atByte (c.1 - 128 * line) c.2.toNat) 0

/-- Write the nibbles of a mask into a line of memory. -/
def Mem.writeLine (m : Mem) (line : Nat) (d : BitVec 1024) (mask : BitVec 256) : Mem :=
  let new := mergeNibbles (m.line line) d mask
  (List.range 128).foldl (fun acc i =>
    if mask.getLsbD (2 * i) || mask.getLsbD (2 * i + 1) then Mem.write acc (128 * line + i) (lineByte new i) else acc) m

/-! ### Lanes -/

/-- The lane numbers. -/
def lanes32 : List Nat := List.range 32

/-- The lanes of a mask, ascending (R9). -/
def Mask.list (m : Mask) : List Nat := lanes32.filter fun l => m.getLsbD l

/-- The lowest lane of a mask. -/
def Mask.lowest? (m : Mask) : Option Nat := (Mask.list m).head?

/-- The lowest lane of a mask; 0 when it is empty. -/
def Mask.lowest (m : Mask) : Nat := (Mask.lowest? m).getD 0

/-- The mask of the lanes that satisfy a test. -/
def maskOf (f : Nat → Bool) : Mask :=
  BitVec.ofNat 32 (lanes32.foldl (fun acc l => acc + if f l then 2 ^ l else 0) 0)

/-- A lane's word. -/
def LVec.at (v : LVec) (l : Nat) : Word := v.getD l 0

/-- A lane vector by lanes. -/
def LVec.tab (f : Nat → Word) : LVec := Vector.ofFn fun i => f i.val

/-- The lanes of the mask from `new`, the others from `old`. -/
def LVec.merge (old new : LVec) (m : Mask) : LVec :=
  LVec.tab fun l => if m.getLsbD l then LVec.at new l else LVec.at old l

/-- Zero in every lane. -/
def LVec.zero : LVec := Vector.replicate 32 0

/-! ### Serial comparison -/

/-- serial_ge (R67). -/
def serialGe (a b : Word) : Bool := !(a - b).msb

/-- serial_lt (R67). -/
def serialLt (a b : Word) : Bool := (a - b).msb

end Sys2Proof.Machine
end

