-- ==== Sys2Proof/Machine/Ops.lean ====
section
/-!
DEFINITION. The named operations over the state: access to groups, teams and units; the register levels and the landing
of results; run ends; splits, the path stack and the join table; taking an exception and returning from one; killing a
node and suspending a team.
-/

namespace Sys2Proof.Machine

/-! ### Access to units -/

def State.team? (s : State) (t : Nat) : Option Team := s.teams.get? t

def State.modTeam (s : State) (t : Nat) (f : Team → Team) : State := { s with teams := s.teams.modify t f }

def State.core (s : State) (c : Nat) : Core := s.cores.getD c {}

def State.modCore (s : State) (c : Nat) (f : Core → Core) : State := { s with cores := s.cores.update c {} f }

def State.cluster (s : State) (c : Nat) : Cluster := s.clusters.getD c {}

def State.modCluster (s : State) (c : Nat) (f : Cluster → Cluster) : State :=
  { s with clusters := s.clusters.update c {} f }

def State.part (s : State) (p : Nat) : Part := s.parts.getD p {}

def State.modPart (s : State) (p : Nat) (f : Part → Part) : State := { s with parts := s.parts.update p {} f }

def State.slice (s : State) (i : Nat) : Slice := s.slices.getD i {}

def State.modSlice (s : State) (i : Nat) (f : Slice → Slice) : State := { s with slices := s.slices.update i {} f }

def State.die (s : State) (d : Nat) : Die := s.dies.getD d {}

def State.modDie (s : State) (d : Nat) (f : Die → Die) : State := { s with dies := s.dies.update d {} f }

def State.node? (s : State) (n : Nat) : Option Node := s.nodes.get? n

def State.modNode (s : State) (n : Nat) (f : Node → Node) : State := { s with nodes := s.nodes.modify n f }

def Team.group? (t : Team) (i : Nat) : Option Group := t.groups[i]?

def Team.modGroup (t : Team) (i : Nat) (f : Group → Group) : Team := { t with groups := t.groups.modify i f }

def State.group? (s : State) (g : GRef) : Option Group :=
  match s.team? g.team with
  | some t => t.group? g.grp
  | none => none

def State.modGroup (s : State) (g : GRef) (f : Group → Group) : State :=
  s.modTeam g.team fun t => t.modGroup g.grp f

/-- What no group causes names this group. -/
def noGroup : GRef := { team := 2 ^ 64, grp := 0 }

/-- A fresh identity. -/
def State.fresh (s : State) : Nat × State := (s.nextId, { s with nextId := s.nextId + 1 })

/-- The core on which a team is resident. -/
def Team.core? (t : Team) : Option Nat :=
  match t.place with
  | .resident c => some c
  | _ => none

/-- The cluster of a core (R197): 21 × die + 7 × sector + cluster. -/
def clusterOf (core : Nat) : Nat := core / 8

/-- The die of a cluster. -/
def dieOf (cluster : Nat) : Nat := cluster / 21

/-- The sector of a cluster within its die. -/
def sectorOf (cluster : Nat) : Nat := cluster / 7 % 3

/-- The location byte of a cluster (R254). -/
def locByte (cluster : Nat) : Byte := BitVec.ofNat 8 (0x80 + cluster / 21 * 32 + cluster % 21)

/-! ### Group registers -/

def Group.split (g : Group) (slot : Nat) : Split := g.splits.getD slot {}

def Group.modSplit (g : Group) (slot : Nat) (f : Split → Split) : Group :=
  { g with splits := g.splits.update slot {} f }

def Group.vreg (g : Group) (n : Nat) : LVec := g.v.getD n LVec.zero

def Group.sreg (g : Group) (n : Nat) : Word := g.s.getD n 0

/-- Predicate n as a mask of lanes; p7 is always true (R52, R100). -/
def Group.preg (g : Group) (n : Nat) : Mask := if n = 7 then 0xFFFFFFFF else g.p.getD n 0

/-- Write a main-file register in the lanes of a mask; written lanes are no longer dead (R38). -/
def Group.setV (g : Group) (n : Nat) (m : Mask) (x : LVec) : Group :=
  { g with v := g.v.set n (LVec.merge (g.vreg n) x m)
           dead := if g.dead.get? n = none then g.dead else g.dead.modify n (· &&& ~~~m) }

def Group.setS (g : Group) (n : Nat) (x : Word) : Group := { g with s := g.s.set n x }

/-- A later-issued write of another split to a uniform register has taken effect (R13). -/
def Group.overtaken (g : Group) (slot iss n : Nat) : Bool :=
  [0, 1, 2, 3].any fun i => i != slot && decide (iss < g.swr.getD (4 * n + i) 0)

/-- The write of a uniform register by the split of a slot whose instruction issued in a cycle: the writes of different splits take
effect in the order of issue, so that nothing remains of one that a later-issued write of another split has overtaken (R13). -/
def Group.setSBy (g : Group) (slot iss n : Nat) (x : Word) : Group :=
  let g' := { g with swr := g.swr.update (4 * n + slot) 0 (max iss) }
  if g.overtaken slot iss n then g' else g'.setS n x

/-- Write a predicate in the lanes of a mask; a write of p7 is discarded (R100). -/
def Group.setP (g : Group) (n : Nat) (m bits : Mask) : Group :=
  if n = 7 then g else { g with p := g.p.set n ((g.preg n &&& ~~~m) ||| (bits &&& m)) }

/-- An upper-level entry after a write in the lanes of a mask: other lanes keep their content, or hold zero if the entry
was invalid (R34). -/
def upperWrite (old : Option LVec) (m : Mask) (x : LVec) : Option LVec := some (LVec.merge (old.getD LVec.zero) x m)

/-- A pending result becomes visible (R33, R34, R42). -/
def Group.land1 (g : Group) (w : PendWrite) : Group :=
  match w.loc with
  | .v n => g.setV n w.lanes w.val
  | .s n => g.setSBy w.slot w.iss n (LVec.at w.val (Mask.lowest w.lanes))
  | .oc n => { g with oc := g.oc.set n ((upperWrite (g.oc.get? n) w.lanes w.val).getD LVec.zero) }
  | .la => { g with la := upperWrite g.la w.lanes w.val }
  | .lb => { g with lb := upperWrite g.lb w.lanes w.val }
  | .p n => g.setP n w.lanes w.bits

/-- Results in the order in which they become visible: by cycle and, within one cycle, by issue.
DESIGN CHOICE, log 47: of two results to one location that become visible in one cycle, the one issued later stays. -/
def landOrder (ws : List PendWrite) : List PendWrite := sortBy (fun a b => a.at_ ≤ b.at_) ws

/-- Every result due by a cycle becomes visible (R13, R41, R42). -/
def Group.landDue (g : Group) (clk : Nat) : Group :=
  let due := g.pend.filter fun w => w.at_ ≤ clk
  if due.isEmpty then g
  else (landOrder due).foldl Group.land1 { g with pend := g.pend.filter fun w => !(w.at_ ≤ clk) }

/-- Every pending result becomes visible, in the order in which they would (R152). -/
def Group.landAll (g : Group) : Group := g.landDue (g.pend.foldl (fun n w => max n w.at_) 0)

def Loc.isUpper (l : Loc) : Bool :=
  match l with
  | .oc _ | .la | .lb => true
  | _ => false

/-! ### Splits, stacks and joins -/

/-- The next RUNNABLE split after the current one, wrapping round (R26). -/
def Group.nextSplit (g : Group) : Nat :=
  (([1, 2, 3, 4].map fun k => (g.cur + k) % 4).find? fun i => (g.split i).st == .runnable).getD g.cur

/-- A run end (R35, R36): upper levels become invalid, pending writes to them are discarded, the current split changes. -/
def Group.endRun (g : Group) : Group :=
  { g with la := none, lb := none, oc := [], pend := g.pend.filter (fun w => !w.loc.isUpper), runLen := 0, atEnd := true
           banked := none, cur := g.nextSplit }

/-- The group has a RUNNABLE split (R23). -/
def Group.ready (g : Group) : Bool := [0, 1, 2, 3].any fun i => (g.split i).st == .runnable

/-- The PARKED splits of a join entry. -/
def Group.parkedOf (g : Group) (e : Nat) : List Nat :=
  [0, 1, 2, 3].filter fun i => (g.split i).st == .parked && (g.split i).jrec.toNat == e

/-- Merge the splits of a complete join entry (R20): the lowest of their slots goes on at J, the others become FREE. The parking, EXIT or
ERET that completes the entry ends the run, once (R26, R35). -/
def Group.merge1 (g : Group) (e : Nat) : Group :=
  match g.joins.get? e with
  | none => g
  | some j =>
    if j.a ≠ j.m then g
    else
      let slots := g.parkedOf e
      let g := slots.foldl (fun g i => g.modSplit i fun _ => {}) g
      let g := match slots with
        | [] => g
        | low :: _ =>
          if j.a = 0 then g
          else g.modSplit low fun _ => { st := .runnable, pc := j.j, mask := j.a, jrec := j.parent }
      { g with joins := g.joins.erase e }

/-- Merge every complete join entry; none merges while a handler runs (R22). -/
def Group.mergeAll (g : Group) : Group :=
  if g.trap.handling.isSome then g else [0, 1, 2].foldl Group.merge1 g

/-- Take exited lanes out of every join entry and every RECONVERGE entry (R21). -/
def Group.dropExited (g : Group) (m : Mask) : Group :=
  { g with
    live := g.live &&& ~~~m
    joins := g.joins.map fun e => (e.1, { e.2 with m := e.2.m &&& ~~~m, a := e.2.a &&& ~~~m })
    splits := g.splits.map fun e => (e.1, { e.2 with stack := e.2.stack.map fun x =>
      match x with
      | .reconverge pc k => .reconverge pc (k &&& ~~~m)
      | x => x }) }

/-- A split whose mask is empty goes on with its stack, or its slot becomes FREE (R21). -/
def refill (sp : Split) : List StackEnt → Split
  | [] => {}
  | .path pc m _ :: r => { sp with pc, mask := m, stack := r }
  | .reconverge pc m :: r => if m = 0 then refill sp r else { sp with pc, mask := m, stack := r }

/-- The first test of R20 that matches for the current split, applied; none when no test matches. -/
def Group.test1 (g : Group) : Option Group :=
  let i := g.cur
  let sp := g.split i
  if sp.st ≠ .runnable then none
  else
    match sp.stack with
    | .path pc m join :: r =>
      if sp.pc = join then some (g.modSplit i fun sp => { sp with pc, mask := m, stack := r }) else none
    | .reconverge pc m :: r =>
      if sp.pc = pc then some (g.modSplit i fun sp => { sp with mask := m &&& g.live, stack := r }) else none
    | [] =>
      if sp.jrec = 3 then none
      else
        match g.joins.get? sp.jrec.toNat with
        | none => none
        | some j =>
          if sp.pc ≠ j.j then none
          else
            let g := { g with joins := g.joins.set sp.jrec.toNat { j with a := j.a ||| sp.mask } }
            some (g.modSplit i fun sp => { sp with st := .parked }).mergeAll

/-- The tests of R20 for the current split, repeated until none matches; none when none has matched. Every test pops one of at most 8
stack entries or parks the split, which three merges can set going again. -/
def Group.tests (g : Group) : Nat → Option Group
  | 0 => none
  | n + 1 =>
    match g.test1 with
    | none => none
    | some g' => some ((g'.tests n).getD g')

/-- The tests of R20 before an issue. Those that match for the current split end the run, and the tests go on with the split that is
current then (R26, R35). DEDUCED, log 68: tests that match one after another are one run end. -/
def Group.settle (g : Group) : Nat → Group
  | 0 => g
  | n + 1 =>
    match g.tests 64 with
    | none => g
    | some g' => g'.endRun.settle n

/-! ### Killing a node -/

/-- A cause delivered K (R5, R303): the node moves to KILLING with its cause; the event NODE_KILL does the rest. -/
def State.killNode (s : State) (n code : Nat) : State :=
  s.modNode n fun nd =>
    match nd.st with
    | .killing | .retired => nd
    | _ => { nd with st := .killing, cause := some code, sts := 3 }

/-! ### Taking an exception -/

/-- The entry into the trap handler (R28, R117): the trap state is written, the split's PC becomes TVEC, and the other
splits that are RUNNABLE or WAITING become HELD. -/
def Group.enterTrap (g : Group) (code : Nat) (einfo : DWord) : Group :=
  let slot := g.cur
  let sp := g.split slot
  let g := g.endRun
  let hold : Nat × Split → Nat × Split := fun e =>
    if e.1 = slot then e
    else
      match e.2.st with
      | .runnable | .waiting => (e.1, { e.2 with st := .held, pre := e.2.st })
      | _ => e
  { g with
    trap := { g.trap with ecause := BitVec.ofNat 32 code, epc := sp.pc.setWidth 64, emask := sp.mask
                          eslot := BitVec.ofNat 32 slot, einfo, handling := some slot, depth := sp.stack.length }
    splits := NMap.modify (g.splits.map hold) slot fun sp => { sp with pc := (g.trap.tvec &&& ~~~3#64).setWidth 56 }
    cur := slot }

/-- An H cause is delivered to the handler, or K when the trap vector is zero or a handler runs (R28). -/
def State.raiseH (s : State) (g : GRef) (code : Nat) (einfo : DWord) : State :=
  match s.group? g with
  | none => s
  | some gr =>
    if gr.trap.tvec = 0 || gr.trap.handling.isSome then
      let s := s.modGroup g fun gr => { gr.endRun with cur := gr.cur }
      match s.team? g.team with
      | some t => s.killNode t.node code
      | none => s
    else s.modGroup g fun gr => gr.enterTrap code einfo

/-- Causes delivered K to the node of the group that raises them (R154, R205, R248, R317, R355). -/
def causeIsK (code : Nat) : Bool :=
  [0x045, 0x046, 0x048, 0x053, 0x05F, 0x083, 0x084, 0x0C1, 0x0C2, 0x0C4, 0x104, 0x120, 0x121, 0x122, 0x123, 0x124, 0x140,
    0x144, 0x14F].contains code

/-- Deliver a cause raised by the current split of a group (R5, R28, R29). -/
def State.raise (s : State) (g : GRef) (code : Nat) (einfo : DWord) : State :=
  if causeIsK code then
    match s.team? g.team with
    | some t => (s.modGroup g fun gr => { gr.endRun with cur := gr.cur }).killNode t.node code
    | none => s
  else s.raiseH g code einfo

/-- Every outcome recorded while a split was HELD is written, and the split becomes RUNNABLE (R22). -/
def writeOutcome (g : Group) (slot : Nat) (sp : Split) (o : WaitOut) : Group :=
  match sp.wait with
  | none => g
  | some w =>
    let g := match w.pd with
      | some p => g.setP p.toNat w.lanes (if o.flag then w.lanes else 0)
      | none => g
    match w.dst with
    | .v n =>
      let g := g.setV n.toNat w.lanes o.lo
      if w.wide then g.setV (n.toNat + 1) w.lanes o.hi else g
    | .s n =>
      if w.lanes = 0 then g
      else
        let g := g.setSBy slot w.iss n.toNat (LVec.at o.lo (Mask.lowest w.lanes))
        if w.wide then g.setSBy slot w.iss (n.toNat + 1) (LVec.at o.hi (Mask.lowest w.lanes)) else g
    | _ => g

/-- A split's recorded outcome, if any, takes effect: its results are written and it becomes RUNNABLE. -/
def Group.applyOut (g : Group) (slot : Nat) : Group :=
  let sp := g.split slot
  match sp.out with
  | none => g
  | some o => (writeOutcome g slot sp o).modSplit slot fun sp => { sp with st := .runnable, wait := none, out := none }

/-- The end of a handler (R118, R22): entries pushed above the recorded DEPTH go, the handling split goes on at EPC with
EMASK less the exited lanes, the other splits take their states of before, and complete join entries merge. -/
def Group.endHandler (g : Group) (slot : Nat) : Group :=
  let emask : Mask := g.trap.emask &&& g.live
  let g := g.modSplit slot fun sp =>
    let stack := sp.stack.drop (sp.stack.length - g.trap.depth)
    let sp := { sp with pc := g.trap.epc.setWidth 56 &&& ~~~3#56, mask := emask, stack }
    if emask = 0 then refill sp stack else sp
  let g := { g with trap := { g.trap with handling := none } }
  let g := { g with splits := g.splits.map fun e =>
    if e.2.st = .held then (e.1, { e.2 with st := e.2.pre, pre := .free }) else e }
  ([0, 1, 2, 3].foldl Group.applyOut g).mergeAll

/-! ### Suspension -/

/-- A fault that suspends the team (R287): cause, access kind and deciding address. -/
structure PageFault where
  cause : Nat
  kind : Nat
  va : BitVec 56
  deriving DecidableEq, Repr

/-- The physical address of the frame handle of a team: the shadow region of its cluster's vault, by the team's identity.
DESIGN CHOICE, log 12: the spec gives the handle's 64 bits no form. -/
def frameHandle (cluster team : Nat) : DWord := BitVec.ofNat 64 (cluster * 2 ^ 31 + team)

/-- Queue a fault entry for posting (R287, R305). -/
def State.postFault (s : State) (p : Nat) (e : FaultEnt) : State :=
  s.modPart p fun pt => { pt with posts := pt.posts ++ [e] }

/-- The team is being saved since an earlier cycle, so that a group which arrives at an instruction that would fault does not issue it
(R287). -/
def Team.stops (t : Team) (clk : Nat) : Bool := t.saving.isSome && decide (t.stopAt ≤ clk)

/-- Suspend the team of a group whose access faulted (R287): an entry is posted and the team is to be saved. A group that still runs
while its team is being saved stops there, and posts nothing. -/
def State.suspend (s : State) (g : GRef) (f : PageFault) : State :=
  match s.team? g.team with
  | none => s
  | some t =>
    let cl := match t.core? with | some c => clusterOf c | none => 0
    let s := s.modGroup g fun gr => { gr.endRun with cur := gr.cur }
    if t.stops s.clk then s else
    let s := s.modTeam g.team fun t => { t with saving := some (t.saving.getD .fault), stopAt := if t.saving.isSome then t.stopAt else s.clk + 1 }
    s.postFault t.part
      { cause := f.cause, kind := f.kind, lid := t.lid, va := f.va.setWidth 64, team := BitVec.ofNat 32 t.num
        loc := locByte cl, record := 0, reason := 0, frame := frameHandle cl t.id, node := t.node, agent := .team t.id }

/-! ### Waits -/

/-- A wait of a split is satisfied (R22): the outcome is written and the split becomes RUNNABLE; while the split is HELD or
its team is not resident, the outcome is recorded. -/
def State.wake (s : State) (g : GRef) (slot : Nat) (o : WaitOut) : State :=
  match s.team? g.team with
  | none => s
  | some t =>
    s.modGroup g fun gr =>
      let gr := gr.modSplit slot fun sp => if sp.wait.isSome then { sp with out := some o } else sp
      if (gr.split slot).st = .waiting ∧ t.core?.isSome = true then
        let was := gr.ready
        let gr := gr.applyOut slot
        let gr := if was then gr else { gr with readySince := s.clk }
        if (gr.split gr.cur).st = .runnable then gr else { gr with cur := gr.nextSplit }
      else gr

/-- What the split of a slot waits for holds before it has registered anywhere: its results are written, and it has never been WAITING;
while it is HELD the outcome is recorded (R22, R243). -/
def State.answerWait (s : State) (g : GRef) (slot : Nat) (o : WaitOut) : State :=
  s.modGroup g fun gr =>
    let gr := gr.modSplit slot fun sp => if sp.wait.isSome then { sp with out := some o } else sp
    if (gr.split slot).st = .held then gr else gr.applyOut slot

/-- The split of a slot has registered what it waits for (R22): it is WAITING, or will be when it is HELD no more, and the group goes on
from another split. -/
def Group.asleep (g : Group) (slot : Nat) (w : Wait → Wait) : Group :=
  let g := g.modSplit slot fun sp =>
    { sp with wait := sp.wait.map w
              st := if sp.st = .runnable then .waiting else sp.st, pre := if sp.st = .held then .waiting else sp.pre }
  if (g.split g.cur).st = .runnable then g else { g with cur := g.nextSplit }

/-- A wait ends when the next cycle begins (R188, R203). -/
def State.wakeNext (s : State) (w : Waiter) (o : Option WaitOut) : State := { s with wakes := s.wakes ++ [(w, o)] }

/-- An outcome without a value. -/
def WaitOut.unit : WaitOut := { flag := true, lo := LVec.zero, hi := LVec.zero }

/-- An outcome with a flag and one word for every lane. -/
def WaitOut.word (flag : Bool) (w : Word) : WaitOut := { flag, lo := LVec.splat w, hi := LVec.zero }

end Sys2Proof.Machine
end

