-- ==== Sys2Proof/Machine/Arrive.lean ====
section
/-!
DEFINITION. Arrival at barriers of a team and of a cluster, and their completion
(spec/09_core_instructions.md R170, spec/12_cluster.md R204).
-/

namespace Sys2Proof.Machine

/-- Waiters of a completed barrier become RUNNABLE. -/
def State.wakeAll (s : State) (ws : List Waiter) : State := ws.foldl (fun s w => s.wake w.g w.slot WaitOut.unit) s

/-- The lanes that arrived cover a group's live lanes (R170). -/
def covers (lanes : NMap Mask) (i : Nat) (g : Group) : Bool := g.live &&& ~~~(lanes.getD i 0) == 0

/-- Lanes of a split arrive. -/
def arriveLanes (lanes : NMap Mask) (i : Nat) (m : Mask) : NMap Mask := lanes.update i 0 (· ||| m)

/-- Every group of the team with a live lane has arrived. -/
def allArrived (t : Team) (lanes : NMap Mask) : Bool :=
  t.groups.zipIdx.all fun x => x.1.live == 0 || covers lanes x.2 x.1

/-- The next generation of a barrier. -/
def Bar.nextGen (b : Bar) : Bar := { gen := b.gen + 1 }

/-! ### BART -/

/-- BART completes when every group with a live lane has arrived: progress counts reset, waiters go on (R141, R170). -/
def State.bartCheck (s : State) (t : Nat) : State :=
  match s.team? t with
  | none => s
  | some tm =>
    if !tm.bart.lanes.isEmpty && allArrived tm tm.bart.lanes then
      let s := s.modTeam t fun tm =>
        { tm with bart := tm.bart.nextGen, groups := tm.groups.map fun g => { g with progress := 0 } }
      s.wakeAll tm.bart.waiters
    else s

/-! ### Role barriers -/

/-- Groups whose arrival is now complete are counted as arrived; the n of the first one counts (R170). -/
def roleArrivals (tm : Team) (b : Bar) : Bar :=
  let now := (tm.groups.zipIdx.filter fun x =>
    (b.lanes.get? x.2).isSome && !b.arrived.contains x.2 && covers b.lanes x.2 x.1).map (·.2)
  { b with arrived := b.arrived ++ now, first := b.first.or (now.head?.bind b.counts.get?) }

/-- Role barrier k completes when the arrived groups reach the first n: progress counts of their roles reset (R170). -/
def State.barrCheck (s : State) (t k : Nat) : State :=
  match s.team? t with
  | none => s
  | some tm =>
    match tm.barr.get? k with
    | none => s
    | some b =>
      let b := roleArrivals tm b
      if b.first = some b.arrived.length then
        let roles := b.arrived.filterMap fun i => (tm.groups[i]?).map Group.role
        let s := s.modTeam t fun tm =>
          { tm with
            barr := tm.barr.set k b.nextGen
            groups := tm.groups.map fun g => if roles.contains g.role then { g with progress := 0 } else g }
        s.wakeAll b.waiters
      else s.modTeam t fun tm => { tm with barr := tm.barr.set k b }

/-! ### Cluster barriers -/

def State.modBar (s : State) (cluster k : Nat) (f : CBar → CBar) : State :=
  s.modCluster cluster fun c => { c with links := { c.links with bars := c.links.bars.update k {} f } }

/-- A cluster barrier after new arrivals of a team: the team arrives when all its live groups have, and the generation
completes at the n of its first arrival (R204). -/
def State.barcCheck (s : State) (cluster k t : Nat) : State :=
  let b := (s.cluster cluster).links.bars.getD k {}
  match s.team? t, b.lanes.get? t with
  | some tm, some lanes =>
    if !b.arrived.contains t && allArrived tm lanes then
      let arrived := b.arrived ++ [t]
      let first := b.first.or (b.counts.get? t)
      if first = some arrived.length then
        let s := s.modBar cluster k fun b => { gen := b.gen + 1 }
        s.wakeAll b.waiters
      else s.modBar cluster k fun b => { b with arrived, first }
    else s
  | _, _ => s

/-- Barriers are evaluated again when lanes of a team have exited (R170, R204). -/
def State.recheckBars (s : State) (t : Nat) : State :=
  let s := s.bartCheck t
  let s := (List.range 8).foldl (fun s k => s.barrCheck t k) s
  match (s.team? t).bind Team.core? with
  | some c => [0, 1, 2, 3].foldl (fun s k => s.barcCheck (clusterOf c) k t) s
  | none => s

end Sys2Proof.Machine
end

