-- ==== Sys2Proof/Machine/Operands.lean ====
section
/-!
DEFINITION. Reading operands: the context of an issued instruction, its executing lanes, every kind of source of R57 and
R58, addresses of R59, and the registers that an operand names.
-/

namespace Sys2Proof.Machine

/-- An issued instruction: the group, where it runs, its registers at issue, its fields, and its executing lanes.
`g` is read before dead values take effect (R38). -/
structure Ctx where
  ref : GRef
  team : Team
  core : Nat
  g : Group
  clk : Nat
  f : Fields
  sh : Shape
  lit : DWord
  /-- The two words of a constant-window operand (R58). -/
  cw : DWord
  /-- The split's active mask. -/
  act : Mask
  /-- The executing lanes (R53). -/
  ex : Mask

def Ctx.cluster (x : Ctx) : Nat := clusterOf x.core

def Ctx.slot (x : Ctx) : Nat := x.g.cur

def Ctx.pc (x : Ctx) : BitVec 56 := (x.g.split x.slot).pc

/-- The guard of R53, as a mask of lanes. -/
def guardMask (g : Group) (h : Head) : Mask :=
  let p := g.preg h.guard.toNat
  if h.guard = 7 then 0xFFFFFFFF else if h.gneg then ~~~p else p

/-- Bytes of an instruction of a form (R46). -/
def formBytes (form : Option Form) : Nat :=
  match form with
  | none => 4
  | some .baseLit | some .ext => 12
  | some .extLit => 20

/-- The address of the next instruction. -/
def Ctx.next (x : Ctx) : BitVec 56 := x.pc + BitVec.ofNat 56 (formBytes x.f.form)

/-- A small immediate sign-extended. -/
def immInt (k : BitVec 7) : Int := k.toInt

/-- The kind of a 32-bit source (R57). -/
inductive Kind where
  | int | f32 | half (fp16 : Bool)
  deriving DecidableEq, Repr

/-- A small immediate as a 32-bit source of a kind (R57). -/
def immWord (k : Kind) (i : BitVec 7) : Word :=
  let v := immInt i
  match k with
  | .int => BitVec.ofInt 32 v
  | .f32 => BitVec.ofNat 32 (fp32.round .rne false 0 (.num (decide (v < 0)) v.natAbs 0))
  | .half true => BitVec.ofNat 32 (fp16.round .rne false 0 (.num (decide (v < 0)) v.natAbs 0) * 0x10001)
  | .half false => BitVec.ofNat 32 (bf16.round .rne false 0 (.num (decide (v < 0)) v.natAbs 0) * 0x10001)

/-- A 32-bit source, lane by lane (R57, R58). -/
def Ctx.src (x : Ctx) (k : Kind) (o : Operand) : LVec :=
  match o with
  | .v n => x.g.vreg n.toNat
  | .oc n => x.g.oc.getD n.toNat LVec.zero
  | .la => x.g.la.getD LVec.zero
  | .lb => x.g.lb.getD LVec.zero
  | .s n => LVec.splat (x.g.sreg n.toNat)
  | .zero | .bad _ => LVec.zero
  | .lit => LVec.splat (x.lit.setWidth 32)
  | .cwin => LVec.splat (x.cw.setWidth 32)
  | .imm i => LVec.splat (immWord k i)

/-- Two words as a 64-bit value, low word first (R56). -/
def pair (lo hi : Word) : DWord := hi ++ lo

/-- A 64-bit source in a lane (R57, R58, R91). -/
def Ctx.src64 (x : Ctx) (o : Operand) (l : Nat) : DWord :=
  match o with
  | .v n => pair (LVec.at (x.g.vreg n.toNat) l) (LVec.at (x.g.vreg (n.toNat + 1)) l)
  | .s n => pair (x.g.sreg n.toNat) (x.g.sreg (n.toNat + 1))
  | .lit => x.lit
  | .cwin => x.cw
  | .imm i => BitVec.ofInt 64 (immInt i)
  | _ => 0

/-- Register i of a source of several registers, in a lane. -/
def Ctx.srcReg (x : Ctx) (o : Operand) (i l : Nat) : Word :=
  match o with
  | .v n => LVec.at (x.g.vreg (n.toNat + i)) l
  | .s n => x.g.sreg (n.toNat + i)
  | .imm k => if i = 0 then BitVec.ofInt 32 (immInt k) else BitVec.ofInt 32 (immInt k / 2 ^ 32)
  | _ => 0

/-- `n` registers of a source in a lane, as a little-endian number (R126). -/
def Ctx.srcData (x : Ctx) (o : Operand) (l : Nat) : Nat → Nat
  | 0 => 0
  | n + 1 => Ctx.srcData x o l n + (x.srcReg o n l).toNat * 2 ^ (32 * n)

/-- The kind under which a handler reads its B register (R57, R240). -/
def hndKind (hnd : Nat) : Kind :=
  if [3, 10, 11].contains hnd then .f32 else if hnd = 4 then .half false else if hnd = 5 then .half true else .int

/-- The `n` B registers of a handler in a lane, as a little-endian number; a small immediate takes the kind of the handler (R57, R238). -/
def Ctx.hndSrc (x : Ctx) (hnd n : Nat) (o : Operand) (l : Nat) : Nat :=
  if n = 1 then (LVec.at (x.src (hndKind hnd) o) l).toNat else x.srcData o l n

/-- A source of one value for the group, as an s register, Zero or a small immediate, is the same in every lane. -/
def Ctx.uni (x : Ctx) (o : Operand) : Word := LVec.at (x.src .int o) 0

/-- The value of a source in the lowest executing lane (R53). -/
def Ctx.low (x : Ctx) (o : Operand) : Word := LVec.at (x.src .int o) (Mask.lowest x.ex)

/-- The effective address of a lane under address kind 00 (R59). -/
def Ctx.ea (x : Ctx) (a : Operand) (offset : BitVec 24) (l : Nat) : BitVec 56 :=
  (x.src64 a l).setWidth 56 + offset.signExtend 56

/-- The offset of a lane under address kind 01, before any range check (R59, R157). -/
def Ctx.scratchOff (x : Ctx) (a : Operand) (offset : BitVec 24) (l : Nat) : Nat :=
  (LVec.at (x.src .int a) l + offset.signExtend 32).toNat

/-! ### Registers that operands name -/

/-- The locations of `n` registers from an operand. -/
def locsOf (o : Operand) (n : Nat) : List Loc :=
  match o with
  | .v r => (List.range n).map fun i => .v (r.toNat + i)
  | .s r => (List.range n).map fun i => .s (r.toNat + i)
  | .oc r => [.oc r.toNat]
  | .la => [.la]
  | .lb => [.lb]
  | _ => []

/-- The source positions that an instruction uses, with what they read: position, operand, registers. -/
def sources (sh : Shape) (f : Fields) : List (Nat × Operand × Nat) :=
  (match sh.a with | some u => [(1, f.a, u.n)] | none => [])
  ++ (match sh.b with | some u => [(2, f.b, u.n)] | none => [])
  ++ (match sh.c with | some u => [(3, f.c, u.n)] | none => [])

/-- The locations that the destination names; Zero of a port operation is its latch (R33). -/
def destLocs (sh : Shape) (f : Fields) : List Loc :=
  match sh.dst with
  | some u =>
    if f.dst = .zero then (if u.latchA then [.la] else if u.latchB then [.lb] else [])
    else locsOf f.dst u.n
  | none => []

/-- An operand of `n` registers reaches beyond the allotment (R14). -/
def beyond (N : Nat) (o : Operand) (n : Nat) : Bool :=
  match o with
  | .v r => decide (N < r.toNat + n)
  | _ => false

/-- The position at which 0x00D is raised: the destination first, then the sources (R14, R43).
The order of positions is DEDUCED, log 10. -/
def unallotted (N : Nat) (sh : Shape) (f : Fields) : Option Nat :=
  match sh.dst with
  | some u => if beyond N f.dst u.n then some 0 else ((sources sh f).find? fun x => beyond N x.2.1 x.2.2).map (·.1)
  | none => ((sources sh f).find? fun x => beyond N x.2.1 x.2.2).map (·.1)

/-- A source names an invalid latch or operand-cache entry (R34). -/
def stale (g : Group) (o : Operand) : Bool :=
  match o with
  | .la => g.la.isNone
  | .lb => g.lb.isNone
  | .oc n => (g.oc.get? n.toNat).isNone
  | _ => false

/-- The position at which 0x004 is raised. -/
def staleAt (g : Group) (sh : Shape) (f : Fields) : Option Nat :=
  ((sources sh f).find? fun x => stale g x.2.1).map (·.1)

/-- The main-file registers that an instruction reads, each once (R40). -/
def readRegs (sh : Shape) (f : Fields) : List Nat :=
  ((sources sh f).flatMap fun x => match x.2.1 with | .v r => (List.range x.2.2).map (r.toNat + ·) | _ => []).eraseDups

/-- The bank delay (R40). -/
def bankDelay (sh : Shape) (f : Fields) : Nat :=
  let rs := readRegs sh f
  ([0, 1, 2, 3].map fun b => (rs.filter fun r => r % 4 == b).length - 1).foldl max 0

/-! ### Dead values -/

/-- The registers that die with an instruction (R38). -/
def deadOf (sh : Shape) (f : Fields) : List Loc :=
  (if f.h.deadA then match sh.a with | some u => locsOf f.a u.n | none => [] else [])
  ++ (if f.h.deadB then match sh.b with | some u => locsOf f.b u.n | none => [] else [])
  ++ (if f.h.deadC then match sh.c with | some u => locsOf f.c u.n | none => [] else [])

/-- A location dies: a register reads as zero in the active lanes, an upper entry becomes invalid (R38, R39). -/
def Group.kill1 (act : Mask) (g : Group) (l : Loc) : Group :=
  match l with
  | .v n => { g with v := g.v.set n (LVec.merge (g.vreg n) LVec.zero act), dead := g.dead.set n (g.dead.getD n 0 ||| act) }
  | .oc n => { g with oc := g.oc.erase n }
  | .la => { g with la := none }
  | .lb => { g with lb := none }
  | _ => g

/-- The dead values of an instruction take effect. -/
def Group.killDead (g : Group) (act : Mask) (sh : Shape) (f : Fields) : Group :=
  (deadOf sh f).foldl (Group.kill1 act) g

end Sys2Proof.Machine
end

