-- ==== Sys2Proof/Machine/Flags.lean ====
section
/-!
DEFINITION. Predicates: the conditions of compares, their combination, classes of FP32 values, and predicates as values.
-/

namespace Sys2Proof.Machine

/-- The conditions of ICMP on two words, signed or unsigned (R100). -/
def icmpCond (cond : Nat) (unsigned : Bool) (a b : Word) : Bool :=
  let lt := if unsigned then BitVec.ult a b else BitVec.slt a b
  match cond with
  | 0 => a == b
  | 1 => a != b
  | 2 => lt
  | 3 => lt || a == b
  | 4 => !(lt || a == b)
  | _ => !lt

/-- The conditions of FCMP on two values (R100). -/
def fcmpCond (cond : Nat) (a b : Val) : Bool :=
  let nan := a.isNan || b.isNan
  match cond with
  | 0 => !nan && a.eq b
  | 1 => nan || !a.eq b
  | 2 => !nan && a.lt b
  | 3 => !nan && (a.lt b || a.eq b)
  | 4 => !nan && b.lt a
  | 5 => !nan && (b.lt a || a.eq b)
  | 6 => !nan
  | _ => nan

/-- A predicate in a lane, inverted or not. -/
def predAt (g : Group) (n : Nat) (inv : Bool) (l : Nat) : Bool := (g.preg n).getLsbD l != inv

/-- COMB of ICMP and FCMP (R100). -/
def combine (comb : Nat) (t q : Bool) : Bool :=
  match comb with
  | 0 => t
  | 1 => t && q
  | 2 => t || q
  | _ => t != q

/-- The predicate result of a compare: SPEC holds COMB [17:16], PCN [15], PC [14:12] (R100). -/
def cmpResult (x : Ctx) (w : ExtA) (t : Nat → Bool) : Mask :=
  maskOf fun l => combine (w.f 17 16) (t l) (predAt x.g (w.f 14 12) (w.f 15 15 == 1) l)

/-- The class of an FP32 code, as its bit number (R96). -/
def fclass (a : Word) : Nat :=
  let mag := a.toNat % 2 ^ 31
  let neg := a.msb
  if 0x7F800000 < mag then 8
  else if mag = 0x7F800000 then (if neg then 0 else 7)
  else if 0x00800000 ≤ mag then (if neg then 1 else 6)
  else if mag ≠ 0 then (if neg then 2 else 5)
  else (if neg then 3 else 4)

/-- The predicates p0 to p6 of a lane as PMOV reads them, bit 7 set (R102). -/
def predBits (g : Group) (l : Nat) : Word :=
  BitVec.ofNat 32 (0x80 + ((List.range 7).map fun i => if (g.preg i).getLsbD l then 2 ^ i else 0).sum)

end Sys2Proof.Machine
end

