-- ==== Sys2Proof/Machine/Wire.lean ====
section
/-!
DEFINITION. The sending side of the links (spec/21_package_links_control.md R320–R322; spec/22_fabric.md R331–R337;
spec/13_die_memory_system.md R207): CRC and flits, messages between dies over UCIe modules, flits and credits of Yunambi ports,
planes, and the source side of remote streams.
-/

namespace Sys2Proof

/-! ### Channels -/

/-- A channel as a number. -/
def Chan.code (c : Chan) : Nat :=
  match c with
  | .req => 0
  | .atom => 1
  | .coll => 2

/-- VC of a stream's packets (R331). -/
def Chan.vc (c : Chan) : Nat :=
  match c with
  | .req => 0
  | .atom => 2
  | .coll => 3

/-- The channel of an operation (R332, R336). -/
def RemOp.chan (o : RemOp) : Chan :=
  match o with
  | .load | .store _ _ => .req
  | .atom _ _ _ => .atom
  | .message _ => .coll

/-- The channel whose packets to a line hold those of a channel (R336). -/
def Chan.other (c : Chan) : Option Chan :=
  match c with
  | .req => some .atom
  | .atom => some .req
  | .coll => none

end Sys2Proof

namespace Sys2Proof.Config

/-- The 244 bytes in which messages between dies travel (R320): the spec gives ring messages no format.
A free value, log 61. -/
opaque ringBytes : List Machine.Crossing → BitVec 1952

/-- How many more of the messages that wait, at most, the next flit carries behind the first (R320): the spec gives ring messages no
sizes.
A free value, log 61. -/
opaque ringMore : List Machine.Crossing → Nat

end Sys2Proof.Config

namespace Sys2Proof.Machine

/-! ### Flits -/

/-- One bit of the CRC: the register shifts left, and the polynomial of ECMA-182 is added where a one leaves (R320). -/
def crcBit (c : DWord) : DWord := if c.msb then (c <<< 1) ^^^ 0x42F0E1EBA9EA3693#64 else c <<< 1

/-- One byte, from bit 7 down. -/
def crcByte (c : DWord) (b : Byte) : DWord :=
  crcBit (crcBit (crcBit (crcBit (crcBit (crcBit (crcBit (crcBit (c ^^^ (b.setWidth 64 <<< 56)))))))))

/-- CRC-64/WE (R320). -/
def crc64 (bs : List Byte) : DWord := bs.foldl crcByte (BitVec.allOnes 64) ^^^ BitVec.allOnes 64

/-- A flit of 256 bytes carries the CRC of its first 248 (R320, R331). -/
def crcOk (f : List Byte) : Bool := f.length == 256 && BitVec.ofNat 64 (leNat (f.drop 248)) == crc64 (f.take 248)

/-- `n` bytes of a number, little-endian (R6). -/
def leBytes (n x : Nat) : List Byte := (List.range n).map fun i => BitVec.ofNat 8 (x / 256 ^ i)

/-- 248 bytes with their CRC (R320, R331). -/
def sealFlit (body : List Byte) : List Byte := body ++ leBytes 8 (crc64 body).toNat

/-- KIND of a flit's header (R320, R331). -/
def flitKind (f : List Byte) : Nat := leNat (f.take 1) % 16

/-- A flit of a UCIe module (R320). -/
def ucieFlit (kind : Nat) (seq ack : Byte) (pay : Nat) : List Byte :=
  sealFlit ([BitVec.ofNat 8 kind, seq, ack, 0] ++ leBytes 244 pay)

/-- A flit of a Yunambi link (R331). -/
def fabFlit (kind vc cvc crd : Nat) (seq ack : BitVec 12) (pay : BitVec 1920) : List Byte :=
  sealFlit (leBytes 8 (kind + vc * 2 ^ 4 + cvc * 2 ^ 6 + crd * 2 ^ 8 + seq.toNat * 2 ^ 20 + ack.toNat * 2 ^ 32)
    ++ leBytes 240 pay.toNat)

/-! ### Modules between dies -/

/-- A direction of a module as a number. -/
def ucieKey (m : UcieRef) : Nat := 32 * m.edge + 2 * m.module + (if m.down then 1 else 0)

def State.ucieAt (s : State) (m : UcieRef) : Ucie := s.ucie.getD (ucieKey m) {}

def State.modUcie (s : State) (m : UcieRef) (f : Ucie → Ucie) : State := { s with ucie := s.ucie.update (ucieKey m) {} f }

/-- The other direction of the module. -/
def otherWay (m : UcieRef) : UcieRef := { m with down := !m.down }

/-- The ACK that a flit of a direction carries: the last flit accepted in order from the other direction (R320). -/
def State.ucieAck (s : State) (m : UcieRef) : Byte := (s.ucieAt (otherWay m)).exp - 1

/-- A flit leaves on a direction. -/
def State.ucieEmit (s : State) (m : UcieRef) (kind : Nat) (seq : Byte) (pay : Nat) : State :=
  let ack := s.ucieAck m
  s.modUcie m fun u => { u with wire := u.wire ++ [ucieFlit kind seq ack pay] }

/-- A payload flit, sent or sent again. -/
def State.uciePayload (s : State) (m : UcieRef) (x : Byte × List Crossing) : State := s.ucieEmit m 1 x.1 (Config.ringBytes x.2).toNat

/-- The messages that the next flit takes from those that wait, in send order: one at least (R320). -/
def nextPack (waiting : List Crossing) : List Crossing := waiting.take (1 + Config.ringMore waiting)

/-- Messages that wait go out, packed, with the next SEQs while fewer than 64 flits are unacknowledged and the module runs
(R320, R321). -/
def State.ucieDrain (s : State) (m : UcieRef) : Nat → State
  | 0 => s
  | n + 1 =>
    let u := s.ucieAt m
    if u.waiting.isEmpty ∨ 64 ≤ u.replay.length ∨ u.lanes = 0 then s
    else
      let x := nextPack u.waiting
      let s := s.modUcie m fun u =>
        { u with waiting := u.waiting.drop x.length, seq := u.seq + 1, replay := u.replay ++ [(u.seq, x)]
                 progressAt := if u.replay.isEmpty then s.ptp else u.progressAt }
      (s.uciePayload m (u.seq, x)).ucieDrain m n

/-- A message goes out on a direction, behind those that wait. -/
def State.ucieSend (s : State) (m : UcieRef) (x : Crossing) : State :=
  (s.modUcie m fun u => { u with waiting := u.waiting ++ [x] }).ucieDrain m 64

/-- The edge that a message crosses next, and the die beyond it: the horizontal edge first (R207). -/
def nextHop (here to_ : Nat) : Nat × Nat := if here % 2 ≠ to_ % 2 then (here / 2, here ^^^ 1) else (2 + here % 2, here ^^^ 2)

/-- The module of an edge to which a pair of ports is mapped, or the one that has taken over its pairs (R322). -/
def State.moduleFor (s : State) (edge : Nat) (pair : Nat × Nat) : Nat :=
  let k := Config.moduleOf edge pair.1 pair.2 % 16
  s.remaps.getD (16 * edge + k) k

/-- A message leaves a die towards its destination. -/
def State.hop (s : State) (here : Nat) (x : Crossing) : State :=
  let (edge, next) := nextHop here x.to_
  s.ucieSend { edge, module := s.moduleFor edge x.pair, down := decide (next < here) } x

/-! ### Operations whose answers come back -/

def State.modOut (s : State) (id : Nat) (f : Outst → Outst) : State := { s with outst := s.outst.modify id f }

def Outst.modPiece (o : Outst) (k : Nat) (f : Piece → Piece) : Outst := { o with pieces := o.pieces.modify k f }

/-- A piece is over: it has landed, and its answer has come. -/
def Piece.ended (p : Piece) : Bool := p.landed && !p.away

/-- An operation whose pieces are all over ends: its slot's count falls (R44). -/
def State.endOut (s : State) (id : Nat) : State :=
  match s.outst.get? id with
  | none => s
  | some o =>
    if o.pieces.all Piece.ended then
      let s := { s with outst := s.outst.erase id }
      match o.sb with
      | some k => s.modGroup o.g fun g => { g with sb := g.sb.update k 0 (· - 1) }
      | none => s
    else s

/-- A piece lands. -/
def State.landPiece (s : State) (id k : Nat) : State :=
  (s.modOut id fun o => o.modPiece k fun p => { p with landed := true }).endOut id

/-- A piece ends without its answer. -/
def State.forcePiece (s : State) (id k : Nat) : State :=
  (s.modOut id fun o => o.modPiece k fun p => { p with landed := true, away := false }).endOut id

/-- A holder bit is cleared at the home (R216, R217). -/
def Slice.clearHolder (sl : Slice) (line bit : Nat) : Slice :=
  let hv := sl.holders.getD line 0 &&& ~~~(1#12 <<< bit)
  { sl with
    holders := if hv = 0 then sl.holders.erase line else sl.holders.set line hv
    held := sl.held.map fun x => if x.line = line then { x with awaiting := x.awaiting &&& ~~~(1#12 <<< bit) } else x }

/-- The agent whose turn it is knows of it. -/
def Slice.tellTurn (sl : Slice) (line : Nat) (a : Agent) (clk : Nat) : Slice :=
  { sl with held := sl.held.map fun x =>
      if x.line = line ∧ (x.owner.map (·.1)) = some a then { x with owner := some (a, clk), told := true } else x }

/-- A message has reached the die of its destination. A write-back of which a shakeout has dropped the operation is gone. -/
def State.deliver (s : State) (m : RingMsg) : State :=
  match m with
  | .req slice r =>
    match r.body with
    | .write _ _ true => if (s.outst.get? r.op).isSome then { s with net := s.net ++ [(slice, r)] } else s
    | _ => { s with net := s.net ++ [(slice, r)] }
  | .rsp op piece _ _ => (s.modOut op fun o => o.modPiece piece fun p => { p with away := false }).endOut op
  | .grant slice set l => s.modSlice slice fun sl => { sl with arrivals := sl.arrivals ++ [(set, l)] }
  | .inval line holder => { s with invals := s.invals ++ [(line, holder)] }
  | .ack slice line holder => s.modSlice slice fun sl => sl.clearHolder line holder
  | .drop line holder => { s with drops := s.drops ++ [(line, holder)] }
  | .turn slice line a => s.modSlice slice fun sl => sl.tellTurn line a s.clk
  | .fly f => { s with fly := s.fly ++ [f] }

/-- A message sets out: within its die it needs no module (R206, R207). -/
def State.launch (s : State) (x : Crossing) : State := if x.from_ = x.to_ then s.deliver x.msg else s.hop x.from_ x

/-- Messages of flits that the receiver of a direction has not accepted yet, and those that wait. -/
def Ucie.undelivered (u : Ucie) : List Crossing :=
  ((u.replay.filter fun x => decide (0 ≤ (x.1 - u.exp).toInt)).flatMap (·.2)) ++ u.waiting

/-- Messages between dies on their way, the older of a path first: those past the horizontal edge before those short of it. -/
def State.crossings (s : State) : List Crossing := s.ucie.reverse.flatMap fun e => e.2.undelivered

/-- Requests on their way to a slice, the older first. -/
def State.reqsTo (s : State) (slice : Nat) : List Req :=
  ((s.net.filter fun x => x.1 == slice).map (·.2))
  ++ s.crossings.filterMap fun x => match x.msg with | .req i r => if i = slice then some r else none | _ => none

/-- The die of a slice (R272). -/
def dieOfSlice (slice : Nat) : Nat := slice / 66

/-- The port from which a source's requests set out: a number of its own, and its die. -/
def srcPort (src : Src) (dest : Nat) : Nat × Nat :=
  match src with
  | .core c => (c, dieOf (clusterOf c))
  | .fabric => (2000, dieOfSlice dest)

/-- A request sets out to a slice (R207). -/
def State.toSlice (s : State) (slice : Nat) (r : Req) : State :=
  let (port, die) := srcPort r.src slice
  s.launch { from_ := die, to_ := dieOfSlice slice, pair := (port, slice), msg := .req slice r }

/-- A message between the home of a line and the holder of a replica sets out (R215–R217). -/
def State.toHolder (s : State) (home holder : Nat) (msg : RingMsg) (back : Bool) : State :=
  let a := dieOfSlice home
  let b := holder / 3
  if back then s.launch { from_ := b, to_ := a, pair := (3000 + holder, home), msg }
  else s.launch { from_ := a, to_ := b, pair := (3000 + home, holder), msg }

/-- The answer to a core's request is to cross from the slice to the core's die (R321). -/
def crossesBack (slice : Nat) (src : Src) : Bool :=
  match src with
  | .core c => dieOf (clusterOf c) != dieOfSlice slice
  | .fabric => false

/-- The request is about to be answered: the answer has a way to go if it crosses dies. -/
def State.expectAnswer (s : State) (slice : Nat) (r : Req) : State :=
  if crossesBack slice r.src then s.modOut r.op fun o => o.modPiece r.piece fun p => { p with away := true } else s

/-- The answer to a request, once there is one, sets out from the slice to the core (R207, R321): load data, the values of a slice
operation, or an acknowledgement. -/
def State.reply (s : State) (slice : Nat) (r : Req) : State :=
  match (s.outst.get? r.op).bind fun o => o.pieces[r.piece]? with
  | some p =>
    if p.away && (p.landed || p.vals.isSome || p.data.isSome) then
      let (core, die) := srcPort r.src slice
      s.launch { from_ := dieOfSlice slice, to_ := die, pair := (4000 + slice, core), msg := .rsp r.op r.piece p.data p.vals }
    else s
  | none => s

/-! ### Ports -/

def State.port (s : State) (p : Nat) : FabPort := s.ports.getD p {}

def State.modPort (s : State) (p : Nat) (f : FabPort → FabPort) : State := { s with ports := s.ports.update p {} f }

/-- The port is up: it has joined its plane (R333). -/
def State.portUp (s : State) (p : Nat) : Bool := decide (p < 16) && s.fabev.getLsbD p

/-- The largest packet of a channel, in flits (R332). -/
def maxp (vc : Nat) : Nat :=
  match vc with
  | 0 | 1 => 1
  | 2 => 3
  | _ => 5

/-- The reserve of a channel (R332). -/
def FabPort.reserve (k : FabPort) (vc : Nat) : Nat := 2 * maxp vc + k.rtc

/-- Buffer space beyond the four reserves, of the 8 banks of 1,024 flits at the other end (R332). -/
def FabPort.shared (k : FabPort) : Nat := 8 * 1024 - ([0, 1, 2, 3].map k.reserve).sum

/-- Shared space in use. -/
def FabPort.sharedUsed (k : FabPort) : Nat := ([0, 1, 2, 3].map fun c => k.used.getD c 0 - k.reserve c).sum

/-- A channel has a credit: its reserve has room, or the shared space (R332). -/
def FabPort.credit (k : FabPort) (vc : Nat) : Bool :=
  decide (k.used.getD vc 0 < k.reserve vc) || decide (k.sharedUsed < k.shared)

/-- Credits that a flit returns: a channel and their number (R331). -/
def FabPort.due (k : FabPort) : Nat × Nat :=
  match [0, 1, 2, 3].find? fun c => decide (0 < k.owed.getD c 0) with
  | some c => (c, min 255 (k.owed.getD c 0))
  | none => (0, 0)

/-- A flit leaves a port with its present ACK and credits to return (R331); a withdrawn port sends nothing (R333). -/
def State.fabEmit (s : State) (p kind : Nat) (seq : BitVec 12) (vc : Nat) (pay : BitVec 1920) : State :=
  if !s.portUp p then s
  else
    s.modPort p fun k =>
      let d := k.due
      { k with sent := k.sent ++ [fabFlit kind vc d.1 d.2 seq (k.exp - 1) pay], owed := k.owed.update d.1 0 (· - d.2) }

/-- The first waiting flit whose channel has a credit: flits of one channel keep their order (R332). -/
def FabPort.nextFlit (k : FabPort) : Option (Nat × BitVec 1920) := k.waiting.find? fun x => k.credit x.1

/-- Waiting flits leave while credits, the replay buffer of 1,024 flits and the port allow it (R331–R333). -/
def State.fabDrain (s : State) (p : Nat) : Nat → State
  | 0 => s
  | n + 1 =>
    let k := s.port p
    match k.nextFlit with
    | none => s
    | some (vc, pay) =>
      if 1024 ≤ k.replay.length ∨ s.portUp p = false then s
      else
        let s := s.modPort p fun k =>
          { k with waiting := k.waiting.erase (vc, pay), seq := k.seq + 1, replay := k.replay ++ [(k.seq, vc, pay)]
                   used := k.used.update vc 0 (· + 1), progressAt := if k.replay.isEmpty then s.ptp else k.progressAt }
        (s.fabEmit p 1 k.seq vc pay).fabDrain p n

/-- Flits of a packet queue at a port, those of one channel only (R331). -/
def State.fabPush (s : State) (p vc : Nat) (pays : List (BitVec 1920)) : State :=
  let s := s.modPort p fun k => { k with waiting := k.waiting ++ pays.map fun x => (vc, x) }
  s.fabDrain p (s.port p).waiting.length

/-- The flits of a packet on a channel: one up to its largest packet (R331, R332). -/
def flitsOf (m : FabMsg) (vc : Nat) : List (BitVec 1920) :=
  (List.range (1 + Config.fabFlits m % maxp vc)).map (Config.fabPiece m)

/-! ### Planes -/

/-- PMASK of a destination takes a value; the time since which it has been empty is kept (R333, R337). -/
def State.setPmask (s : State) (n : Nat) (m : BitVec 16) : State :=
  let was := s.pmask.getD n 0
  { s with
    pmask := s.pmask.set n m
    emptySince := if m = 0 then (if was = 0 then s.emptySince else s.emptySince.set n s.ptp) else s.emptySince }

/-- The next plane of a destination's mask, round-robin (R333). -/
def State.nextPlane (s : State) (peer : Nat) : Option Nat :=
  let m := s.pmask.getD peer 0
  let last := s.rrPlane.getD peer 15
  ((List.range 16).map fun i => (last + 1 + i) % 16).find? fun p => m.getLsbD p

/-- A packet goes to a destination on a channel, on the next plane of the destination's mask (R333); with no plane in the mask it is
not sent, and the end-to-end state recovers it (R337). -/
def State.fabLeave (s : State) (dest : Nat) (m : FabMsg) (vc : Nat) : State :=
  match s.nextPlane dest with
  | none => s
  | some pl =>
    ({ s with rrPlane := s.rrPlane.set dest pl, fabOut := s.fabOut ++ [(m, pl)] } : State).fabPush pl vc (flitsOf m vc)

/-! ### The source side of streams -/

/-- CLASS of a leaf (R278). -/
def Cls.code (c : Cls) : BitVec 2 :=
  match c with
  | .other => 0
  | .weight => 1
  | .act => 2
  | .kv => 3

/-- A stream as a number. -/
def streamKey (st : StreamId) : Nat := 3 * st.peer + st.ch.code

def State.outStream (s : State) (st : StreamId) : StreamOut := s.outStreams.getD (streamKey st) {}

def State.modOutStream (s : State) (st : StreamId) (f : StreamOut → StreamOut) : State :=
  { s with outStreams := s.outStreams.update (streamKey st) {} f }

/-- The stream of the other channel to the same peer. -/
def State.rival (s : State) (st : StreamId) : StreamOut :=
  match st.ch.other with
  | some c => s.outStream { st with ch := c }
  | none => {}

/-- A packet to the line must be held (R336): the other channel has one that is unacknowledged or held, or its own holds one. -/
def State.remHeld (s : State) (st : StreamId) (line : Nat) : Bool :=
  let other := s.rival st
  st.ch.other.isSome
  && (other.unacked.any (fun u => u.pkt.line == line) || other.waiting.any (fun w => w.pkt.line == line)
    || (s.outStream st).waiting.any fun w => w.pkt.line == line)

/-- A packet goes out: it takes its stream's next sequence number and a plane (R333, R337). -/
def State.remGo (s : State) (p : RemPkt) (op piece : Nat) : State :=
  let p := { p with seq := (s.outStream p.st).next }
  let u : Unacked := { pkt := p, op, piece, firstAt := s.ptp, sentAt := s.ptp, plane := (s.nextPlane p.st.peer).getD 0 }
  let s := s.modOutStream p.st fun o => { o with next := o.next + 1, unacked := o.unacked ++ [u] }
  s.fabLeave p.st.peer (.pkt p) p.st.ch.vc

/-- Send a remote packet, or hold it under R336. -/
def State.remSend (s : State) (peer line : Nat) (cls : Cls) (o : RemOp) (op piece : Nat) : State :=
  let st : StreamId := { peer, ch := o.chan }
  let p : RemPkt := { st, seq := 0, line, cls := cls.code, op := o }
  if s.remHeld st line then
    let (order, s) := s.fresh
    let since := s.ptp
    s.modOutStream st fun x => { x with waiting := x.waiting ++ [{ pkt := p, op, piece, order, since }] }
  else s.remGo p op piece

/-- A held packet may go: nothing of the other channel to its line is unacknowledged, or held and older (R336). -/
def State.mayGo (s : State) (st : StreamId) (w : HeldPkt) : Bool :=
  let other := s.rival st
  !(other.unacked.any fun u => u.pkt.line == w.pkt.line)
  && !(other.waiting.any fun x => x.pkt.line == w.pkt.line && decide (x.order < w.order))

/-- Held packets of a stream go out, in order, as soon as they may (R336). -/
def State.releaseHeld (s : State) (st : StreamId) : Nat → State
  | 0 => s
  | n + 1 =>
    match (s.outStream st).waiting.find? (s.mayGo st) with
    | none => s
    | some w =>
      ((s.modOutStream st fun o => { o with waiting := o.waiting.erase w }).remGo w.pkt w.op w.piece).releaseHeld st n

end Sys2Proof.Machine
end

