-- ==== Sys2Proof/Machine/Home.lean ====
section
/-!
DEFINITION. The memory side (spec/13_die_memory_system.md): the home of a line, the lines of a slice with their class
quotas, the value of a line at its home, writes at the home with their reservations and monitors, and replicas.
-/

namespace Sys2Proof.Machine

/-! ### Homes -/

/-- Where a line lies in a sector of a die (R210). -/
structure HomeAt where
  die : Nat
  sector : Nat
  slice : Nat
  set : Nat
  deriving DecidableEq, Repr

/-- The vaults end here (R209). -/
def vaultEnd : Nat := 84 * 2 ^ 31

/-- Far memory (R209). -/
def farBase : Nat := 0x010000000000
def farEnd : Nat := 0x028000000000

/-- An address range lies entirely within one populated range (R270, R278). -/
def populated (pa n : Nat) : Bool := decide (pa + n ≤ vaultEnd) || (decide (farBase ≤ pa) && decide (pa + n ≤ farEnd))

/-- Live slices of a sector (R211). -/
def sectorDiv (d : Die) (sec : Nat) : Nat := d.secdiv.toNat / 2 ^ (5 * sec) % 32

/-- ENTRY[i] of SECMAP (R211). -/
def sectorSlice (d : Die) (sec i : Nat) : Nat :=
  match d.secmap.get? sec with
  | some m => m.toNat / 2 ^ (5 * i) % 32
  | none => i

/-- The slice and set of a line in a sector (R210); slices are numbered 66 × die + 22 × sector + physical slice (R272). -/
def State.placeIn (s : State) (die sector line : Nat) : HomeAt :=
  let d := s.die die
  let n := sectorDiv d sector
  { die, sector, slice := 66 * die + 22 * sector + sectorSlice d sector (line % n), set := line / n % 2048 }

/-- The home die and sector of a line (R209). -/
def homeSector (line : Nat) : Option (Nat × Nat) :=
  let pa := 128 * line
  if pa < vaultEnd then
    let v := pa / 2 ^ 31
    some (v / 21, v % 21 / 7)
  else if farBase ≤ pa ∧ pa < farEnd then
    let ch := (pa - farBase) / 128 / 16 % 48
    let h := (line % 512) ^^^ (line / 2 ^ 9 % 512) ^^^ (line / 2 ^ 18 % 512) ^^^ (line / 2 ^ 27 % 512) ^^^ (line / 2 ^ 36 % 512)
    some (ch / 12, h % 3)
  else none

/-- The home of a line (R209, R210). -/
def State.home (s : State) (line : Nat) : Option HomeAt :=
  match homeSector line with
  | some (die, sec) => some (s.placeIn die sec line)
  | none => none

/-- A physical address lies in the shadow region of its vault (R218). -/
def State.inShadow (s : State) (pa : Nat) : Bool :=
  decide (pa < vaultEnd)
  && decide (2 ^ 31 - (s.cluster (pa / 2 ^ 31)).vshad.toNat % 128 * 2 ^ 24 ≤ pa % 2 ^ 31)

/-! ### Lines of a slice -/

/-- All nibbles of a line. -/
def allNibbles : BitVec 256 := BitVec.allOnes 256

def Slice.find (sl : Slice) (set line : Nat) : Option SLine := (sl.sets.getD set []).find? fun l => l.line == line

/-- A replica counts as its own class (R214). -/
def SLine.sameKind (a b : SLine) : Bool := a.replica == b.replica && (a.replica || a.cls == b.cls)

/-- The quota of a class, or of replicas (R214). -/
def Slice.quota (sl : Slice) (replica : Bool) (c : Cls) : Nat :=
  let q := sl.clquota.toNat
  if replica then q / 2 ^ 20 % 32
  else
    match c with
    | .other => q / 2 ^ 15 % 32
    | .kv => q / 2 ^ 10 % 32
    | .act => q / 2 ^ 5 % 32
    | .weight => q % 32

/-- The last element of a list that satisfies a test, taken out: the LRU line. -/
def takeLast (p : SLine → Bool) (ls : List SLine) : Option (SLine × List SLine) :=
  match ls.reverse.find? p with
  | some v => some (v, ls.filter fun l => l.line != v.line || l.replica != v.replica)
  | none => none

/-- Allocate a line in its set at MRU, with the victim of R214. -/
def Slice.insert (sl : Slice) (set : Nat) (l : SLine) : Slice × Option SLine :=
  let ls := sl.sets.getD set []
  let same := (ls.filter l.sameKind).length
  let victim :=
    if sl.quota l.replica l.cls ≤ same then takeLast l.sameKind ls
    else if ls.length < 16 then none
    else takeLast (fun _ => true) ls
  match victim with
  | some (v, rest) => ({ sl with sets := sl.sets.set set (l :: rest) }, some v)
  | none => ({ sl with sets := sl.sets.set set (l :: ls) }, none)

/-- Change a line of a set and move it to MRU. -/
def Slice.touch (sl : Slice) (set line : Nat) (f : SLine → SLine) : Slice :=
  let ls := sl.sets.getD set []
  match ls.find? fun l => l.line == line with
  | some l => { sl with sets := sl.sets.set set (f l :: ls.filter fun x => x.line != line) }
  | none => sl

def Slice.drop (sl : Slice) (set line : Nat) : Slice :=
  { sl with sets := sl.sets.set set ((sl.sets.getD set []).filter fun l => l.line != line) }

/-- The holder bit of a sector of a die (R215). -/
def holderBit (die sector : Nat) : Nat := 3 * die + sector

/-- Mark a line of memory as poisoned (R212, R218). -/
def State.poisonLine (s : State) (line : Nat) : State :=
  if s.poison.contains line then s else { s with poison := line :: s.poison }

/-- An evicted line: dirty nibbles go to memory; a replica sends a drop notice to its home (R212, R217). -/
def State.evicted (s : State) (h : HomeAt) (v : SLine) : State :=
  if v.replica then
    match s.home v.line with
    | some x => s.toHolder x.slice (holderBit h.die h.sector) (.drop v.line (holderBit h.die h.sector)) true
    | none => s
  else
    let s := if v.poison then s.poisonLine v.line else s
    if v.dirty = 0 then s else { s with mem := s.mem.writeLine v.line v.data v.dirty }

/-- Put a line into a slice, evicting the victim of R214. -/
def State.place (s : State) (h : HomeAt) (l : SLine) : State :=
  let (sl, v) := (s.slice h.slice).insert h.set l
  let s := s.modSlice h.slice fun _ => sl
  match v with
  | some v => s.evicted h v
  | none => s

/-- The line as a fill brings it from its vault or channel (R213, R218). -/
def State.filled (s : State) (line : Nat) (cls : Cls) : SLine :=
  { line, data := s.mem.line line, valid := allNibbles, dirty := 0, cls, replica := false, poison := s.poison.contains line }

/-- The line is present at its home, filled if its class may allocate (R214). -/
def State.ensure (s : State) (h : HomeAt) (line : Nat) (cls : Cls) : State :=
  let sl := s.slice h.slice
  match sl.find h.set line with
  | some _ => s.modSlice h.slice fun sl => sl.touch h.set line id
  | none => if sl.quota false cls = 0 then s else s.place h (s.filled line cls)

/-- The line's current value at its home. -/
def State.homeLine (s : State) (line : Nat) : BitVec 1024 :=
  match s.home line with
  | some h =>
    match (s.slice h.slice).find h.set line with
    | some l => mergeNibbles (s.mem.line line) l.data l.valid
    | none => s.mem.line line
  | none => 0

/-- A read of the line meets poison (R212, R218). -/
def State.homePoison (s : State) (line : Nat) : Bool :=
  match s.home line with
  | some h =>
    match (s.slice h.slice).find h.set line with
    | some l => l.poison
    | none => s.poison.contains line
  | none => false

/-- What a read of a line at its home meets, or 0: a shadow region or poison (R212, R218). -/
def State.readCause (s : State) (line : Nat) : Nat :=
  if s.inShadow (128 * line) then 0x0C2 else if s.homePoison line then 0x0C1 else 0

/-- `n` bytes within one line, at the home. -/
def State.homeGet (s : State) (pa n : Nat) : Nat := lineGet (s.homeLine (pa / 128)) (pa % 128) n

/-- The 32-bit word at a physical address, at the home. -/
def State.homeWord (s : State) (pa : Nat) : Word := BitVec.ofNat 32 (s.homeGet pa 4)

/-- `n` bytes from a physical address, across lines. -/
def State.homeBytes (s : State) (pa n : Nat) : List Byte :=
  (List.range n).map fun i => lineByte (s.homeLine ((pa + i) / 128)) ((pa + i) % 128)

/-! ### Lines of an L1 data cache that leave it -/

/-- Cache ways: 16 less the scratch ways (R144, R145). -/
def Core.ways (c : Core) : List Nat := (List.range 16).filter fun i => i < 8 || !c.wmask.getLsbD i

def Core.l1Set (c : Core) (line : Nat) : List L1Line := c.l1.getD (line % 1024) []

def Core.l1Find (c : Core) (line : Nat) : Option L1Line := (c.l1Set line).find? fun l => l.line == line

def Core.l1Mod (c : Core) (line : Nat) (f : L1Line → L1Line) : Core :=
  { c with l1 := c.l1.modify (line % 1024) fun ls => ls.map fun l => if l.line = line then f l else l }

def Core.l1Drop (c : Core) (line : Nat) : Core :=
  { c with l1 := c.l1.modify (line % 1024) fun ls => ls.filter fun l => l.line != line }

/-- Outstanding loads of a core on a line bring it into L1 no more: what they would bring is older than an access of the core
that is on its way to the home (R232 OwnWrite). DEDUCED, log 30. -/
def State.noInstall (s : State) (core : Nat) (p : Nat → Bool) : State :=
  { s with outst := s.outst.map fun e =>
      if e.2.core = core ∧ e.2.l1pos.isSome ∧ e.2.pieces.any (fun x => p x.line) = true then (e.1, { e.2 with l1pos := none })
      else e }

/-- Send the dirty nibbles of a line to its home as an operation of its own (R147). -/
def State.writeback (s : State) (core : Nat) (g : GRef) (l : L1Line) : State :=
  if l.dirty = 0 then s
  else
    let (id, s) := s.fresh
    let epoch := (s.part l.part).epoch
    let dest := match s.home l.line with | some h => h.slice | none => 0
    let s : State := { s with
      outst := s.outst.set id
        { id, g, core, kind := .wb, sb := none, dst := .zero, regs := 0, size := 0, sx := false, lanes := 0, from_ := none
          pieces := [{ line := l.line, accs := [] }], part := l.part, epoch, l1pos := none, cls := l.cls } }
    s.toSlice dest { op := id, piece := 0, src := .core core, line := l.line, cls := l.cls, arena := false, g
                     part := l.part, epoch, body := .write l.data l.dirty true }

/-- A line leaves a core's L1 as by an eviction, and loads on their way do not bring it back: what a later access of the
core's groups finds is no older than what the slice holds from now on (R232 OwnWrite, Coherence and Monotone).
DEDUCED, log 30. -/
def State.leaveL1 (s : State) (core : Nat) (g : GRef) (line : Nat) : State :=
  let s := match (s.core core).l1Find line with
    | some l => (s.writeback core g l).modCore core fun c => c.l1Drop line
    | none => s
  s.noInstall core (· == line)

/-! ### Monitors -/

/-- The comparison of a monitor (R222, R243). -/
def monSat (mode : BitVec 3) (v k : Word) : Bool :=
  match mode.toNat with
  | 0 => v == k
  | 1 => v != k
  | 2 => decide (k.toNat ≤ v.toNat)
  | 3 => decide (v.toNat < k.toNat)
  | 4 => serialGe v k
  | 5 => serialLt v k
  | _ => false

/-- A saved team joins its cluster's dispatcher queue (R195, R244, R288). -/
def State.appendQueue (s : State) (t : Nat) : State :=
  match s.team? t with
  | some tm =>
    match tm.place with
    | .saved c =>
      let s := s.modTeam t fun tm => { tm with place := .queued c }
      s.modCluster c fun cl =>
        match cl.part with
        | some p =>
          if p = tm.part then
            { cl with links := { cl.links with
                dq := cl.links.dq ++ [t], headSince := if cl.links.dq.isEmpty then s.clk else cl.links.headSince } }
          else
            let l := cl.out.getD tm.part {}
            { cl with out := cl.out.set tm.part { l with dq := l.dq ++ [t] } }
        | none =>
          let l := cl.out.getD tm.part {}
          { cl with out := cl.out.set tm.part { l with dq := l.dq ++ [t] } }
    | _ => s
  | none => s

/-- An entry of the team's faults has not been resolved. -/
def State.faultsOpen (s : State) (t : Team) : Bool :=
  let p := s.part t.part
  p.posts.any (fun e => e.agent == .team t.id) || p.watch.any fun e => e.2.agent == .team t.id

/-- A monitor's waiter wakes with a flag and the value read (R223, R243, R244).
An agent resumes in its own event, which finds the monitor gone. -/
def State.wakeMon (s : State) (m : Mon) (flag : Bool) (v : Word) : State :=
  match m.who with
  | .group g slot =>
    let s := match (s.team? g.team).bind Team.core? with
      | some c => s.leaveL1 c g (m.word / 128)
      | none => s
    s.wake g slot (WaitOut.word flag v)
  | .team g slot =>
    let s := s.wake g slot (WaitOut.word flag v)
    match s.team? g.team with
    | some t => if s.faultsOpen t then s else s.appendQueue g.team
    | none => s
  | _ => s

/-- A monitor whose word can no longer be read (R212, R218): the cause ends the node of a waiting group; an agent resumes and meets it at
its own read. -/
def State.failMon (s : State) (m : Mon) (code : Nat) : State :=
  match m.who with
  | .group g _ | .team g _ =>
    match s.team? g.team with
    | some t => s.killNode t.node code
    | none => s
  | _ => s

/-- A freed entry ends with the value of its word at the home, or with the cause that the read meets (R212, R218, R223). -/
def State.endMon (s : State) (m : Mon) (flag : Bool) : State :=
  if s.readCause (m.word / 128) = 0 then s.wakeMon m flag (s.homeWord m.word) else s.failMon m (s.readCause (m.word / 128))

/-- An evaluation of an entry ends it: its word satisfies it, or cannot be read (R212, R218, R223). -/
def State.monFires (s : State) (m : Mon) : Bool :=
  s.readCause (m.word / 128) != 0 || monSat m.mode (s.homeWord m.word) m.opnd

/-- The oldest overflow entries move into free entries 0 to 59 and are evaluated as they move (R224). -/
def State.refillMons (s : State) (i : Nat) : Nat → State
  | 0 => s
  | n + 1 =>
    let sl := s.slice i
    match sl.overflow, (List.range 60).find? (fun k => (sl.mons.get? k).isNone) with
    | m :: r, some k =>
      if s.monFires m then ((s.modSlice i fun sl => { sl with overflow := r }).endMon m true).refillMons i n
      else (s.modSlice i fun sl => { sl with overflow := r, mons := sl.mons.set k m }).refillMons i n
    | _, _ => s

/-- Free an entry of a slice, and let the overflow list move up. -/
def State.freeMon (s : State) (i k : Nat) : State :=
  (s.modSlice i fun sl => { sl with mons := sl.mons.erase k }).refillMons i ((s.slice i).overflow.length)

/-- One entry is re-evaluated after a write (R223). -/
def State.evalMon (s : State) (i : Nat) (e : Nat × Mon) : State :=
  if s.monFires e.2 then (s.modSlice i fun sl => { sl with mons := sl.mons.erase e.1 }).endMon e.2 true else s

/-- Every entry watching a word of the line is re-evaluated (R223). -/
def State.evalMons (s : State) (i line : Nat) : State :=
  let watching := (s.slice i).mons.filter fun e => e.2.word / 128 == line
  if watching.isEmpty then s
  else (watching.foldl (fun s e => s.evalMon i e) s).refillMons i ((s.slice i).overflow.length)

/-- Withdraw the monitors and overflow entries of a waiter; overflow entries move into the entries that become free (R223, R224). -/
def State.withdrawMons (s : State) (p : MonWho → Bool) : State :=
  let s : State := { s with slices := s.slices.map fun e =>
      (e.1, { e.2 with mons := e.2.mons.filter (fun m => !p m.2.who), overflow := e.2.overflow.filter (fun m => !p m.who) }) }
  (s.slices.filter fun e => !e.2.overflow.isEmpty).foldl (fun s e => s.refillMons e.1 e.2.overflow.length) s

/-- A monitor of a hardware agent takes one of the entries 60 to 63 (R222). -/
def State.armAgent (s : State) (word : Nat) (opnd : Word) (mode : BitVec 3) (who : MonWho) : State × Bool :=
  match s.home (word / 128) with
  | some h =>
    match [60, 61, 62, 63].find? fun k => ((s.slice h.slice).mons.get? k).isNone with
    | some k => (s.modSlice h.slice fun sl => { sl with mons := sl.mons.set k { word, opnd, mode, who, deadl := none } }, true)
    | none => (s, false)
  | none => (s, false)

/-- A waiter still has a monitor. -/
def State.monArmed (s : State) (who : MonWho) : Bool := s.slices.any fun e => e.2.mons.any fun m => m.2.who == who

/-! ### Writes at the home -/

/-- Reservations on the line end, but for the writer's own (R221, R242). -/
def Slice.clearResv (sl : Slice) (line : Nat) (who : Option GRef) : Slice :=
  { sl with resv := sl.resv.filter fun r => r.2 != line || some r.1 == who }

/-- A write performs at the line's home, whose holder vector is zero (R212, R221, R223). -/
def State.writeHome (s : State) (h : HomeAt) (line : Nat) (data : BitVec 1024) (mask : BitVec 256) (cls : Cls)
    (who : Option GRef) : State :=
  let s := s.ensure h line cls
  let s :=
    match (s.slice h.slice).find h.set line with
    | some _ =>
      s.modSlice h.slice fun sl => sl.touch h.set line fun l =>
        { l with data := mergeNibbles l.data data mask, valid := l.valid ||| mask, dirty := l.dirty ||| mask }
    | none => { s with mem := s.mem.writeLine line data mask }
  (s.modSlice h.slice fun sl => sl.clearResv line who).evalMons h.slice line

/-- The far channel of a line is not ready: requests to it are held (R209, R324). -/
def State.farWaits (s : State) (line : Nat) : Bool :=
  let pa := 128 * line
  decide (farBase ≤ pa) && decide (pa < farEnd) && !s.frdy.getLsbD ((pa - farBase) / 128 / 16 % 48)

/-- The bypass queue of a set's bank (R210, R213). -/
def Slice.queueOf (sl : Slice) (set : Nat) : List Req := sl.queues.getD (set % 4) []

/-- The requests that wait at the crossbar for the bank of a set (R213). -/
def Slice.xbarOf (sl : Slice) (set : Nat) : List Req := sl.xbar.getD (set % 4) []

/-- Requests that have arrived for a line stand before one that arrives now: its set is blocked, it is held, or it is queued
(R213, R216). -/
def Slice.busy (sl : Slice) (set line : Nat) : Bool :=
  sl.blocked.any (fun b => b.set == set) || sl.held.any (fun x => x.line == line)
  || (sl.queueOf set).any (fun r => r.line == line) || !(sl.xbarOf set).isEmpty

/-- A line must be filled before it is read or written: it is absent, and its class may allocate (R213, R214). -/
def Slice.misses (sl : Slice) (set line : Nat) (cls : Cls) : Bool := (sl.find set line).isNone && sl.quota false cls != 0

/-- The bank of a set has all its 16 entries for blocked sets in use (R210, R213). -/
def Slice.bankFull (sl : Slice) (set : Nat) : Bool :=
  decide (16 ≤ (sl.blocked.filter fun b => b.set % 4 == set % 4).length)

/-- A miss blocks its set until the fill returns (R213). -/
def State.block (s : State) (h : HomeAt) (line : Nat) (cls : Cls) (first : Option Req) : State :=
  s.modSlice h.slice fun sl => { sl with blocked := sl.blocked ++ [{ set := h.set, line, cls, first, chain := [] }] }

/-- An invalidation goes to every holder of a line that a vector names (R216). -/
def State.askHolders (s : State) (h : HomeAt) (line : Nat) (hv : BitVec 12) : State :=
  ((List.range 12).filter fun b => hv.getLsbD b).foldl (fun s b => s.toHolder h.slice b (.inval line b) false) s

/-- Send invalidations to every holder of a line, and hold the requests given (R216). -/
def State.invalidate (s : State) (h : HomeAt) (line : Nat) (reqs : List Req) : State :=
  let hv := (s.slice h.slice).holders.getD line 0
  (s.modSlice h.slice fun sl => { sl with held := sl.held ++ [{ line, awaiting := hv, reqs }] }).askHolders h line hv

/-- The lines and masks of a byte range. -/
def spanLines (pa n : Nat) : List (Nat × Nat × Nat) :=
  let first := pa / 128
  let last := (pa + n - 1) / 128
  if n = 0 then []
  else (List.range (last + 1 - first)).map fun i =>
    let l := first + i
    let lo := max pa (128 * l)
    let hi := min (pa + n) (128 * l + 128)
    (l, lo - 128 * l, hi - lo)

/-- A read at the home waits while the line is blocked or held there (R213, R216). -/
def State.readBusy (s : State) (line : Nat) : Bool :=
  match s.home line with
  | none => false
  | some h => s.farWaits line || (s.slice h.slice).busy h.set line

/-- A read at the home must wait: for the home, or for the line's fill (R213, R216). -/
def State.fillWait (s : State) (line : Nat) (cls : Cls) : Bool :=
  match s.home line with
  | none => false
  | some h => s.readBusy line || (s.slice h.slice).misses h.set line cls

/-- The fill of an absent line begins, if its bank can block one set more (R213). -/
def State.startFill (s : State) (line : Nat) (cls : Cls) : State :=
  match s.home line with
  | none => s
  | some h =>
    let sl := s.slice h.slice
    if s.readBusy line || !sl.misses h.set line cls || sl.bankFull h.set then s else s.block h line cls none

/-- A read at the home brings the line into its slice. -/
def State.readHome (s : State) (line : Nat) (cls : Cls) : State :=
  match s.home line with
  | some h => s.ensure h line cls
  | none => s

/-! ### Replicas -/

/-- The class and home of a line permit replicas for a reader of a sector (R215). -/
def replicable (cls : Cls) (arena bypass : Bool) (home : HomeAt) (die sector : Nat) : Bool :=
  (cls == .weight || cls == .kv) && !arena && !bypass && !(home.die == die && home.sector == sector)

/-- The replica of a line in a reader's sector, if present. -/
def State.replica? (s : State) (die sector line : Nat) : Option SLine :=
  let p := s.placeIn die sector line
  ((s.slice p.slice).sets.getD p.set []).find? fun l => l.line == line && l.replica

/-- A replica of the line is on its way to a slice. -/
def State.granting (s : State) (slice line : Nat) : Bool :=
  (s.slice slice).arrivals.any (fun x => x.2.line == line)
  || s.crossings.any fun x => match x.msg with | .grant i _ l => i == slice && l.line == line | _ => false

/-- The home grants a replica to a reader's sector when the REP quota has room in the set (R215); on another die the replica comes by
message (R321). -/
def State.grant (s : State) (home : HomeAt) (die sector line : Nat) (cls : Cls) : State :=
  let p := s.placeIn die sector line
  let sl := s.slice p.slice
  let reps := ((sl.sets.getD p.set []).filter SLine.replica).length
  if sl.quota true cls ≤ reps || (s.replica? die sector line).isSome || s.granting p.slice line then s
  else
    let l : SLine := { s.filled line cls with data := s.homeLine line, replica := true, poison := false }
    let b := holderBit die sector
    let s := if die = home.die then s.place p l else s.toHolder home.slice b (.grant p.slice p.set l) false
    s.modSlice home.slice fun sl => { sl with holders := sl.holders.set line (sl.holders.getD line 0 ||| (1#12 <<< b)) }

/-- The home still counts a sector among the holders of a line (R215). -/
def State.holds (s : State) (line bit : Nat) : Bool :=
  match s.home line with
  | some h => ((s.slice h.slice).holders.getD line 0).getLsbD bit
  | none => false

/-- Replicas that have come from other dies take their places, unless a shootdown or a shakeout has dropped the line meanwhile
(R285, R311). -/
def State.settleIn (s : State) (slice : Nat) : State :=
  let new := (s.slice slice).arrivals
  if new.isEmpty then s
  else
    let s := s.modSlice slice fun sl => { sl with arrivals := [] }
    let h : HomeAt := { die := dieOfSlice slice, sector := slice % 66 / 22, slice, set := 0 }
    new.foldl (fun s x => if s.holds x.2.line (holderBit h.die h.sector) then s.place { h with set := x.1 } x.2 else s) s

/-- A holder drops its replica on an invalidation (R216, R217). -/
def State.dropReplica (s : State) (line bit : Nat) : State :=
  let p := s.placeIn (bit / 3) (bit % 3) line
  s.modSlice p.slice fun sl =>
    { sl with sets := sl.sets.set p.set ((sl.sets.getD p.set []).filter fun l => !(l.line == line && l.replica))
              arrivals := sl.arrivals.filter fun x => x.2.line != line }

end Sys2Proof.Machine
end

