-- ==== Sys2Proof/Machine/Translate.lean ====
section
/-!
DEFINITION. Translation (spec/18_package_memory_translation.md): the windows, the page walk, the translation structures
and the checks of R282.
-/

namespace Sys2Proof.Machine

/-- The package's number, 0 outside a pod (R110, R330). -/
def State.pkg (s : State) : Nat := if s.podcfg.getLsbD 9 then s.podcfg.toNat % 512 else 0

/-- Access kinds of a fault entry (R305). -/
def kindRead : Nat := 0
def kindWrite : Nat := 1
def kindRmw : Nat := 2
def kindFetch : Nat := 3
def kindEngineRead : Nat := 4
def kindEngineWrite : Nat := 5

/-- An address lies in the peer window (R273). -/
def isPeer (va : BitVec 56) : Bool := va.toNat / 2 ^ 52 == 8

/-- The package is in a pod (R330). -/
def State.inPod (s : State) : Bool := s.podcfg.getLsbD 9

/-- Where an access comes from: its core, if it has one, its cluster, its partition and the launch id of its node. -/
structure From where
  core : Option Nat
  cluster : Nat
  part : Nat
  lid : Word
  deriving DecidableEq, Repr

/-- The answer of translation. -/
inductive Tr where
  /-- A physical address and the leaf that gave it. -/
  | ok (pa : Nat) (e : TlbEnt)
  /-- A read of a discarded page (R283). -/
  | discarded (e : TlbEnt)
  /-- The scratch window, with its offset (R274). -/
  | scratch (off : Nat)
  | err (code : Nat)
  /-- A table entry's home is blocked: the walk waits. -/
  | busy
  deriving DecidableEq, Repr

/-! ### The page table -/

/-- A level of the page table: its number, the lowest VA bit of its index, and the index's width (R277). -/
structure Level where
  n : Nat
  shift : Nat
  bits : Nat
  deriving DecidableEq, Repr

def levels : List Level := [⟨0, 44, 12⟩, ⟨1, 35, 9⟩, ⟨2, 30, 5⟩, ⟨3, 21, 9⟩, ⟨4, 16, 5⟩]

/-- Bytes of the table of a level (R277). -/
def Level.size (l : Level) : Nat := 8 * 2 ^ l.bits

/-- The class of a leaf (R278). -/
def clsOf (n : Nat) : Cls :=
  match n % 4 with
  | 1 => .weight
  | 2 => .act
  | 3 => .kv
  | _ => .other

/-- NEXT of a table entry (R278). -/
def nextOf (e : DWord) : Nat := e.toNat / 2 ^ 8 % 2 ^ 44 * 2 ^ 8

/-- A leaf entry as a translation of a page (R278). -/
def leafOf (part : Nat) (va : BitVec 56) (l : Level) (e : DWord) : TlbEnt :=
  { part, page := va.toNat / 2 ^ l.shift, bits := l.shift, frame := e.toNat / 2 ^ 16 % 2 ^ 36 * 2 ^ 16
    cls := clsOf (e.toNat / 2 ^ 14), w := e.getLsbD 13, d := e.getLsbD 62, peer := e.extractLsb' 53 9, arena := none }

/-- A leaf is malformed (R276, R278). -/
def leafBad (pkg : Nat) (va : BitVec 56) (l : Level) (e : DWord) : Bool :=
  let t := leafOf 0 va l e
  let peerVa := va.toNat / 2 ^ 52 == 8
  e.getLsbD 52 || e.toNat / 4 % 2 ^ 11 != 0 || e.getLsbD 0 || l.n == 0
  || t.frame % 2 ^ l.shift != 0 || !populated t.frame (2 ^ l.shift)
  || (if peerVa then t.peer.toNat != va.toNat / 2 ^ 43 % 2 ^ 9 || t.peer.toNat == pkg else t.peer != 0)

/-- A table entry is malformed (R278). -/
def tableBad (l : Level) (next : Level) (e : DWord) : Bool :=
  e.toNat / 2 ^ 52 % 2 ^ 11 != 0 || e.toNat % 2 ^ 8 != 0 || l.n == 4
  || nextOf e % next.size != 0 || !populated (nextOf e) next.size

/-- The outcome of a walk, with the table entries read. -/
inductive Walked where
  | leaf (e : TlbEnt)
  | err (code : Nat)
  /-- The home of an entry's line cannot be read now. -/
  | busy (line : Nat)
  deriving DecidableEq, Repr

/-- The walk from a table of the first level of the list (R277, R280); `read` gives an entry from the walk cache or its
home slice, none while the home is blocked. -/
def walkFrom (read : Nat → Nat → Option (Except Nat DWord)) (pkg part : Nat) (va : BitVec 56) :
    List Level → Nat → List (Nat × Nat × DWord) → Walked × List (Nat × Nat × DWord)
  | [], _, seen => (.err 0x104, seen)
  | l :: rest, base, seen =>
    let idx := va.toNat / 2 ^ l.shift
    match read l.n (base + 8 * (idx % 2 ^ l.bits)) with
    | none => (.busy ((base + 8 * (idx % 2 ^ l.bits)) / 128), seen)
    | some (.error c) => (.err c, seen)
    | some (.ok e) =>
      if !e.getLsbD 63 then (.err 0x100, seen)
      else if e.getLsbD 1 then
        if leafBad pkg va l e then (.err 0x104, seen) else (.leaf (leafOf part va l e), seen)
      else
        match rest with
        | [] => (.err 0x104, seen)
        | nx :: _ =>
          if tableBad l nx e then (.err 0x104, seen)
          else walkFrom read pkg part va rest (nextOf e) (seen ++ [(l.n, idx, e)])

/-- An entry of the page table: from the walk cache of the die, else from its home slice (R277, R280), which only a line outside
the shadow regions gives (R218, R270); none while the home is busy or the line is absent (R213). -/
def State.readEntry (s : State) (die part : Nat) (va : BitVec 56) (n pa : Nat) : Option (Except Nat DWord) :=
  let idx := va.toNat / 2 ^ ((levels[n]?.map Level.shift).getD 0)
  match (s.die die).walk.find? fun x => x.1 == part && x.2.1 == n && x.2.2.1 == idx with
  | some x => some (.ok x.2.2.2)
  | none =>
    if s.inShadow pa then some (.error 0x0C2)
    else if s.fillWait (pa / 128) .other then none
    else if s.homePoison (pa / 128) then some (.error 0x0C1)
    else some (.ok (BitVec.ofNat 64 (s.homeGet pa 8)))

/-- The walk by a die's walker (R280). -/
def State.walk (s : State) (die part : Nat) (va : BitVec 56) : Walked × List (Nat × Nat × DWord) :=
  let root := (s.part part).ptroot.toNat / 2 ^ 15 % 2 ^ 37 * 2 ^ 15
  walkFrom (s.readEntry die part va) s.pkg part va levels root []

/-! ### The translation structures -/

/-- A structure holds a translation of the address. -/
def tlbFind (es : List TlbEnt) (part : Nat) (va : BitVec 56) : Option TlbEnt :=
  es.find? fun e => e.part == part && va.toNat / 2 ^ e.bits == e.page

/-- Enter a translation at the head of a structure of a number of entries; the oldest goes. -/
def tlbAdd (n : Nat) (es : List TlbEnt) (e : TlbEnt) : List TlbEnt :=
  if es.contains e then es else (e :: es).take n

/-- Scratch units of 4 KiB of a core that no resident team holds (R149). -/
def State.freeUnits (s : State) (core : Nat) : Nat :=
  let total := 32 * ((List.range 8).filter fun i => (s.core core).wmask.getLsbD (8 + i)).length
  let held := s.teams.foldl (fun n t => if t.2.place = .resident core ∨ t.2.place = .restoring core then n + t.2.scr / 4096 else n) 0
  total - held

/-- Victim entries that a core can hold: 4 in each free unit of scratch, and one in each instruction-cache line without an
instruction (R149, R280). DESIGN CHOICE, log 58: the spec gives no number of entries for such a line. -/
def State.victimRoom (s : State) (core : Nat) : Nat := 4 * s.freeUnits core + (1024 - (s.core core).icache.length)

/-- Victim entries whose space has been claimed are dropped (R149). -/
def State.trimVictims (s : State) (core : Nat) : State :=
  s.modCore core fun k => { k with victims := k.victims.take (s.victimRoom core) }

/-- The set of the core TLB for a translation: 32 sets of 8 ways (R280).
DESIGN CHOICE, log 58: the spec does not say how a page chooses its set, nor which entry of a full set goes. -/
def TlbEnt.set (e : TlbEnt) : Nat := e.page % 32

/-- A translation enters the core TLB: the oldest of a full set goes (R280), and becomes a victim entry (R149). -/
def Core.tlbEnter (k : Core) (e : TlbEnt) : Core :=
  if k.tlb.contains e then k
  else
    match (k.tlb.filter fun x => x.set == e.set).drop 7 with
    | [] => { k with tlb := e :: k.tlb }
    | v :: _ => { k with tlb := e :: k.tlb.erase v, victims := v :: k.victims }

/-- Enter a translation in the structures of a core, its cluster and its die (R280). -/
def State.fillTlbs (s : State) (f : From) (e : TlbEnt) : State :=
  let s := s.modDie (dieOf f.cluster) fun d => { d with tlb := tlbAdd 16384 d.tlb e }
  let s := s.modCluster f.cluster fun c => { c with tlb := tlbAdd 2048 c.tlb e }
  match f.core with
  | none => s
  | some c => (s.modCore c (·.tlbEnter e)).trimVictims c

/-- The first structure that holds a translation (R280, steps 2 to 5). -/
def State.tlbLookup (s : State) (f : From) (va : BitVec 56) : Option TlbEnt :=
  let near :=
    match f.core with
    | some c => (tlbFind (s.core c).tlb f.part va).or (tlbFind (s.core c).victims f.part va)
    | none => none
  (near.or (tlbFind (s.cluster f.cluster).tlb f.part va)).or (tlbFind (s.die (dieOf f.cluster)).tlb f.part va)

/-! ### Windows and checks -/

/-- Checks 1 and 2 of R282: the window and the arena (R273, R275); 0 when they pass. -/
def State.windowCause (s : State) (f : From) (va : BitVec 56) : Nat :=
  let a := va.toNat
  match a / 2 ^ 52 with
  | 9 => if a / 2 ^ 20 % 2 ^ 32 = 0 then 0 else 0x103
  | 10 =>
    let (w0, _) := (s.part f.part).arena.getD (a / 2 ^ 44 % 256) (0, 0)
    if !w0.getLsbD 63 || w0.toNat / 2 ^ 48 % 256 != a / 2 ^ 36 % 256 then 0x110
    else if w0.toNat % 2 ^ 32 != f.lid.toNat then 0x111
    else if w0.toNat / 2 ^ 32 % 2 ^ 16 * 2 ^ 21 ≤ a % 2 ^ 36 then 0x103
    else 0
  | w => if 11 ≤ w then 0x103 else 0

/-- The granule of an arena address as a translation: class ACT, writable, never discarded (R275). -/
def State.granule (s : State) (part : Nat) (va : BitVec 56) : TlbEnt :=
  let a := va.toNat
  let idx := a / 2 ^ 44 % 256
  let g := ((s.part part).granules.getD idx [])[a % 2 ^ 36 / 2 ^ 21]?.getD 0
  { part, page := a / 2 ^ 21, bits := 21, frame := g * 2 ^ 21, cls := .act, w := true, d := false, peer := 0
    arena := some (idx, a / 2 ^ 36 % 256) }

/-- The table entries that a walk read enter the walk cache of the die (R280). -/
def State.noteWalk (s : State) (die part : Nat) (seen : List (Nat × Nat × DWord)) : State :=
  s.modDie die fun d =>
    { d with walk := (seen.foldl (fun acc x =>
        let k := (part, x.1, x.2.1, x.2.2)
        if acc.contains k then acc else k :: acc) d.walk).take 64 }

/-- The leaf of an address that has passed the window checks, with the structures filled (R280). -/
def State.leaf (s : State) (f : From) (va : BitVec 56) : State × Walked :=
  match s.tlbLookup f va with
  | some e => (s.fillTlbs f e, .leaf e)
  | none =>
    if va.toNat / 2 ^ 52 = 10 then
      let e := s.granule f.part va
      (s.fillTlbs f e, .leaf e)
    else
      let (w, seen) := s.walk (dieOf f.cluster) f.part va
      let s := s.noteWalk (dieOf f.cluster) f.part seen
      match w with
      | .leaf e => (s.fillTlbs f e, .leaf e)
      | .busy line => (s.startFill line .other, .busy line)
      | .err c => (s, .err c)

/-- Checks 5 and 6 of R282 on a leaf. -/
def checkLeaf (e : TlbEnt) (va : BitVec 56) (write : Bool) : Tr :=
  if e.d then (if write then .err 0x102 else .discarded e)
  else if write && !e.w then .err 0x101
  else .ok (e.frame + va.toNat % 2 ^ e.bits) e

/-- Translate an address (R280, R282). -/
def State.translate (s : State) (f : From) (va : BitVec 56) (write : Bool) : State × Tr :=
  let c := s.windowCause f va
  if c ≠ 0 then (s, .err c)
  else if va.toNat / 2 ^ 52 = 9 then (s, .scratch (va.toNat % 2 ^ 20))
  else
    match s.leaf f va with
    | (s, .leaf e) => (s, checkLeaf e va write)
    | (s, .err c) => (s, .err c)
    | (s, .busy _) => (s, .busy)

/-- The last-page register of a lane holds the address's page (R281). -/
def Group.lastPageOf (g : Group) (lane part : Nat) (va : BitVec 56) : Option TlbEnt :=
  match g.lastPage.get? lane with
  | some e => if e.part == part && va.toNat / 2 ^ e.bits == e.page then some e else none
  | none => none

/-- Translate the address of a lane: first through its last-page register, which a miss loads (R280, R281). -/
def State.translateLane (s : State) (f : From) (g : GRef) (lane : Nat) (va : BitVec 56) (write : Bool) : State × Tr :=
  let c := s.windowCause f va
  if c ≠ 0 then (s, .err c)
  else if va.toNat / 2 ^ 52 = 9 then (s, .scratch (va.toNat % 2 ^ 20))
  else
    match (s.group? g).bind fun gr => gr.lastPageOf lane f.part va with
    | some e => (s, checkLeaf e va write)
    | none =>
      match s.leaf f va with
      | (s, .leaf e) =>
        (s.modGroup g fun gr => { gr with lastPage := gr.lastPage.set lane e }, checkLeaf e va write)
      | (s, .err c) => (s, .err c)
      | (s, .busy _) => (s, .busy)

/-- Drop every translation of a partition that covers part of a range (R285 step 1). -/
def State.dropTranslations (s : State) (part lo hi : Nat) : State :=
  let keep : TlbEnt → Bool := fun e => e.part != part || hi ≤ e.page * 2 ^ e.bits || (e.page + 1) * 2 ^ e.bits ≤ lo
  let keepWalk : Nat × Nat × Nat × DWord → Bool := fun x =>
    let sh := (levels[x.2.1]?.map Level.shift).getD 0
    x.1 != part || hi ≤ x.2.2.1 * 2 ^ sh || (x.2.2.1 + 1) * 2 ^ sh ≤ lo
  { s with
    cores := s.cores.map fun e => (e.1, { e.2 with tlb := e.2.tlb.filter keep, victims := e.2.victims.filter keep })
    clusters := s.clusters.map fun e => (e.1, { e.2 with tlb := e.2.tlb.filter keep })
    dies := s.dies.map fun e => (e.1, { e.2 with tlb := e.2.tlb.filter keep, walk := e.2.walk.filter keepWalk })
    teams := s.teams.map fun t =>
      if t.2.part = part then (t.1, { t.2 with groups := t.2.groups.map fun g => { g with lastPage := [] } }) else t }

end Sys2Proof.Machine
end

