-- ==== Sys2Proof/Machine/Issue.lean ====
section
/-!
DEFINITION. Issuing an instruction of a group: its dynamic checks, its meaning, and what every issue does to the group;
the writers of port results; code lines and constant windows.
-/

namespace Sys2Proof.Machine

/-- What an instruction does when it issues. -/
inductive Res where
  /-- It takes effect, and the PC moves past it. -/
  | done (s : State)
  /-- It takes effect and has set the PC itself; `ended` tells whether it ends the run. -/
  | jump (s : State) (ended : Bool)
  /-- It raises a cause, and has no effect. -/
  | cause (code : Nat) (einfo : DWord)
  /-- It raises a cause that is delivered K here. -/
  | kill (code : Nat)
  /-- Its access faults: the team is suspended (R287). -/
  | susp (s : State) (f : PageFault)
  /-- Its split waits (R22). -/
  | wait (s : State) (w : Wait)
  /-- It does not issue yet. -/
  | retry (s : State)

/-- What the checks before issue need to know of an instruction: whether its class ends a run (R35), the latency of its
fixed-latency result, the predicates it reads and those it writes. -/
structure Info where
  ends : Bool := false
  lat : Option Nat := none
  preds : List Nat := []
  pdst : List Nat := []

def Ctx.from (x : Ctx) : From :=
  { core := some x.core, cluster := x.cluster, part := x.team.part, lid := x.team.lid }

/-! ### Code lines -/

/-- The answer of an instruction fetch. -/
inductive Line where
  | words (ws : List Word)
  | err (code : Nat)
  /-- The line, or a table entry, has to be fetched first. -/
  | miss
  deriving DecidableEq, Repr

/-- The instruction line of an address, from the instruction cache (R47, R280, R283, R334). -/
def State.codeLine (s : State) (f : From) (va : BitVec 56) : State × Line :=
  if isPeer va then (s, .err 0x141)
  else
    match s.translate f va false with
    | (s, .ok pa _) =>
      match f.core with
      | some c =>
        match (s.core c).icache.lookup (pa / 128) with
        | some ws => (s, .words ws)
        | none => (s, .miss)
      | none => (s, .miss)
    | (s, .discarded _) => (s, .words (List.replicate 32 0))
    | (s, .scratch _) => (s, .err 0x103)
    | (s, .err c) => (s, .err c)
    | (s, .busy) => (s, .miss)

/-- The marked starts of a line, as word numbers, by linear decode from its first word (R47). -/
def marks (ws : List Word) : Nat → Nat → List Nat
  | 0, _ => []
  | n + 1, p =>
    match ws[p]? with
    | none => []
    | some w => p :: marks ws n (p + formWords (w.toNat % 4))

/-- The answer of the check of a target address (R47). -/
inductive Target where
  | ok | bad | miss
  | err (code : Nat)
  deriving DecidableEq, Repr

/-- The check of a branch target, join address, call target or return address (R47). -/
def State.checkTarget (s : State) (f : From) (va : BitVec 56) : State × Target :=
  if va.toNat % 4 ≠ 0 then (s, .bad)
  else
    match s.codeLine f va with
    | (s, .words ws) => (s, if (marks ws 32 0).contains (va.toNat % 128 / 4) then .ok else .bad)
    | (s, .err c) => (s, .err c)
    | (s, .miss) => (s, .miss)

/-- A translation cause of a fetch: 0x100 suspends the team, the others are delivered K (R282). -/
def fetchRes (s : State) (code : Nat) (va : BitVec 56) : Res :=
  if code = 0x100 then .susp s { cause := code, kind := kindFetch, va } else .kill code

/-- The group waits for a fetch. -/
def State.want (s : State) (g : GRef) (w : Want) : State := s.modGroup g fun gr => { gr with want := some w }

/-- Go on when a target is valid; otherwise raise its cause, or wait for its line (R47). -/
def Ctx.withTarget (x : Ctx) (s : State) (va : BitVec 56) (k : State → Res) : Res :=
  match s.checkTarget x.from va with
  | (s, .ok) => k s
  | (_, .bad) => .cause 0x009 (va.setWidth 64)
  | (s, .err c) => fetchRes s c va
  | (s, .miss) => .retry (s.want x.ref (.fetch va))

/-! ### Constant windows -/

/-- The window and word offset of a constant-window operand (R58). -/
def windowOf (spec : BitVec 23) : Nat × Nat := (spec.toNat / 2 ^ 20, spec.toNat / 2 ^ 3 % 2 ^ 17)

/-- Base and length of a window of the group's node (R58, R361). -/
def State.window (s : State) (t : Team) (w : Nat) : Nat × Nat :=
  match s.node? t.node with
  | some n => n.windows.getD w (0, 0)
  | none => (0, 0)

/-- The answer of a read through the constant cache. -/
inductive Const where
  | word (w : Word)
  | err (code : Nat)
  | miss
  deriving DecidableEq, Repr

/-- A word through the constant cache (R58, R131). -/
def State.constWord (s : State) (f : From) (va : BitVec 56) : State × Const :=
  match s.translate f va false with
  | (s, .ok pa _) =>
    if isPeer va then (s, .err 0x141)
    else
      match f.core with
      | some c =>
        match (s.core c).ccache.get? (pa / 128) with
        | some d => (s, .word (BitVec.ofNat 32 (lineGet d (pa % 128) 4)))
        | none => (s, .miss)
      | none => (s, .miss)
  | (s, .discarded _) => (s, .word 0)
  | (s, .scratch _) => (s, .err 0x103)
  | (s, .err c) => (s, .err c)
  | (s, .busy) => (s, .miss)

/-- A cause of an access of lanes: 0x100 to 0x102 suspend the team, the others are raised (R282). -/
def accessRes (s : State) (code kind : Nat) (va : BitVec 56) (einfo : DWord) : Res :=
  if code = 0x100 ∨ code = 0x101 ∨ code = 0x102 then .susp s { cause := code, kind, va } else .cause code einfo

/-- The words of a constant-window operand: the two words, or the cause or miss of the first that fails, with its address. -/
inductive ConstOp where
  | words (v : DWord)
  | err (code : Nat) (va : BitVec 56)
  | miss (va : BitVec 56)
  deriving DecidableEq, Repr

/-- Read `n` words of a constant-window operand (R58). -/
def Ctx.constOp (x : Ctx) (s : State) (spec : BitVec 23) (n : Nat) : State × ConstOp :=
  let (w, o) := windowOf spec
  let (base, _) := s.window x.team w
  let va0 := BitVec.ofNat 56 (base + 4 * o)
  match s.constWord x.from va0 with
  | (s, .err c) => (s, .err c va0)
  | (s, .miss) => (s, .miss va0)
  | (s, .word lo) =>
    if n = 1 then (s, .words (pair lo 0))
    else
      let va1 := va0 + 4
      match s.constWord x.from va1 with
      | (s, .err c) => (s, .err c va1)
      | (s, .miss) => (s, .miss va1)
      | (s, .word hi) => (s, .words (pair lo hi))

/-- A cause met by the read of a constant window: 0x141 kills the node, the others are those of a read (R282, R355). -/
def constRes (s : State) (code : Nat) (va : BitVec 56) : Res :=
  if code = 0x141 then .kill code else accessRes s code kindRead va 0

/-! ### Dynamic checks -/

/-- A slot-less variable-latency result that is still outstanding writes the location (R43). -/
def State.slotless (s : State) (g : GRef) (l : Loc) : Bool :=
  s.outst.any fun o => o.2.g == g && o.2.sb.isNone && (locsOf o.2.dst o.2.regs).contains l

/-- The latency with which the destination is checked against earlier pending writes (R43): that of a port result; 1 for a result
that is written before the group's next instruction issues, and for one that its split may have to wait for.
DEDUCED, log 48: a variable-latency result over an earlier pending fixed-latency write has no fixed time and is never found too
early. -/
def checkLat (sh : Shape) (nf : Info) : Option Nat := if sh.var then none else some (nf.lat.getD 1)

/-- The checking scoreboard finds a fault (R43): a source or predicate with a pending write, or a destination that would be
written before an earlier pending write. -/
def State.checkScore (s : State) (x : Ctx) (nf : Info) : Bool :=
  let guard := if x.f.h.guard = 7 then [] else [x.f.h.guard.toNat]
  let reads := ((sources x.sh x.f).flatMap fun y => locsOf y.2.1 y.2.2) ++ ((nf.preds ++ guard).map Loc.p)
  let dests := destLocs x.sh x.f ++ nf.pdst.map Loc.p
  (reads.any fun l => x.g.pend.any (fun w => w.loc == l) || s.slotless x.ref l)
  || (dests.any fun l =>
    (match checkLat x.sh nf with
      | some lat => x.g.pend.any fun w => w.loc == l && decide (x.clk + lat < w.at_)
      | none => false)
    || s.slotless x.ref l)

/-- The partition's checking scoreboard is on, as the node latched it (R43, R119). -/
def State.scoreOn (s : State) (t : Team) : Bool :=
  match s.node? t.node with
  | some n => n.chksb
  | none => false

/-- Words of a constant-window operand in position C (R58). -/
def constRegs (sh : Shape) : Nat := match sh.c with | some u => u.n | none => 1

/-- The checks of the registers that an instruction names, in the order of R43: the code and EINFO of the first that fails. -/
def Ctx.regCause (x : Ctx) (nf : Info) (s : State) : Option (Nat × DWord) :=
  match unallotted x.g.n x.sh x.f with
  | some p => some (0x00D, BitVec.ofNat 64 p)
  | none =>
    if s.scoreOn x.team && s.checkScore x nf then some (0x005, 0)
    else (staleAt x.g x.sh x.f).map fun p => (0x004, BitVec.ofNat 64 p)

/-- The checks of R43 and R62 that depend on the state, in their order, and then the instruction's own meaning. A miss of the
constant cache delays the issue, so the registers are checked when the words are there (R58). -/
def Ctx.checked (x : Ctx) (nf : Info) (spec : BitVec 23) (s : State) (body : Ctx → State → Res) : Res :=
  if x.f.c == .cwin then
    let n := constRegs x.sh
    let (w, o) := windowOf spec
    if (s.window x.team w).2 < o + n then .cause 0x003 3
    else
      match x.constOp s spec n with
      | (s, .miss va) => .retry (s.want x.ref (.const va))
      | (s, .err code va) =>
        match x.regCause nf s with
        | some (c, e) => .cause c e
        | none => constRes s code va
      | (s, .words v) =>
        match x.regCause nf s with
        | some (c, e) => .cause c e
        | none => body { x with cw := v } s
  else
    match x.regCause nf s with
    | some (c, e) => .cause c e
    | none => body x s

/-! ### What every issue does -/

/-- The quarter of a core has issued in this cycle (R142). -/
def State.issuedAt (s : State) (core quarter : Nat) : State :=
  s.modCore core fun c => { c with issued := c.issued.set quarter (s.clk + 1) }

/-- The counts and times that an issue changes (R37, R41). -/
def Group.count (g : Group) (clk stall : Nat) : Group :=
  { g with runLen := g.runLen + 1, lastIssue := clk, nextIssue := clk + stall + 1, atEnd := false, waited := 0
           phased := false, banked := none }

/-- The progress count rises by one at an instruction that raises no cause, before its own effect (R141). -/
def Group.progressed (g : Group) : Group := { g with progress := min (g.progress + 1) 0xFFFF }

/-- After an instruction that raised no cause: counts, the PC, and the end of the run. -/
def Ctx.finish (x : Ctx) (jumps ends : Bool) (s : State) : State :=
  s.modGroup x.ref fun g =>
    let g := g.count x.clk x.f.h.stall.toNat
    let g := if jumps then g else g.modSplit x.slot fun sp => { sp with pc := x.next }
    if ends then g.endRun else g

/-- The split waits (R22). -/
def Ctx.sleep (x : Ctx) (w : Wait) (s : State) : State :=
  s.modGroup x.ref fun g => (g.modSplit x.slot fun sp => { sp with st := .waiting, wait := some { w with iss := x.clk } }).endRun

/-- The group's registers as before the instruction; what translation and waiting for a fetch changed stays. -/
def Ctx.undo (x : Ctx) (s : State) : State :=
  s.modGroup x.ref fun g => { x.g with lastPage := g.lastPage, want := g.want, hold := g.hold, holdFar := g.holdFar, stale := g.stale, phased := g.phased }

/-- The context of an issue: results due are visible. -/
def ctxOf (s : State) (i : Instr) (sh : Shape) (f : Fields) (ref : GRef) (t : Team) (c : Nat) (g : Group) : Ctx :=
  let act := (g.split g.cur).mask
  { ref, team := t, core := c, g, clk := s.clk, f, sh, lit := (specOf i).2, cw := 0, act, ex := act &&& guardMask g f.h }

/-- The group does not issue in this cycle after all, and its quarter chooses again (R58, R142). -/
def State.chooseAgain (s : State) (g : GRef) (core quarter : Nat) : State :=
  { s.modGroup g fun gr => { gr with tried := s.clk + 1, banked := none } with agenda := .quarterIssue core quarter :: s.agenda }

/-- Issue an instruction: checks, meaning, and what follows. An instruction that raises a cause has issued (R62): DEDUCED, log 49:
it counts, and its stall count holds back the first instruction of the handler, as R41 says of any instruction that issues. -/
def issueAs (i : Instr) (nf : Info) (body : Ctx → State → Res) (x : Ctx) (s : State) : State :=
  let ends := nf.ends || x.f.h.y
  let s1 := s.modGroup x.ref fun g => (g.killDead x.act x.sh x.f).progressed
  match x.checked nf (specOf i).1 s1 body with
  | .done s => (x.finish false ends s).issuedAt x.core x.g.quarter
  | .jump s ended => (x.finish true (ended || x.f.h.y) s).issuedAt x.core x.g.quarter
  | .cause code einfo =>
    ((s.modGroup x.ref fun g => g.count x.clk x.f.h.stall.toNat).raise x.ref code einfo).issuedAt x.core x.g.quarter
  | .kill code =>
    ((s.modGroup x.ref fun gr => { gr.endRun with cur := gr.cur }).killNode x.team.node code).issuedAt x.core x.g.quarter
  | .susp s f => ((x.undo s).suspend x.ref f).issuedAt x.core x.g.quarter
  | .wait s w => (x.sleep w (x.finish false false s)).issuedAt x.core x.g.quarter
  | .retry s => (x.undo s).chooseAgain x.ref x.core x.g.quarter

/-- The issue of an encoded instruction by the group that `cur` names: its context, and the state in which the results that are
due have landed and no group issues next; none where `cur` names no group on a core. -/
def issueOf (i : Instr) (s : State) : Option (Ctx × State) :=
  match s.cur with
  | none => none
  | some ref =>
    match s.team? ref.team, shapeOf i, fieldsOf i with
    | some t, some sh, some f =>
      match t.core?, t.group? ref.grp with
      | some c, some g =>
        let g := g.landDue s.clk
        let s := { s with cur := none }.modGroup ref fun _ => g
        some (ctxOf s i sh f ref t c g, s)
      | _, _ => none
    | _, _, _ => none

/-- Execute an instruction of the group that issues: `cur` names it, and no group issues next. -/
def runGroup (i : Instr) (nf : Info) (body : Ctx → State → Res) (s : State) : Host.Outcome State Fault Refusal :=
  match issueOf i s with
  | none => .fault .noIssuer
  | some (x, s) => .next (issueAs i nf body x s)

/-! ### Results -/

/-- The two ports of a quarter (R32). -/
inductive PortAB where
  | a | b
  deriving DecidableEq, Repr

/-- A pending write of words by a split. -/
def pendV (at_ slot : Nat) (loc : Loc) (lanes : Mask) (val : LVec) : PendWrite := { at_, slot, loc, lanes, val, bits := 0 }

/-- The write to the destination of a port result; latch-only destinations have none, and a uniform destination is written
only when a lane executes (R33, R53). -/
def dstWrite (at_ slot : Nat) (dst : Operand) (i : Nat) (ex : Mask) (v : LVec) : List PendWrite :=
  match dst with
  | .v n => [pendV at_ slot (.v (n.toNat + i)) ex v]
  | .s n => if ex = 0 then [] else [pendV at_ slot (.s (n.toNat + i)) ex v]
  | .oc n => [pendV at_ slot (.oc n.toNat) ex v]
  | _ => []

/-- The write to a port's latch (R33). -/
def latchWrite (at_ slot : Nat) (p : PortAB) (ex : Mask) (v : LVec) : PendWrite :=
  pendV at_ slot (match p with | .a => .la | .b => .lb) ex v

/-- Add pending results to the issuing group. -/
def Ctx.post (x : Ctx) (s : State) (ws : List PendWrite) : State :=
  s.modGroup x.ref fun g => { g with pend := g.pend ++ ws.map fun w => { w with iss := x.clk } }

/-- A 32-bit port result: destination and latch (R33). -/
def Ctx.put (x : Ctx) (p : PortAB) (lat : Nat) (v : LVec) (s : State) : State :=
  x.post s (dstWrite (x.clk + lat) x.slot x.f.dst 0 x.ex v ++ [latchWrite (x.clk + lat) x.slot p x.ex v])

/-- A 64-bit port result: a pair, the low word to the latch (R33). -/
def Ctx.put64 (x : Ctx) (p : PortAB) (lat : Nat) (v : Nat → DWord) (s : State) : State :=
  let lo := LVec.tab fun l => (v l).setWidth 32
  let hi := LVec.tab fun l => (v l >>> 32).setWidth 32
  x.post s (dstWrite (x.clk + lat) x.slot x.f.dst 0 x.ex lo ++ dstWrite (x.clk + lat) x.slot x.f.dst 1 x.ex hi
    ++ [latchWrite (x.clk + lat) x.slot p x.ex lo])

/-- A predicate result, written in the executing lanes; p7 is discarded (R100). -/
def Ctx.putP (x : Ctx) (lat : Nat) (pd : Nat) (bits : Mask) (s : State) : State :=
  if pd = 7 then s
  else x.post s [{ at_ := x.clk + lat, slot := x.slot, loc := .p pd, lanes := x.ex, val := LVec.zero, bits }]

/-- An instruction of port A with a 32-bit result (latency 4). -/
def aluA (i : Instr) (v : Ctx → LVec) (s : State) : Host.Outcome State Fault Refusal :=
  runGroup i { lat := some 4 } (fun x s => .done (x.put .a 4 (v x) s)) s

/-- An instruction of port A with a 64-bit result. -/
def aluA64 (i : Instr) (v : Ctx → Nat → DWord) (s : State) : Host.Outcome State Fault Refusal :=
  runGroup i { lat := some 4 } (fun x s => .done (x.put64 .a 4 (v x) s)) s

/-- An instruction of port B with a 32-bit result. -/
def aluB (i : Instr) (lat : Nat) (v : Ctx → LVec) (s : State) : Host.Outcome State Fault Refusal :=
  runGroup i { lat := some lat } (fun x s => .done (x.put .b lat (v x) s)) s

/-- A lane-wise function of one, two or three 32-bit sources. -/
def Ctx.map1 (x : Ctx) (k : Kind) (f : Word → Word) : LVec :=
  let a := x.src k x.f.a
  LVec.tab fun l => f (LVec.at a l)

def Ctx.map2 (x : Ctx) (k : Kind) (f : Word → Word → Word) : LVec :=
  let a := x.src k x.f.a
  let b := x.src k x.f.b
  LVec.tab fun l => f (LVec.at a l) (LVec.at b l)

def Ctx.map3 (x : Ctx) (k : Kind) (f : Word → Word → Word → Word) : LVec :=
  let a := x.src k x.f.a
  let b := x.src k x.f.b
  let c := x.src k x.f.c
  LVec.tab fun l => f (LVec.at a l) (LVec.at b l) (LVec.at c l)

end Sys2Proof.Machine
end

