-- ==== Sys2Proof/Machine/Control.lean ====
section
/-!
DEFINITION. Control and system instructions, opcodes 0x90 to 0x9A
(spec/06_control_crosslane_lane_memory.md R111–R119, spec/01_lanes_groups_splits.md R17–R21).
-/

namespace Sys2Proof.Machine

/-! ### Division -/

/-- The paths of a division pushed on the split's own stack (R19); none when DEPTH would pass 8. -/
def Group.pushPaths (g : Group) (slot : Nat) (join : BitVec 56) (m : Mask) (paths : List (BitVec 56 × Mask)) :
    Option Group :=
  let sp := g.split slot
  if 8 < sp.stack.length + paths.length then none
  else
    match paths with
    | [] => some g
    | (pc, mask) :: rest =>
      let pushed := rest.map (fun p => StackEnt.path p.1 p.2 join) ++ [.reconverge join m]
      some (g.modSplit slot fun sp => { sp with pc, mask, stack := pushed ++ sp.stack })

/-- The paths of a division take split slots and a join-table entry (R18). -/
def Group.takeSlots (g : Group) (slot entry : Nat) (join : BitVec 56) (m : Mask) (free : List Nat)
    (paths : List (BitVec 56 × Mask)) : Group :=
  match paths with
  | [] => g
  | (pc, mask) :: rest =>
    let parent := (g.split slot).jrec
    let jrec := BitVec.ofNat 2 entry
    let g := { g with joins := g.joins.set entry { j := join, m, a := 0, parent } }
    let g := g.modSplit slot fun sp => { sp with pc, mask, jrec }
    (free.zip rest).foldl (fun g x => g.modSplit x.1 fun _ => { st := .runnable, pc := x.2.1, mask := x.2.2, jrec }) g

/-- Divide a split over paths in ascending order of next PC (R18, R19, R118); none raises 0x00C.
A split whose path stack holds entries takes slots as any other, and its slot keeps the stack. DEDUCED, log 34. -/
def Group.divide (g : Group) (slot : Nat) (join : BitVec 56) (m : Mask) (paths : List (BitVec 56 × Mask)) : Option Group :=
  let free := [0, 1, 2, 3].filter fun i => (g.split i).st == .free
  let entry := [0, 1, 2].find? fun e => (g.joins.get? e).isNone
  match entry with
  | some e =>
    if g.trap.handling.isNone && decide (paths.length - 1 ≤ free.length) then some (g.takeSlots slot e join m free paths)
    else g.pushPaths slot join m paths
  | none => g.pushPaths slot join m paths

/-- Set the PC of the issuing split. -/
def Ctx.goto (x : Ctx) (pc : BitVec 56) (s : State) : State :=
  s.modGroup x.ref fun g => g.modSplit x.slot fun sp => { sp with pc }

/-- Divide the issuing split, or raise 0x00C before any state changes (R19). -/
def Ctx.split (x : Ctx) (join : BitVec 56) (paths : List (BitVec 56 × Mask)) (s : State) : Res :=
  match s.group? x.ref with
  | none => .retry s
  | some g =>
    match g.divide x.slot join x.act paths with
    | none => .cause 0x00C 0
    | some g' => .jump (s.modGroup x.ref fun _ => g') true

/-! ### BRA and BRX -/

/-- Address of the instruction + 4 × a signed count of words. -/
def Ctx.rel (x : Ctx) (n : BitVec 56) : BitVec 56 := x.pc + 4 * n

/-- The join address of BRA (R111). -/
def braJoin (x : Ctx) (w : ExtA) : BitVec 56 :=
  match w.b with
  | .imm k => x.rel (k.signExtend 56)
  | .lit => x.rel ((w.lit.setWidth 32).signExtend 56)
  | _ => x.next

/-- BRA (R111): TOFF is SPEC. -/
def execBra (w : ExtA) (s : State) :=
  runGroup (.bra w) {} (fun x s =>
    let t := x.rel (w.spec.signExtend 56)
    let rest := x.act &&& ~~~x.ex
    if x.ex = 0 then .jump (x.goto x.next s) false
    else
      x.withTarget s t fun s =>
        if rest = 0 || t == x.next then .jump (x.goto t s) false
        else
          x.withTarget s (braJoin x w) fun s =>
            x.split (braJoin x w)
              (if t.toNat < x.next.toNat then [(t, x.ex), (x.next, rest)] else [(x.next, rest), (t, x.ex)]) s) s

/-- Check several targets in order, then go on. -/
def Ctx.withTargets (x : Ctx) (k : State → Res) : List (BitVec 56) → State → Res
  | [], s => k s
  | t :: r, s => x.withTarget s t fun s => x.withTargets k r s

/-- Distinct next PCs in ascending order, with their lanes. -/
def pathsOf (nexts : List (Nat × BitVec 56)) : List (BitVec 56 × Mask) :=
  let pcs := sortBy (fun a b => a.toNat ≤ b.toNat) (nexts.map (·.2)).eraseDups
  pcs.map fun pc => (pc, maskOf fun l => nexts.contains (l, pc))

/-- BRX (R112): JOFF is SPEC. -/
def execBrx (w : ExtA) (s : State) :=
  runGroup (.brx w) { ends := true } (fun x s =>
    let target (l : Nat) : BitVec 56 := (x.src64 w.a l).setWidth 56
    let nexts := (Mask.list x.act).map fun l => (l, if x.ex.getLsbD l then target l else x.next)
    let join := if w.spec = 0 then x.next else x.rel (w.spec.signExtend 56)
    x.withTargets (fun s =>
      match pathsOf nexts with
      | [] => .jump (x.goto x.next s) true
      | [(pc, _)] => .jump (x.goto pc s) true
      | paths => x.withTarget s join fun s => x.split join paths s)
      ((Mask.list x.ex).map target).eraseDups s) s

/-! ### Writing a register at once -/

/-- A value written to the destination register in the executing lanes before the group's next instruction issues (R119).
DESIGN CHOICE, log 47: it counts as written in the cycle of issue, so that an earlier port result of its split to the same location
that becomes visible in the next cycle is no case of 0x005 and stays. -/
def Ctx.now (x : Ctx) (v : Nat → Word) (s : State) : State :=
  s.modGroup x.ref fun g =>
    match x.f.dst with
    | .v n => g.setV n.toNat x.ex (LVec.tab v)
    | .s n => if x.ex = 0 then g else g.setSBy x.slot x.clk n.toNat (v (Mask.lowest x.ex))
    | _ => g

/-- A 64-bit value written to the destination pair at once. -/
def Ctx.now64 (x : Ctx) (v : Nat → DWord) (s : State) : State :=
  s.modGroup x.ref fun g =>
    let lo (l : Nat) : Word := (v l).setWidth 32
    let hi (l : Nat) : Word := (v l >>> 32).setWidth 32
    match x.f.dst with
    | .v n => (g.setV n.toNat x.ex (LVec.tab lo)).setV (n.toNat + 1) x.ex (LVec.tab hi)
    | .s n =>
      if x.ex = 0 then g
      else (g.setSBy x.slot x.clk n.toNat (lo (Mask.lowest x.ex))).setSBy x.slot x.clk (n.toNat + 1) (hi (Mask.lowest x.ex))
    | _ => g

/-- A predicate written at once in the executing lanes. -/
def Ctx.nowP (x : Ctx) (p : Nat) (bits : Mask) (s : State) : State := s.modGroup x.ref fun g => g.setP p x.ex bits

/-! ### CALL, RET, EXIT -/

/-- CALL (R113): TOFF is SPEC when A is Zero. -/
def execCall (w : ExtA) (s : State) :=
  runGroup (.call w) { ends := true, lat := some 1 } (fun x s =>
    let a := x.src64 w.a 0
    if w.a ≠ .zero ∧ a >>> 56 ≠ 0 then .cause 0x009 a
    else
      let t := if w.a = .zero then x.rel (w.spec.signExtend 56) else a.setWidth 56
      x.withTarget s t fun s => .jump (x.goto t (x.now64 (fun _ => x.next.setWidth 64) s)) true) s

/-- RET (R113). -/
def execRet (w : ExtA) (s : State) :=
  runGroup (.ret w) { ends := true } (fun x s =>
    let t : BitVec 56 := (x.src64 w.a (Mask.lowest x.act)).setWidth 56
    x.withTarget s t fun s => .jump (x.goto t s) true) s

/-- The executing lanes of a split exit (R21, R114, R118). -/
def Group.exitLanes (g : Group) (slot : Nat) (m : Mask) (next : BitVec 56) : Group :=
  let g := g.dropExited m
  let g := g.modSplit slot fun sp => { sp with pc := next, mask := sp.mask &&& ~~~m }
  if g.trap.handling = some slot ∧ g.trap.emask &&& g.live = 0 then g.endHandler slot
  else
    let g := if (g.split slot).mask = 0 then g.modSplit slot fun sp => refill sp sp.stack else g
    g.mergeAll

/-- A variable-latency result of some lanes that no slot announces has not landed: EXIT waits for it, as the values at the issue of
EXIT in the walk of R268 have it. DEDUCED, log 66. -/
def State.owes (s : State) (g : GRef) (m : Mask) : Bool :=
  s.outst.any fun o => o.2.g == g && o.2.sb.isNone && o.2.regs != 0 && o.2.lanes &&& m != 0

/-- What EXIT does; a barrier whose last outstanding lanes exit may complete (R170). -/
def exitBody (x : Ctx) (s : State) : Res :=
  if s.owes x.ref x.ex then .retry s else
  .jump ((s.modGroup x.ref fun g => g.exitLanes x.slot x.ex x.next).recheckBars x.ref.team) true

/-- EXIT (R114). -/
def execExit (w : Base) (s : State) := runGroup (.exit w) { ends := true } exitBody s
def execExitExt (w : ExtA) (s : State) := runGroup (.exitExt w) { ends := true } exitBody s

/-! ### NOP and YIELD -/

/-- NOP (R115). -/
def execNop (w : Base) (s : State) := runGroup (.nop w) {} (fun _ s => .done s) s
def execNopExt (w : ExtA) (s : State) := runGroup (.nopExt w) {} (fun _ s => .done s) s

/-- YIELD (R115): a run end. -/
def execYield (w : Base) (s : State) := runGroup (.yield w) { ends := true } (fun _ s => .done s) s
def execYieldExt (w : ExtA) (s : State) := runGroup (.yieldExt w) { ends := true } (fun _ s => .done s) s

/-! ### Traps and system registers -/

/-- TRAP (R116): the code in SPEC [16:9]. -/
def execTrap (w : ExtA) (s : State) :=
  runGroup (.trap w) { ends := true } (fun x s =>
    if x.ex = 0 then .done s else .cause 0x007 (BitVec.ofNat 64 (w.f 16 9))) s

/-- What ERET does (R118). -/
def eretBody (x : Ctx) (s : State) : Res :=
  if x.ex = 0 ∨ x.g.trap.handling ≠ some x.slot then .done s
  else .jump (s.modGroup x.ref fun g => g.endHandler x.slot) true

/-- ERET (R118). -/
def execEret (w : Base) (s : State) := runGroup (.eret w) { ends := true } eretBody s
def execEretExt (w : ExtA) (s : State) := runGroup (.eretExt w) { ends := true } eretBody s

/-- A system register's value (R119). -/
def sysValue (x : Ctx) (s : State) (n : Nat) : DWord :=
  let t := x.g.trap
  match n with
  | 0x00 => t.tvec
  | 0x01 => t.ecause.setWidth 64
  | 0x02 => t.epc
  | 0x03 => t.emask.setWidth 64
  | 0x04 => t.einfo
  | 0x05 => t.eslot.setWidth 64
  | 0x08 => x.g.srstate.setWidth 64
  | 0x10 => match s.node? x.team.node with | some nd => nd.srbase.setWidth 64 | none => 0
  | 0x11 => match s.node? x.team.node with | some nd => if nd.chksb then 1 else 0 | none => 0
  | _ => 0

/-- RDSYS (R119): the register number in SPEC [16:9]. -/
def execRdsys (w : ExtA) (s : State) :=
  runGroup (.rdsys w) { ends := true, lat := some 1 } (fun x s =>
    let n := w.f 16 9
    let v := sysValue x s n
    .done (if sysWide n then x.now64 (fun _ => v) s else x.now (fun _ => v.setWidth 32) s)) s

/-- The register may not be written: kernel code may write no privileged one, and nobody one that is read only (R29, R119).
DEDUCED, log 71: 0x00A for a read-only register in privileged code too, of which R119 does not speak. -/
def sysDenied (n : Nat) (priv : Bool) : Bool :=
  n == 1 || n == 3 || n == 4 || n == 5 || (!priv && (n == 0x10 || n == 0x11))

/-- The write of a system register (R119). `srbase` and `chksb` are fields of the partition's PCFG: a write applies from the next
node started, and the nodes in flight, the writer's own among them, keep what they latched (R80, R289). DEDUCED, log 51: RDSYS reads
the node's latched copy. -/
def Ctx.writeSys (x : Ctx) (n : Nat) (v : DWord) (s : State) : State :=
  match n with
  | 0x00 => s.modGroup x.ref fun g => { g with trap := { g.trap with tvec := v &&& ~~~3#64 } }
  | 0x02 => s.modGroup x.ref fun g => { g with trap := { g.trap with epc := v } }
  | 0x08 => s.modGroup x.ref fun g => { g with srstate := if v.setWidth 32 = 0#32 then 1 else v.setWidth 32 }
  | 0x10 => s.modPart x.team.part fun p => { p with pcfg := v.setWidth 32 ++ p.pcfg.extractLsb' 0 32 }
  | 0x11 => s.modPart x.team.part fun p => { p with pcfg := (p.pcfg &&& ~~~1#64) ||| (v &&& 1#64) }
  | _ => s

/-- WRSYS (R119): the register number in SPEC [16:9]. -/
def execWrsys (w : ExtA) (s : State) :=
  runGroup (.wrsys w) { ends := true } (fun x s =>
    let n := w.f 16 9
    let l := Mask.lowest x.ex
    if x.ex = 0 then .done s
    else if sysDenied n x.team.priv then .cause 0x00A (BitVec.ofNat 64 n)
    else .done (x.writeSys n (if sysWide n then x.src64 w.a l else (LVec.at (x.src .int w.a) l).setWidth 64) s)) s

end Sys2Proof.Machine
end

