-- ==== Sys2Proof/Machine/Special.lean ====
section
/-!
DEFINITION. The special functions, correctly rounded (spec/05_arithmetic_conversion.md R97).
FRCP, FRSQ and FSQRT are rounded from their exact values.
The transcendental functions are enclosed between two multiples of 2^−320; where both ends round to one code, that code is
the correctly rounded result, by monotonicity of rounding.
-/

namespace Sys2Proof.Machine

/-- Fraction bits of the fixed-point evaluations. -/
def fxBits : Nat := 320

/-- Half the width of the enclosures, in units of 2^−320; every evaluation below makes fewer than 2^12 truncations. -/
def fxSlack : Int := 2 ^ 24

/-- Fixed-point product with `b` fraction bits, rounded down. -/
def fxMul (b : Nat) (x y : Int) : Int := x * y / 2 ^ b

/-- Σ x^k / k! for k up to `n`, by Horner's scheme: `fuel` counts down from n. -/
def fxExp (b : Nat) (x : Int) : Nat → Int → Int
  | 0, acc => acc
  | k + 1, acc => fxExp b x k (2 ^ b + fxMul b x acc / (k + 1))

/-- Σ z^(2k+1) / (2k+1) for k below n: the inverse hyperbolic tangent. -/
def fxAtanh (b : Nat) (z2 : Int) : Nat → Int → Int
  | 0, acc => acc
  | k + 1, acc => fxAtanh b z2 k (2 ^ b / (2 * k + 1) + fxMul b z2 acc)

/-- ln 2 = 2 atanh(1/3). -/
def fxLn2 (b : Nat) : Int :=
  let z : Int := 2 ^ b / 3
  2 * fxMul b z (fxAtanh b (2 ^ b / 9) (b / 3 + 2) 0)

/-- Σ (−1)^k / ((2k+1) n^(2k+1)): the inverse tangent of 1/n; `t` is the current power. -/
def fxAtanInv (n : Int) : Nat → Nat → Int → Int → Int
  | 0, _, _, acc => acc
  | fuel + 1, k, t, acc =>
    let term := t / (2 * k + 1)
    fxAtanInv n fuel (k + 1) (t / (n * n)) (if k % 2 = 0 then acc + term else acc - term)

/-- π, by Machin's formula. -/
def fxPi (b : Nat) : Int :=
  4 * (4 * fxAtanInv 5 (b / 4 + 2) 0 (2 ^ b / 5) 0 - fxAtanInv 239 (b / 15 + 2) 0 (2 ^ b / 239) 0)

/-- Σ (−1)^k x^(2k) / (2k)! (cosine, `odd` = 0) or x^(2k) / (2k+1)! (sine over x, `odd` = 1), Horner, k from fuel down. -/
def fxTrig (b odd : Nat) (x2 : Int) : Nat → Int → Int
  | 0, acc => acc
  | k + 1, acc => fxTrig b odd x2 k (2 ^ b - fxMul b x2 acc / ((2 * k + 1 + odd) * (2 * k + 2 + odd) : Nat))

/-- A signed dyadic on the grid 2^−b, rounded down. -/
def fxOf (b : Nat) (neg : Bool) (m : Nat) (e : Int) : Int :=
  let n : Int := shl m (e + b)
  if neg then -n - (if shlExact m (e + b) then 0 else 1) else n

/-- Round an enclosure [lo, hi] × 2^−b to FP32; a free value where its ends round apart (log 5). -/
def fxRound (b : Nat) (lo hi : Int) : Nat :=
  let r : Int → Nat := fun i => fp32.round .rne false 0 (.ofInt i (-(b : Int)) false)
  if r lo = r hi then r lo else (Config.freeWord (r lo)).toNat

/-- 2^x. -/
def exp2Val (neg : Bool) (m : Nat) (e : Int) : Nat :=
  let b := fxBits
  let i := fxOf b neg m e
  if (128 : Int) * 2 ^ b ≤ i then fp32.round .rne false 0 (.num false 1 128)
  else if i < (-151 : Int) * 2 ^ b then 0
  else
    let n := i / 2 ^ b
    let f := i % 2 ^ b
    if f = 0 && shlExact m (e + b) then fp32.round .rne false 0 (.num false 1 n)
    else
      let y := fxExp b (fxMul b f (fxLn2 b)) 90 (2 ^ b)
      let r : Int → Nat := fun v => fp32.round .rne false 0 (.ofInt v (n - b) false)
      if r (y - fxSlack) = r (y + fxSlack) then r y else (Config.freeWord (r y)).toNat

/-- log2 of m × 2^e, m positive. -/
def log2Val (m : Nat) (e : Int) : Nat :=
  let b := fxBits
  let l := Nat.log2 m
  let k : Int := (l : Int) + e
  if m = 2 ^ l then fp32.round .rne false 0 (.ofInt k 0 false)
  else
    let x : Int := shl m ((b : Int) - l)
    let z := (x - 2 ^ b) * 2 ^ b / (x + 2 ^ b)
    let ln := 2 * fxMul b z (fxAtanh b (fxMul b z z) (b / 3 + 2) 0)
    let y := k * 2 ^ b + ln * 2 ^ b / fxLn2 b
    fxRound b (y - fxSlack) (y + fxSlack)

/-- x reduced modulo π/2: the quadrant mod 4 and the rest, on the grid 2^−320. -/
def reducePi (neg : Bool) (m : Nat) (e : Int) : Nat × Int :=
  let b := 768
  let half := fxPi b / 2
  let x := fxOf b neg m e
  let q := x / half
  ((q % 4).toNat, (x - q * half) / 2 ^ (b - fxBits))

/-- sin or cos of a nonzero dyadic; `shift` is the quadrant added: 0 sine, 1 cosine. -/
def trigVal (shift : Nat) (neg : Bool) (m : Nat) (e : Int) : Nat :=
  let b := fxBits
  let (q, r) := reducePi neg m e
  let r2 := fxMul b r r
  let y :=
    match (q + shift) % 4 with
    | 0 => fxMul b r (fxTrig b 1 r2 60 (2 ^ b))
    | 1 => fxTrig b 0 r2 60 (2 ^ b)
    | 2 => -(fxMul b r (fxTrig b 1 r2 60 (2 ^ b)))
    | _ => -(fxTrig b 0 r2 60 (2 ^ b))
  fxRound b (y - fxSlack) (y + fxSlack)

/-- tanh of a nonzero dyadic magnitude, with its sign. -/
def tanhVal (neg : Bool) (m : Nat) (e : Int) : Nat :=
  let b := fxBits
  let x := fxOf b false m e
  if (16 : Int) * 2 ^ b ≤ x then fp32.signed neg 0x3F800000
  else
    let n := 2 * x / 2 ^ b
    let t := fxExp b (2 * x % 2 ^ b) 90 (2 ^ b)
    let t := (List.range n.toNat).foldl (fun acc _ => fxMul b acc (fxExp b (2 ^ b) 90 (2 ^ b))) t
    let y := (t - 2 ^ b) * 2 ^ b / (t + 2 ^ b)
    let r := fxRound b (y - fxSlack) (y + fxSlack)
    fp32.signed neg r

/-- FRCP (R97). -/
def frcp (v : Val) : Nat :=
  match v with
  | .num neg m e => if m = 0 then fp32.ofInf neg false else fp32.roundMag .rne false neg 0 (.quot 1 m (-e))
  | .inf neg => fp32.signed neg 0
  | _ => fp32.nan

/-- A dyadic with an even exponent. -/
def evenExp (m : Nat) (e : Int) : Nat × Int := if e % 2 = 0 then (m, e) else (2 * m, e - 1)

/-- FRSQ (R97). -/
def frsq (v : Val) : Nat :=
  match v with
  | .num neg m e =>
    if m = 0 then fp32.ofInf neg false
    else if neg then fp32.nan
    else
      let (m, e) := evenExp m e
      fp32.roundMag .rne false false 0 (.rsqrt m e)
  | .inf false => 0
  | _ => fp32.nan

/-- FSQRT (R97). -/
def fsqrt (v : Val) : Nat :=
  match v with
  | .num neg m e =>
    if m = 0 then fp32.signed neg 0
    else if neg then fp32.nan
    else
      let (m, e) := evenExp m e
      fp32.roundMag .rne false false 0 (.sqrt m e)
  | .inf false => fp32.ofInf false false
  | _ => fp32.nan

/-- FEXP2 (R97). -/
def fexp2 (v : Val) : Nat :=
  match v with
  | .num neg m e => if m = 0 then 0x3F800000 else exp2Val neg m e
  | .inf true => 0
  | .inf false => fp32.ofInf false false
  | _ => fp32.nan

/-- FLOG2 (R97). -/
def flog2 (v : Val) : Nat :=
  match v with
  | .num neg m e => if m = 0 then fp32.ofInf true false else if neg then fp32.nan else log2Val m e
  | .inf false => fp32.ofInf false false
  | _ => fp32.nan

/-- FSIN (R97). -/
def fsin (v : Val) : Nat :=
  match v with
  | .num neg m e => if m = 0 then fp32.signed neg 0 else trigVal 0 neg m e
  | _ => fp32.nan

/-- FCOS (R97). -/
def fcos (v : Val) : Nat :=
  match v with
  | .num neg m e => if m = 0 then 0x3F800000 else trigVal 1 neg m e
  | _ => fp32.nan

/-- FTANH (R97). -/
def ftanh (v : Val) : Nat :=
  match v with
  | .num neg m e => if m = 0 then fp32.signed neg 0 else tanhVal neg m e
  | .inf neg => fp32.signed neg 0x3F800000
  | _ => fp32.nan

end Sys2Proof.Machine
end

