-- ==== Sys2Proof/Machine/FloatArith.lean ====
section
/-!
DEFINITION. FP32 arithmetic, special functions, packed 16-bit arithmetic and FDOT2, opcodes 0x40 to 0x58
(spec/05_arithmetic_conversion.md R95–R99).
-/

namespace Sys2Proof.Machine

/-! ### Operations on codes of a floating format -/

/-- The code of a value rounded in a mode, without saturation (R83). -/
def FltFmt.out (f : FltFmt) (mode : Rnd) (v : Val) : Nat := f.round mode false 0 v

/-- A code with its sign flipped when asked (R95). -/
def FltFmt.flip (f : FltFmt) (neg : Bool) (c : Nat) : Nat :=
  if neg then (c ^^^ 2 ^ f.sign) % 2 ^ (f.sign + 1) else c % 2 ^ (f.sign + 1)

/-- a + b, rounded once (R83, R95). -/
def FltFmt.addC (f : FltFmt) (mode : Rnd) (a b : Nat) : Nat := f.out mode ((f.val a).add (f.val b) mode)

/-- a × b, rounded once. -/
def FltFmt.mulC (f : FltFmt) (mode : Rnd) (a b : Nat) : Nat := f.out mode ((f.val a).mul (f.val b))

/-- a × b + c, rounded once. -/
def FltFmt.fmaC (f : FltFmt) (mode : Rnd) (a b c : Nat) : Nat :=
  f.out mode (((f.val a).mul (f.val b)).add (f.val c) mode)

/-- The order of FMIN and FMAX: −0 below +0 (R96). -/
def FltFmt.below (f : FltFmt) (a b : Nat) : Bool :=
  let x := f.val a
  let y := f.val b
  x.lt y || (x.eq y && a / 2 ^ f.sign % 2 == 1 && b / 2 ^ f.sign % 2 == 0)

/-- FMIN and FMAX (R96). -/
def FltFmt.minmax (f : FltFmt) (isMax : Bool) (a b : Nat) : Nat :=
  match (f.val a).isNan, (f.val b).isNan with
  | true, true => f.nan
  | true, false => b
  | false, true => a
  | false, false => if (if isMax then f.below a b else f.below b a) then b else a

/-- Two sources of FP32 with their negation bits (R95). -/
def f32Op2 (mod2 : Nat) (op : Nat → Nat → Nat) (a b : Word) : Word :=
  BitVec.ofNat 32 (op (fp32.flip (mod2 % 2 == 1) a.toNat) (fp32.flip (mod2 / 2 % 2 == 1) b.toNat))

def faddW (mod mod2 : Nat) : Word → Word → Word := f32Op2 mod2 (fp32.addC (Rnd.ofField (mod % 4)))

def fmulW (mod mod2 : Nat) : Word → Word → Word := f32Op2 mod2 (fp32.mulC (Rnd.ofField (mod % 4)))

def fminmaxW (isMax : Bool) (mod2 : Nat) : Word → Word → Word := f32Op2 mod2 (fp32.minmax isMax)

def ffmaW (mod mod2 : Nat) (negc : Bool) (a b c : Word) : Word :=
  BitVec.ofNat 32 (fp32.fmaC (Rnd.ofField (mod % 4)) (fp32.flip (mod2 % 2 == 1) a.toNat)
    (fp32.flip (mod2 / 2 % 2 == 1) b.toNat) (fp32.flip negc c.toNat))

/-! ### FP32 -/

/-- FADD (R95). -/
def execFadd (w : Base) := aluA (.fadd w) fun x => x.map2 .f32 (faddW 0 0)
def execFaddExt (w : ExtA) := aluA (.faddExt w) fun x => x.map2 .f32 (faddW w.mod w.mod2)

/-- FMUL (R95). -/
def execFmul (w : Base) := aluA (.fmul w) fun x => x.map2 .f32 (fmulW 0 0)
def execFmulExt (w : ExtA) := aluA (.fmulExt w) fun x => x.map2 .f32 (fmulW w.mod w.mod2)

/-- FFMA (R95). -/
def execFfma (w : ExtA) := aluA (.ffma w) fun x => x.map3 .f32 (ffmaW w.mod w.mod2 (w.f 9 9 == 1))

/-- FMIN (R96). -/
def execFmin (w : Base) := aluA (.fmin w) fun x => x.map2 .f32 (fminmaxW false 0)
def execFminExt (w : ExtA) := aluA (.fminExt w) fun x => x.map2 .f32 (fminmaxW false w.mod2)

/-- FMAX (R96). -/
def execFmax (w : Base) := aluA (.fmax w) fun x => x.map2 .f32 (fminmaxW true 0)
def execFmaxExt (w : ExtA) := aluA (.fmaxExt w) fun x => x.map2 .f32 (fminmaxW true w.mod2)

/-- The lanes of FCLS: class_bit(a) AND mask (R96). DEDUCED, log 55: the mask is R57's kind "predicate or mask", which no small
immediate and no literal supplies (0x003, OpTable's srcMask). -/
def fclsV (x : Ctx) (w : ExtA) : LVec :=
  let a := x.src .f32 w.a
  let m := x.src .int w.b
  LVec.tab fun l => BitVec.ofNat 32 (2 ^ fclass (LVec.at a l)) &&& LVec.at m l

/-- FCLS (R96). -/
def execFcls (w : ExtA) (s : State) :=
  let pen := w.f 12 12 == 1
  runGroup (.fcls w) { lat := some 4, pdst := if pen then [w.f 11 9] else [] } (fun x s =>
    let v := fclsV x w
    let s := x.put .a 4 v s
    .done (if pen then x.putP 4 (w.f 11 9) (maskOf fun l => LVec.at v l != 0) s else s)) s

/-! ### Special functions -/

/-- A special function of an FP32 source (R97). -/
def specialW (f : Val → Nat) (a : Word) : Word := BitVec.ofNat 32 (f (fp32.val a.toNat))

/-- FRCP (R97). -/
def execFrcp (w : Base) := aluB (.frcp w) 12 fun x => x.map1 .f32 (specialW frcp)
def execFrcpExt (w : ExtA) := aluB (.frcpExt w) 12 fun x => x.map1 .f32 (specialW frcp)

/-- FRSQ (R97). -/
def execFrsq (w : Base) := aluB (.frsq w) 12 fun x => x.map1 .f32 (specialW frsq)
def execFrsqExt (w : ExtA) := aluB (.frsqExt w) 12 fun x => x.map1 .f32 (specialW frsq)

/-- FSQRT (R97). -/
def execFsqrt (w : Base) := aluB (.fsqrt w) 12 fun x => x.map1 .f32 (specialW fsqrt)
def execFsqrtExt (w : ExtA) := aluB (.fsqrtExt w) 12 fun x => x.map1 .f32 (specialW fsqrt)

/-- FEXP2 (R97). -/
def execFexp2 (w : Base) := aluB (.fexp2 w) 12 fun x => x.map1 .f32 (specialW fexp2)
def execFexp2Ext (w : ExtA) := aluB (.fexp2Ext w) 12 fun x => x.map1 .f32 (specialW fexp2)

/-- FLOG2 (R97). -/
def execFlog2 (w : Base) := aluB (.flog2 w) 12 fun x => x.map1 .f32 (specialW flog2)
def execFlog2Ext (w : ExtA) := aluB (.flog2Ext w) 12 fun x => x.map1 .f32 (specialW flog2)

/-- FSIN (R97). -/
def execFsin (w : Base) := aluB (.fsin w) 12 fun x => x.map1 .f32 (specialW fsin)
def execFsinExt (w : ExtA) := aluB (.fsinExt w) 12 fun x => x.map1 .f32 (specialW fsin)

/-- FCOS (R97). -/
def execFcos (w : Base) := aluB (.fcos w) 12 fun x => x.map1 .f32 (specialW fcos)
def execFcosExt (w : ExtA) := aluB (.fcosExt w) 12 fun x => x.map1 .f32 (specialW fcos)

/-- FTANH (R97). -/
def execFtanh (w : Base) := aluB (.ftanh w) 12 fun x => x.map1 .f32 (specialW ftanh)
def execFtanhExt (w : ExtA) := aluB (.ftanhExt w) 12 fun x => x.map1 .f32 (specialW ftanh)

/-! ### Packed 16-bit -/

/-- The half format of FMT, MOD [0] (R98). -/
def halfFmt (w : ExtA) : FltFmt := if w.mod % 2 = 1 then fp16 else bf16

/-- The kind of the packed sources. -/
def halfKind (w : ExtA) : Kind := .half (w.mod % 2 == 1)

/-- RND of the packed instructions, MOD [2:1]. -/
def halfRnd (w : ExtA) : Rnd := Rnd.ofField (w.mod / 2 % 4)

/-- Half j of a word, its sign flipped when asked. -/
def halfOf (f : FltFmt) (neg : Bool) (a : Word) (j : Nat) : Nat := f.flip neg (a.toNat / 2 ^ (16 * j) % 2 ^ 16)

/-- Two halves as a word. -/
def halves (lo hi : Nat) : Word := BitVec.ofNat 32 (lo + 2 ^ 16 * hi)

def half2W (w : ExtA) (op : FltFmt → Nat → Nat → Nat) (a b : Word) : Word :=
  let f := halfFmt w
  let h (j : Nat) := op f (halfOf f (w.mod2 % 2 == 1) a j) (halfOf f (w.mod2 / 2 % 2 == 1) b j)
  halves (h 0) (h 1)

def hfmaW (w : ExtA) (a b c : Word) : Word :=
  let f := halfFmt w
  let h (j : Nat) := f.fmaC (halfRnd w) (halfOf f (w.mod2 % 2 == 1) a j) (halfOf f (w.mod2 / 2 % 2 == 1) b j)
    (halfOf f (w.f 9 9 == 1) c j)
  halves (h 0) (h 1)

/-- HADD2 (R98). -/
def execHadd2 (w : ExtA) := aluA (.hadd2 w) fun x => x.map2 (halfKind w) (half2W w fun f => f.addC (halfRnd w))

/-- HMUL2 (R98). -/
def execHmul2 (w : ExtA) := aluA (.hmul2 w) fun x => x.map2 (halfKind w) (half2W w fun f => f.mulC (halfRnd w))

/-- HFMA2 (R98). -/
def execHfma2 (w : ExtA) := aluA (.hfma2 w) fun x => x.map3 (halfKind w) (hfmaW w)

/-- HMIN2 (R98). -/
def execHmin2 (w : ExtA) := aluA (.hmin2 w) fun x => x.map2 (halfKind w) (half2W w fun f => f.minmax false)

/-- HMAX2 (R98). -/
def execHmax2 (w : ExtA) := aluA (.hmax2 w) fun x => x.map2 (halfKind w) (half2W w fun f => f.minmax true)

/-- FDOT2 (R87, R99): a0 × b0 + a1 × b1 + c, rounded once; special operands as R85.
DEDUCED, log 70: an exact zero has the sign that IEEE 754 gives the sum of its terms (R83), so that terms of zero that all have one sign
keep it. -/
def fdot2W (w : ExtA) (a b c : Word) : Word :=
  let f := halfFmt w
  let m := halfRnd w
  let p (j : Nat) := (f.val (halfOf f (w.mod2 % 2 == 1) a j)).mul (f.val (halfOf f (w.mod2 / 2 % 2 == 1) b j))
  BitVec.ofNat 32 (fp32.out m (((p 0).add (p 1) m).add (fp32.val c.toNat) m))

/-- FDOT2 (R99). -/
def execFdot2 (w : ExtA) :=
  aluA (.fdot2 w) fun x =>
    let a := x.src (halfKind w) w.a
    let b := x.src (halfKind w) w.b
    let c := x.src .f32 w.c
    LVec.tab fun l => fdot2W w (LVec.at a l) (LVec.at b l) (LVec.at c l)

end Sys2Proof.Machine
end

