-- ==== Sys2Proof/Machine/Atomic.lean ====
section
/-!
DEFINITION. The handlers of the atomic unit (spec/15_die_instructions.md R240), which ATOMS shares (R159).
-/

namespace Sys2Proof.Machine

/-- A function of the two 16-bit halves of two words. -/
def by16 (f : Nat → Nat → Nat) (a b : Nat) : Nat :=
  f (a % 2 ^ 16) (b % 2 ^ 16) + 2 ^ 16 * f (a / 2 ^ 16 % 2 ^ 16) (b / 2 ^ 16 % 2 ^ 16)

/-- A function of the two 32-bit halves of two double words. -/
def by32 (f : Nat → Nat → Nat) (a b : Nat) : Nat :=
  f (a % 2 ^ 32) (b % 2 ^ 32) + 2 ^ 32 * f (a / 2 ^ 32 % 2 ^ 32) (b / 2 ^ 32 % 2 ^ 32)

/-- Bytes added with saturation. -/
def satBytes (a b : Nat) : Nat → Nat
  | 0 => 0
  | n + 1 => min (a % 256 + b % 256) 255 + 256 * satBytes (a / 256) (b / 256) n

/-- The smaller or larger of two codes read as signed numbers. -/
def pickSigned (bits : Nat) (isMax : Bool) (a b : Nat) : Nat :=
  if decide (signedOf bits a < signedOf bits b) == isMax then b else a

/-- The new value that a handler writes; none where it does not write (R240). `b` holds the B registers, low word first. -/
def handler (hnd old b : Nat) : Option Nat :=
  let b32 := b % 2 ^ 32
  let b64 := b % 2 ^ 64
  match hnd with
  | 0 => some ((old + b32) % 2 ^ 32)
  | 1 => some ((old + b64) % 2 ^ 64)
  | 2 => some (min (old + b32) (2 ^ 32 - 1))
  | 3 => some (fp32.addC .rne old b32)
  | 4 => some (by16 (bf16.addC .rne) old b32)
  | 5 => some (by16 (fp16.addC .rne) old b32)
  | 6 => some (pickSigned 32 false old b32)
  | 7 => some (pickSigned 32 true old b32)
  | 8 => some (min old b32)
  | 9 => some (max old b32)
  | 10 => some (fp32.minmax false old b32)
  | 11 => some (fp32.minmax true old b32)
  | 12 => some (old &&& b32)
  | 13 => some (old ||| b32)
  | 14 => some (old ^^^ b32)
  | 15 => some (old &&& b64)
  | 16 => some (old ||| b64)
  | 17 => some (old ^^^ b64)
  | 18 => some b32
  | 19 => some b64
  | 20 => if old = b32 then some (b / 2 ^ 32 % 2 ^ 32) else none
  | 21 => if old = b64 then some (b / 2 ^ 64 % 2 ^ 64) else none
  | 22 => some (if b32 ≤ old then 0 else old + 1)
  | 23 => some (if old = 0 ∨ b32 < old then b32 else old - 1)
  | 24 => some (codeOf 64 (signedOf 64 old + signedOf 32 b32))
  | 25 => some (pickSigned 64 true old b64)
  | 26 => some (pickSigned 64 false old b64)
  | 27 => some (by32 (fp32.addC .rne) old b64)
  | 28 => some (old ||| 2 ^ (b32 % 32))
  | 29 => some (old &&& (2 ^ 32 - 1 - 2 ^ (b32 % 32)))
  | 30 => some (satBytes old b32 4)
  | _ => none

/-- A handler that can write: every one but FETCH (R220, R239). -/
def hndWrites (hnd : Nat) : Bool := hnd != 31

/-- The lanes' operations on one line, in ascending lane order: the line after them, the nibbles written, and the old value
of each lane (R220, R241). -/
def atomLanes (hnd size : Nat) (ops : List LaneOp) (d : BitVec 1024) :
    BitVec 1024 × BitVec 256 × List (Nat × DWord) :=
  ops.foldl (fun acc o =>
    let (d, m, olds) := acc
    let old := lineGet d o.off size
    let olds := olds ++ [(o.lane, BitVec.ofNat 64 old)]
    match handler hnd old o.b.toNat with
    | some v =>
      let n := nibbles o.off size
      (mergeNibbles d (atByte o.off v) n, m ||| n, olds)
    | none => (d, m, olds)) (d, 0, [])

end Sys2Proof.Machine
end

