-- ==== Sys2Proof/Machine/Memsys.lean ====
section
/-!
DEFINITION. Between a core and the homes: the L1 data cache, outstanding operations, requests to slices and their
performance there
(spec/08_core.md R143–R147, R366; spec/13_die_memory_system.md R213–R216).
-/

namespace Sys2Proof.Machine

/-! ### Outstanding operations -/

/-- The piece has performed: a load has its values (R229). -/
def Piece.bound (p : Piece) : Bool := p.landed || p.vals.isSome

/-- The memory events of an operation have performed, slice operations at homes in other packages among them (R229, R236). Stores to other
packages are left out: only a boundary of scope POD waits for them (R338). -/
def Outst.local_ (o : Outst) : Bool := o.fabStore || o.pieces.all Piece.bound

/-- An earlier memory event of some lanes, for a boundary (R226, R229): write-backs and the accumulator are none. -/
def Outst.eventOf (o : Outst) (m : Mask) : Bool := o.lanes &&& m != 0 && o.kind != .wb && o.kind != .accrd

/-- Earlier events of lanes of a group that have not performed (R229). -/
def State.unperformed (s : State) (g : GRef) (m : Mask) : List Nat :=
  (s.outst.filter fun e => e.2.g == g && e.2.eventOf m && !e.2.local_).map (·.1)

/-- Earlier stores of lanes of a group to other packages that have not been acknowledged (R229, R338). -/
def State.unacknowledged (s : State) (g : GRef) (m : Mask) : List Nat :=
  (s.outst.filter fun e => e.2.g == g && e.2.eventOf m && e.2.pieces.any fun p => p.remote && !p.bound).map (·.1)

/-- A load of the group on the line has not performed. -/
def State.unread (s : State) (g : GRef) (line : Nat) (p : Outst → Bool) : Bool :=
  s.outst.any fun e => e.2.g == g && e.2.kind == .load && e.2.lanes != 0 && p e.2
    && e.2.pieces.any fun x => x.line == line && !x.remote && !x.bound

/-- An operation is outstanding: its slot's count rises (R44). -/
def State.addOut (s : State) (o : Outst) : State :=
  let s := { s with outst := s.outst.set o.id o }
  match o.sb with
  | some k => s.modGroup o.g fun g => { g with sb := g.sb.update k 0 (· + 1) }
  | none => s

/-- A value of `len` bytes as register words: below a word it is widened (R126). -/
def accWords (len : Nat) (sx : Bool) (n : Nat) : List Word :=
  if len < 4 then
    [if sx then BitVec.ofInt 32 (signedOf (8 * len) n) else BitVec.ofNat 32 (n % 256 ^ len)]
  else (List.range (len / 4)).map fun i => BitVec.ofNat 32 (n / 2 ^ (32 * i))

/-- One word of a result reaches its register, in one lane or in every receiving lane (R127, R242). -/
def landWord (g : Group) (o : Outst) (lane i : Nat) (w : Word) : Group :=
  let m : Mask := if o.from_.isSome then o.lanes else 1#32 <<< lane
  match o.dst with
  | .v r => g.setV (r.toNat + i) m (LVec.splat w)
  | .s r => g.setSBy o.slot o.iss (r.toNat + i) w
  | _ => g

/-- One access of a result reaches its registers. -/
def landAcc (g : Group) (o : Outst) (a : Acc) (n : Nat) : Group :=
  ((accWords a.len o.sx n).zipIdx).foldl (fun g x => landWord g o a.lane (a.pos / 4 + x.2) x.1) g

/-- The values of a piece reach their registers, and the piece lands (R44). -/
def State.landVals (s : State) (id k : Nat) (vals : List (Nat × BitVec 128)) : State :=
  match s.outst.get? id with
  | none => s
  | some o =>
    match o.pieces[k]? with
    | none => s
    | some p =>
      let s := s.modGroup o.g fun g =>
        (p.accs.zip vals).foldl (fun g x => landAcc g o x.1 x.2.2.toNat) g
      s.landPiece id k

/-- The accesses of a piece read from a line. -/
def readAccs (accs : List Acc) (d : BitVec 1024) : List (Nat × BitVec 128) :=
  accs.map fun a => (a.lane, BitVec.ofNat 128 (lineGet d a.off a.len))

/-- The epoch in which a partition's accesses are translated (R285). -/
def State.epochOf (s : State) (part : Nat) : Nat := (s.part part).epoch

/-! ### Requests -/

/-- The slice and set of a request's home. -/
def State.sliceOf (s : State) (line : Nat) : Nat := match s.home line with | some h => h.slice | none => 0

/-- The die and sector of a source. -/
def srcSector (src : Src) : Option (Nat × Nat) :=
  match src with
  | .core c => some (dieOf (clusterOf c), sectorOf (clusterOf c))
  | .fabric => none

def ReqOp.writes (b : ReqOp) : Bool :=
  match b with
  | .write _ _ _ | .sc _ _ _ _ | .disc => true
  | .atom hnd _ _ => hndWrites hnd
  | .agent _ w => w
  | _ => false

def ReqOp.isWb (b : ReqOp) : Bool :=
  match b with
  | .write _ _ wb => wb
  | _ => false

/-- Requests that have arrived at a slice and wait there, those to one line in their order (R213, R216). -/
def Slice.waiting (sl : Slice) : List Req :=
  sl.blocked.flatMap (fun b => b.first.toList ++ b.chain) ++ sl.held.flatMap Held.reqs ++ sl.queues.flatMap (·.2)
  ++ sl.xbar.flatMap (·.2)

/-- A request of the source to the line is on its way to the home, or waits there. -/
def State.homePending (s : State) (src : Src) (line : Nat) : Bool :=
  let p : Req → Bool := fun r => r.src == src && r.line == line
  let home := s.sliceOf line
  (s.reqsTo home).any p || (s.slice home).waiting.any p

/-- Send a request: a read that a replica may serve goes to the source's own sector first (R215), unless a request of the
source to the line is on its way to the home, which a replica must not overtake (R232 OwnWrite and Monotone).
DEDUCED, log 30. -/
def State.send (s : State) (r : Req) : State :=
  let home := s.sliceOf r.line
  let dest :=
    match r.body, srcSector r.src, s.home r.line with
    | .read bypass, some (die, sec), some h =>
      if replicable r.cls r.arena bypass h die sec && !s.homePending r.src r.line then (s.placeIn die sec r.line).slice
      else home
    | _, _, _ => home
  s.toSlice dest r

/-! ### The L1 data cache -/

/-- A hit moves the line to MRU (R143). -/
def Core.l1Hit (c : Core) (line : Nat) : Core :=
  match c.l1Find line with
  | some l => { c with l1 := c.l1.set (line % 1024) (l :: (c.l1Set line).filter fun x => x.line != line) }
  | none => c

/-- The position at which a line enters its set (R143). -/
def insertAt (c : Core) (cls : Nat) (laggard : Bool) : Nat :=
  match cls with
  | 1 => 16
  | 2 => 0
  | _ => if laggard then 0 else c.ways.length / 2

/-- A line enters L1 at a position; the LRU line leaves a full set, written back if dirty (R144, R147). -/
def State.l1Insert (s : State) (core : Nat) (g : GRef) (pos : Nat) (l : L1Line) : State :=
  let c := s.core core
  let set := c.l1Set l.line
  let (s, set, way) :=
    if set.length < c.ways.length then
      (s, set, (c.ways.find? fun w => set.all fun x => x.way != w).getD 0)
    else
      match set.getLast? with
      | some v => (s.writeback core g v, set.dropLast, v.way)
      | none => (s, set, 0)
  s.modCore core fun c =>
    { c with l1 := c.l1.set (l.line % 1024) (set.take pos ++ [{ l with way }] ++ set.drop pos) }

/-- A store performs in L1: it allocates without a fill and marks its nibbles valid and dirty (R147). -/
def State.l1Store (s : State) (core : Nat) (g : GRef) (pos : Nat) (line : Nat) (data : BitVec 1024) (mask : BitVec 256)
    (cls : Cls) (part : Nat) : State :=
  let s :=
    match (s.core core).l1Find line with
    | some _ => s.modCore core fun c => c.l1Hit line
    | none => s.l1Insert core g pos { line, way := 0, data := 0, valid := 0, dirty := 0, cls, part }
  s.modCore core fun c => c.l1Mod line fun l =>
    { l with data := mergeNibbles l.data data mask, valid := l.valid ||| mask, dirty := l.dirty ||| mask }

/-- A fill merges into L1 under the valid mask (R147). -/
def State.l1Fill (s : State) (core : Nat) (g : GRef) (pos : Nat) (line : Nat) (data : BitVec 1024) (cls : Cls)
    (part : Nat) : State :=
  let s :=
    match (s.core core).l1Find line with
    | some _ => s
    | none => s.l1Insert core g pos { line, way := 0, data := 0, valid := 0, dirty := 0, cls, part }
  s.modCore core fun c => c.l1Mod line fun l => { l with data := mergeNibbles data l.data l.valid, valid := allNibbles }

/-- Write-backs of a core that have not performed, and bypass stores, which its groups already see where L1 holds the line (R366). -/
def State.coreWrites (s : State) (core : Nat) : List Nat :=
  (s.outst.filter fun e => e.2.core == core && (e.2.kind == .wb || (e.2.kind == .effect && e.2.bypass))).map (·.1)

/-- The PKG actions on a core (R229): every dirty line is written back, and every line invalidated. -/
def State.flushL1 (s : State) (core : Nat) (g : GRef) : State :=
  let lines := (s.core core).l1.flatMap (·.2)
  (lines.foldl (fun s l => s.writeback core g l) s).modCore core fun c => { c with l1 := [] }

/-- Clean copies leave an L1; nibbles that have not been published stay (R147). -/
def Core.dropClean (c : Core) : Core :=
  { c with l1 := c.l1.map fun e => (e.1, (e.2.filter fun l => l.dirty != 0).map fun l => { l with valid := l.dirty }) }

/-- A boundary of scope CORE in the order of some lanes of a group: it issues nothing more until their earlier events have
performed (R229, R246). -/
def State.phaseCore (s : State) (g : GRef) (m : Mask) : State :=
  s.modGroup g fun gr => { gr with hold := gr.hold ++ s.unperformed g m }

/-- A boundary of scope PKG: in addition the core's lines leave L1, and every write-back of the core performs first (R229, R246).
DEDUCED, log 30: it waits for write-backs that evictions started too, since they carry stores of its lanes, and for bypass stores of the
core that its lanes may have read (R232 Causality). -/
def State.phasePkg (s : State) (core : Nat) (g : GRef) (m : Mask) : State :=
  let s := (s.phaseCore g m).flushL1 core g
  s.modGroup g fun gr => { gr with hold := gr.hold ++ s.coreWrites core, stale := true }

/-- A boundary of scope POD: in addition the lanes' stores to other packages are acknowledged (R229, R338). -/
def State.phasePod (s : State) (core : Nat) (g : GRef) (m : Mask) : State :=
  let s := s.phasePkg core g m
  s.modGroup g fun gr => { gr with holdFar := gr.holdFar ++ s.unacknowledged g m }

/-- The operations that hold a group have performed (R229, R246, R247). -/
def State.released (s : State) (g : Group) : Bool :=
  g.hold.all (fun i => match s.outst.get? i with | some o => o.local_ | none => true)
  && g.holdFar.all fun i => (s.outst.get? i).isNone

/-- What held a group has performed: after a PKG boundary the clean copies that have come into L1 meanwhile go, which other
agents' writes ordered by the boundary may have passed (R229, R232 Causality).
DEDUCED, log 30. -/
def State.boundaryDone (s : State) (core : Nat) (g : GRef) : State :=
  match s.group? g with
  | none => s
  | some gr =>
    if gr.hold.isEmpty && gr.holdFar.isEmpty && !gr.stale then s
    else
      let s := if gr.stale then s.modCore core (·.dropClean) else s
      s.modGroup g fun gr => { gr with hold := [], holdFar := [], stale := false }

/-! ### Performance at a slice -/

/-- The writes of a core's L1 to a line that have not performed, in their order; `later` are requests that the home handles next. -/
def State.onTheWay (s : State) (core line : Nat) (later : List Req) : List (BitVec 1024 × BitVec 256) :=
  let home := s.sliceOf line
  ((s.slice home).waiting ++ later ++ s.reqsTo home).filterMap fun r =>
    match r.body with
    | .write d m true => if r.src = .core core ∧ r.line = line then some (d, m) else none
    | _ => none

/-- The line as a read of a core finds it at one moment: what the home or a replica holds, then the nibbles that have left the
core's L1 and are on their way, then those that L1 holds: for a bypass the dirty ones alone (R147, R225, R366). -/
def State.coreView (s : State) (core line : Nat) (d : BitVec 1024) (later : List Req) (bypass : Bool) : BitVec 1024 :=
  let d := (s.onTheWay core line later).foldl (fun d x => mergeNibbles d x.1 x.2) d
  match (s.core core).l1Find line with
  | some l => mergeNibbles d l.data (if bypass then l.dirty else l.valid)
  | none => d

/-- The values of an operation whose lanes' accesses are one event over several lines, once every line has answered: they are
bound together, as the lines are at that moment (R225); `later` are requests that the home handles next. -/
def State.bindWhole (s : State) (core : Nat) (later : List Req) (o : Outst) : Outst :=
  if o.pieces.all fun p => p.bound || p.data.isSome then
    { o with pieces := o.pieces.map fun p =>
        if p.bound || p.remote then p
        else { p with vals := some (readAccs p.accs (s.coreView core p.line (s.homeLine p.line) later o.bypass)) } }
  else o

/-- A piece of a load performs, with the line as its home or a replica holds it: L1 takes the line, or its clean nibbles follow a
bypass, so that no later read of the core finds an older value (R147, R225, R232 Monotone). DEDUCED, log 30. -/
def State.bindRead (s : State) (r : Req) (d : BitVec 1024) (later : List Req) : State :=
  match r.src, s.outst.get? r.op with
  | .core c, some o =>
    if o.kind = .ldc then
      s.modOut r.op fun o => o.modPiece r.piece fun p => { p with data := some d, vals := some (readAccs p.accs d) }
    else
      let v := s.coreView c r.line d later o.bypass
      let s := if o.bypass then
          s.modCore c fun k => k.l1Mod r.line fun l => { l with data := mergeNibbles v l.data (~~~l.valid ||| l.dirty) }
        else match o.l1pos with
          | some pos => s.l1Fill c o.g pos r.line v r.cls o.part
          | none => s
      if o.whole then
        let s := s.modOut r.op fun o => o.modPiece r.piece fun p => { p with data := some d }
        s.modOut r.op (s.bindWhole c later)
      else s.modOut r.op fun o => o.modPiece r.piece fun p => { p with data := some d, vals := some (readAccs p.accs v) }
  | _, _ => s

/-- A word of WAITC at the home: satisfied, polled, registered, or refused by a full overflow list (R224, R243). Only one that registers
makes its split WAITING (R22). -/
def State.doWaitc (s : State) (h : HomeAt) (r : Req) (off : Nat) (opnd : Word) (mode : BitVec 3) (timeout : Word)
    (swap : Bool) (slot : Nat) : State :=
  let word := 128 * r.line + off
  let v := s.homeWord word
  if monSat mode v opnd then (s.answerWait r.g slot (WaitOut.word true v)).landPiece r.op r.piece
  else if timeout = 0xFFFFFFFF then (s.answerWait r.g slot (WaitOut.word false v)).landPiece r.op r.piece
  else
    let deadl := if timeout = 0 then none else some (s.clk / 256 + min timeout.toNat 0x1FFFF + 1)
    let who : MonWho := if swap then .team r.g slot else .group r.g slot
    let m : Mon := { word, opnd, mode, who, deadl }
    let sl := s.slice h.slice
    let reg (s : State) : State :=
      let s := s.modGroup r.g fun g => g.asleep slot fun w =>
        match w.on with
        | .waitc _ o md _ sw => { w with on := .waitc word o md deadl sw }
        | _ => w
      if swap then s.modTeam r.g.team fun t => { t with saving := some (t.saving.getD (.swap r.g slot)) } else s
    match (List.range 60).find? fun k => (sl.mons.get? k).isNone with
    | some k => (reg (s.modSlice h.slice fun sl => { sl with mons := sl.mons.set k m })).landPiece r.op r.piece
    | none =>
      if sl.overflow.length < 1024 then
        (reg (s.modSlice h.slice fun sl => { sl with overflow := sl.overflow ++ [m] })).landPiece r.op r.piece
      else s.modSlice h.slice fun sl => { sl with refused := sl.refused ++ [(r, s.clk + 1024)] }

/-- Lane operations of an atomic on a line, one after another in ascending lane order: each write acts on monitors by itself,
and a value that satisfies an entry wakes its waiter even though the next lane changes it (R220, R223, R241). The old values
of the lanes are returned. -/
def State.atomHome (s : State) (h : HomeAt) (line : Nat) (cls : Cls) (who : Option GRef) (hnd size : Nat) :
    List LaneOp → State × List (Nat × DWord)
  | [] => (s, [])
  | o :: r =>
    let (d, m, old) := atomLanes hnd size [o] (s.homeLine line)
    let (s, olds) := (if m = 0 then s else s.writeHome h line d m cls who).atomHome h line cls who hnd size r
    (s, old ++ olds)

/-- A request performs at its home, whose holder vector allows it (R220, R221, R241–R243, R247); `later` are requests that the
home handles next. -/
def State.perform (s : State) (h : HomeAt) (r : Req) (later : List Req) : State :=
  let s := match r.body with
    | .release | .agent _ _ => s
    | _ => s.ensure h r.line r.cls
  let d := s.homeLine r.line
  let who := some r.g
  match r.body with
  | .read bypass =>
    let s := s.bindRead r d later
    match srcSector r.src with
    | some (die, sec) => if replicable r.cls r.arena bypass h die sec then s.grant h die sec r.line r.cls else s
    | none => s
  | .write data mask wb =>
    (s.writeHome h r.line data mask r.cls (if wb then none else who)).landPiece r.op r.piece
  | .atom hnd size ops =>
    let s := s.modSlice h.slice fun sl => { sl with atomFree := max s.clk sl.atomFree + ops.length }
    let (s, olds) := s.atomHome h r.line r.cls who hnd size ops
    match s.outst.get? r.op with
    | some o =>
      if o.kind = .effect then s.landPiece r.op r.piece
      else s.modOut r.op fun o => o.modPiece r.piece fun p =>
        { p with vals := some (olds.map fun x => (x.1, x.2.setWidth 128)) }
    | none => s
  | .lr off size =>
    let s := s.modSlice h.slice fun sl =>
      let kept := sl.resv.filter fun e => e.1 != r.g
      let kept := if kept.length < 256 then kept else kept.drop 1
      { sl with resv := kept ++ [(r.g, r.line)] }
    s.modOut r.op fun o => o.modPiece r.piece fun p => { p with vals := some [(0, BitVec.ofNat 128 (lineGet d off size))] }
  | .sc off size val held =>
    let ok := held && (s.slice h.slice).resv.contains (r.g, r.line)
    let s := if ok then s.writeHome h r.line (atByte off val.toNat) (nibbles off size) r.cls who else s
    let s := s.modSlice h.slice fun sl => { sl with resv := sl.resv.filter fun e => e.1 != r.g }
    s.modOut r.op fun o => o.modPiece r.piece fun p => { p with vals := some [(0, if ok then 1 else 0)] }
  | .waitc off opnd mode timeout swap slot => s.doWaitc h r off opnd mode timeout swap slot
  | .disc =>
    let s := s.modSlice h.slice fun sl => (sl.drop h.set r.line).clearResv r.line who
    (s.evalMons h.slice r.line).landPiece r.op r.piece
  | .release => s.modSlice h.slice fun sl => { sl with resv := sl.resv.filter fun e => !(e.1 == r.g && e.2 == r.line) }
  | .agent _ _ => s

/-- A request performs, and its answer sets out to a core of another die (R321). -/
def State.serve (s : State) (h : HomeAt) (r : Req) (later : List Req) : State :=
  ((s.expectAnswer h.slice r).perform h r later).reply h.slice r

/-- A request that its line's poison or a shadow region stops (R212, R218); a write-back never faults (R229), and an agent's access
is tested when the agent makes it. -/
def State.faulty (s : State) (r : Req) : Nat :=
  match r.body with
  | .write _ _ true | .agent _ _ => 0
  | _ =>
    if s.inShadow (128 * r.line) then 0x0C2
    else
      match r.body with
      | .write _ _ _ | .disc | .release => 0
      | _ => if s.homePoison r.line then 0x0C1 else 0

/-- A stopped request ends without effect: the node of its group is killed. -/
def State.failReq (s : State) (r : Req) (code : Nat) : State :=
  let s := match s.team? r.g.team with
    | some t => s.killNode t.node code
    | none => s
  s.modOut r.op fun o => o.modPiece r.piece fun p =>
    { p with vals := some (p.accs.map fun a => (a.lane, 0)), landed := p.landed || o.kind == .effect }

/-- Every holder has answered, and no agent has its turn. -/
def Held.settled (x : Held) : Bool := x.awaiting == 0 && x.owner.isNone

/-- A request joins the requests held for its line (R216). -/
def Slice.joinHeld (sl : Slice) (r : Req) : Slice :=
  { sl with held := sl.held.map fun x => if x.line = r.line then { x with reqs := x.reqs ++ [r] } else x }

/-- A request joins the chain of its blocked set (R213). -/
def Slice.joinChain (sl : Slice) (set : Nat) (r : Req) : Slice :=
  { sl with blocked := sl.blocked.map fun b => if b.set = set then { b with chain := b.chain ++ [r] } else b }

/-- The die of an agent, where the spec gives it one that may not be the home's (R163, R195, R256).
DESIGN CHOICE, log 42: the queue engine and what acts for other packages are on the home's die. -/
def State.agentDie (s : State) (a : Agent) : Option Nat :=
  let ofTeam (t : Nat) : Option Nat := ((s.team? t).bind Team.core?).map fun c => dieOf (clusterOf c)
  match a with
  | .fetch g | .post g => ofTeam g.team
  | .team t => ofTeam t
  | .copy core _ => some (dieOf (clusterOf core))
  | .weaver _ die => some die
  | _ => none

/-- The agent is on another die than a slice, so that its accesses there cross (R207, R321). -/
def State.agentFar (s : State) (a : Agent) (slice : Nat) : Option Nat := (s.agentDie a).filter fun d => d != dieOfSlice slice

/-- The pair of ports of an agent's messages on a die. -/
def agentPair (die slice : Nat) : Nat × Nat := (5000 + die, slice)

/-- The turn of an agent's access has come: until the agent makes it, later requests to the line wait behind it. An agent of another die
is told by message. -/
def State.turn (s : State) (h : HomeAt) (line : Nat) (a : Option Agent) (reqs : List Req) : State :=
  let far := a.bind fun a => (s.agentFar a h.slice).map fun d => (a, d)
  let s := s.modSlice h.slice fun sl =>
    { sl with held := sl.held ++ [{ line, awaiting := 0, owner := a.map fun a => (a, s.clk), told := far.isNone, reqs }] }
  match far with
  | some (a, d) => s.launch { from_ := dieOfSlice h.slice, to_ := d, pair := (4000 + h.slice, 5000 + d), msg := .turn h.slice line a }
  | none => s

/-- The request belongs to a store whose lanes' accesses are one event over several lines (R225). -/
def State.isWhole (s : State) (op : Nat) : Bool := match s.outst.get? op with | some o => o.whole | none => false

/-- The request needs its line to be filled first: it misses, and is no DISC and no release of a reservation (R213, R221, R247). -/
def Slice.needsFill (sl : Slice) (set : Nat) (r : Req) : Bool := sl.misses set r.line r.cls && r.body != .release && r.body != .disc

/-- The slice handles a request at the line's home (R213, R214, R216). -/
def State.handle (s : State) (h : HomeAt) (r : Req) (later : List Req) : State :=
  let sl := s.slice h.slice
  if sl.held.any fun x => x.line == r.line then s.modSlice h.slice fun sl => sl.joinHeld r
  else if sl.blocked.any fun b => b.set == h.set then s.modSlice h.slice fun sl => sl.joinChain h.set r
  else
    let code := s.faulty r
    if code ≠ 0 then ((((s.expectAnswer h.slice r).failReq r code)).endOut r.op).reply h.slice r
    else if r.body.writes && sl.holders.getD r.line 0 != 0 then s.invalidate h r.line [r]
    else if sl.needsFill h.set r then s.block h r.line r.cls (some r)
    else
      match r.body with
      | .agent a _ => s.turn h r.line (some a) []
      | .write _ _ false => if s.isWhole r.op then s.turn h r.line (some (.op r.op)) [r] else s.serve h r later
      | _ => s.serve h r later

/-- Requests that waited for a line or a set are handled in their order. -/
def State.handleAll (s : State) (h : HomeAt) : List Req → State
  | [] => s
  | r :: rs => (s.handle h r rs).handleAll h rs

/-- The bank's wait chains have a free place among their 64 (R213). -/
def Slice.chainRoom (sl : Slice) (set : Nat) : Bool :=
  decide (((sl.blocked.filter fun b => b.set % 4 == set % 4).map fun b => b.chain.length).sum < 64)

/-- The bank can go on with the request: a miss needs a free blocked-set entry, a wait chain a free place, an atomic the slice's atomic
unit (R213, R219). -/
def State.bankTakes (s : State) (h : HomeAt) (r : Req) : Bool :=
  let sl := s.slice h.slice
  if sl.held.any fun x => x.line == r.line then true
  else if sl.blocked.any fun b => b.set == h.set then sl.chainRoom h.set
  else (!sl.needsFill h.set r || !sl.bankFull h.set)
    && (match r.body with | .atom _ _ _ => decide (sl.atomFree ≤ s.clk) | _ => true)

/-- A bank performs the requests of its bypass queue in their order, as far as it can (R213). -/
def State.drainBank (s : State) (slice bank : Nat) : Nat → State
  | 0 => s
  | n + 1 =>
    match (s.slice slice).queues.getD bank [] with
    | [] => s
    | r :: rs =>
      match s.home r.line with
      | none => s
      | some h =>
        if s.bankTakes h r then
          ((s.modSlice slice fun sl => { sl with queues := sl.queues.set bank rs }).handle h r []).drainBank slice bank n
        else s

/-- The line is held for the store whose turn it is. -/
def State.heldFor (s : State) (id line : Nat) : Bool :=
  (s.slice (s.sliceOf line)).held.any fun x => x.line == line && (x.owner.map (·.1)) == some (.op id)

/-- The part of a store that a held line keeps performs (R225). -/
def State.putHeld (s : State) (id line : Nat) : State :=
  match s.home line with
  | none => s
  | some h =>
    match (s.slice h.slice).held.find? fun x => x.line == line && (x.owner.map (·.1)) == some (.op id) with
    | some { reqs := r :: rest, .. } =>
      match r.body with
      | .write d m _ =>
        let s := s.modSlice h.slice fun sl =>
          { sl with held := sl.held.map fun x => if x.line = line then { x with owner := none, reqs := rest } else x }
        (((s.expectAnswer h.slice r).writeHome h line d m r.cls (some r.g)).landPiece r.op r.piece).reply h.slice r
      | _ => s
    | _ => s

/-- A store over several lines performs once every line is held for it: all of them at one moment (R225). -/
def State.wholeGo (s : State) (id : Nat) : State :=
  match s.outst.get? id with
  | none => s
  | some o =>
    let open_ := o.pieces.filter fun p => !p.landed
    if open_.all fun p => s.heldFor id p.line then open_.foldl (fun s p => s.putHeld id p.line) s else s

/-- Lines of a slice for which nothing is held back any more: what waits for them is handled. -/
def State.settleSlice (s : State) (slice : Nat) : State :=
  let ops := (s.slice slice).held.filterMap fun x => match x.owner with | some (.op id, _) => some id | _ => none
  let s := ops.foldl State.wholeGo s
  let ready := ((s.slice slice).held.filter Held.settled).map Held.line
  ready.foldl (fun s line =>
    match s.home line, (s.slice slice).held.find? fun x => x.line == line with
    | some h, some x =>
      (s.modSlice slice fun sl => { sl with held := sl.held.filter fun y => y.line != line }).handleAll h x.reqs
    | _, _ => s) s

/-- A request to a blocked set joins its chain, unless its line is held or an older request to it is still in the bypass queue (R213, R216).
DESIGN CHOICE, log 15. -/
def Slice.chains (sl : Slice) (set : Nat) (r : Req) : Bool :=
  (sl.blocked.any fun b => b.set == set) && (sl.held.all fun x => x.line != r.line) && (sl.queueOf set).all fun x => x.line != r.line

/-- The bank stops at the request: the chain pool that it would join is full, or the bypass queue is, or it misses with 16 sets blocked
already (R213). -/
def Slice.stopsAt (sl : Slice) (set : Nat) (r : Req) : Bool :=
  if sl.chains set r then !sl.chainRoom set
  else decide (16 ≤ (sl.queueOf set).length)
    || ((sl.blocked.all fun b => b.set != set) && (sl.held.all fun x => x.line != r.line) && sl.needsFill set r && sl.bankFull set)

/-- The bank takes a request: into the chain of a blocked set, or into its bypass queue, and the bank goes on (R213). -/
def State.enterBank (s : State) (h : HomeAt) (r : Req) : State :=
  let sl := s.slice h.slice
  if sl.chains h.set r then s.modSlice h.slice fun sl => sl.joinChain h.set r
  else
    (s.modSlice h.slice fun sl => { sl with queues := sl.queues.set (h.set % 4) (sl.queueOf h.set ++ [r]) }).drainBank h.slice (h.set % 4) 16

/-- Requests at the crossbar go on in their order until the bank stops at one (R213). -/
def State.drainXbar (s : State) (slice bank : Nat) : Nat → State
  | 0 => s
  | n + 1 =>
    match (s.slice slice).xbar.getD bank [] with
    | [] => s
    | r :: rs =>
      match s.home r.line with
      | none => s
      | some h =>
        if (s.slice slice).stopsAt h.set r then s
        else ((s.modSlice slice fun sl => { sl with xbar := sl.xbar.set bank rs }).enterBank h r).drainXbar slice bank n

/-- A bank goes on with its queue, then with what waits at the crossbar. -/
def State.runBank (s : State) (slice bank : Nat) : State :=
  let s := s.drainBank slice bank 16
  s.drainXbar slice bank ((s.slice slice).xbar.getD bank []).length

/-- The slice goes on: replicas that have come, its held lines, then its four banks. -/
def State.drain (s : State) (slice : Nat) : State :=
  [0, 1, 2, 3].foldl (fun s b => s.runBank slice b) ((s.settleIn slice).settleSlice slice)

/-- Requests wait at a slice that may go on by itself. -/
def Slice.ready (sl : Slice) : Bool :=
  !sl.arrivals.isEmpty || sl.queues.any (fun q => !q.2.isEmpty) || sl.xbar.any (fun q => !q.2.isEmpty) || sl.held.any fun x => x.settled || (match x.owner with | some (.op _, _) => true | _ => false)

/-- A request arrives at its home (R213): its bank takes it; or, while the bank has stopped, it waits at the crossbar behind those that
wait there already. -/
def State.arrive (s : State) (h : HomeAt) (r : Req) : State :=
  let sl := s.slice h.slice
  if !(sl.xbarOf h.set).isEmpty || sl.stopsAt h.set r then
    s.modSlice h.slice fun sl => { sl with xbar := sl.xbar.set (h.set % 4) (sl.xbarOf h.set ++ [r]) }
  else s.enterBank h r

/-- A request at a slice of its source's own sector: the replica answers a read, and a miss is forwarded (R215). -/
def State.atReplica (s : State) (h : HomeAt) (r : Req) : State :=
  let hit := match srcSector r.src with
    | some (die, sec) => if s.homePending r.src r.line then none else (s.replica? die sec r.line).map fun l => (s.placeIn die sec r.line, l)
    | none => none
  match hit with
  | some (p, l) =>
    if l.poison then (s.failReq r 0x0C1).endOut r.op
    else (s.modSlice p.slice fun sl => sl.touch p.set r.line id).bindRead r l.data []
  | none =>
    match srcSector r.src with
    | some (die, sec) => s.toHolder h.slice (holderBit die sec) (.req h.slice r) true
    | none => s.toSlice h.slice r

/-- A slice takes a request from its port, at the home or at a replica slice (R213, R215). -/
def State.atSlice (s : State) (slice : Nat) (r : Req) : State :=
  match s.home r.line with
  | none => s.landPiece r.op r.piece
  | some h => if h.slice = slice then s.arrive h r else s.atReplica h r

/-- The oldest request of a source at a slice's port (R207). -/
def State.portHead (s : State) (slice : Nat) (src : Src) : Option Req :=
  (s.net.find? fun x => x.1 == slice && x.2.src == src).map (·.2)

/-- Take the oldest request of a source from a slice's port. -/
def takePort (slice : Nat) (src : Src) : List (Nat × Req) → List (Nat × Req)
  | [] => []
  | x :: r => if x.1 == slice && x.2.src == src then r else x :: takePort slice src r

end Sys2Proof.Machine
end

