-- ==== Sys2Proof/Machine/LaneMem.lean ====
section
/-!
DEFINITION. Lane memory, opcodes 0xB0 to 0xB5 (spec/06_control_crosslane_lane_memory.md R126–R132;
spec/08_core.md R143, R147, R366; spec/22_fabric.md R334).
-/

namespace Sys2Proof.Machine

/-! ### Accesses of lanes -/

/-- An access of a lane: its virtual address, length, and byte position in the lane's value. -/
structure VAcc where
  lane : Nat
  va : BitVec 56
  len : Nat
  pos : Nat
  deriving DecidableEq, Repr

/-- What an access reaches: memory, zero of a discarded page, scratch, or another package. -/
inductive Tgt where
  | mem (pa : Nat) (cls : Cls) (arena : Bool)
  | zero
  | scr (off : Nat)
  | remote (peer pa : Nat) (cls : Cls)
  deriving DecidableEq, Repr

/-- Translate accesses in lane order, then go on; the lowest failing lane decides the cause (R282). -/
def Ctx.translateAll (x : Ctx) (write : Bool) (kind : Nat) (k : State → List (VAcc × Tgt) → Res) :
    List VAcc → List (VAcc × Tgt) → State → Res
  | [], acc, s => k s acc
  | a :: r, acc, s =>
    if isPeer a.va && !s.inPod then .cause 0x140 0
    else
      match s.translateLane x.from x.ref a.lane a.va write with
      | (s, .ok pa e) =>
        let t : Tgt := if isPeer a.va then .remote e.peer.toNat pa e.cls else .mem pa e.cls e.arena.isSome
        x.translateAll write kind k r (acc ++ [(a, t)]) s
      | (s, .discarded _) => x.translateAll write kind k r (acc ++ [(a, .zero)]) s
      | (s, .scratch off) =>
        if x.team.scr < off + a.len then .cause 0x040 0
        else x.translateAll write kind k r (acc ++ [(a, .scr off)]) s
      | (s, .err c) => accessRes s c kind a.va 0
      | (s, .busy) => .retry s

/-- The lanes that perform a load: one for a uniform destination (R127). -/
def Ctx.loadLanes (x : Ctx) (dst : Operand) : List Nat :=
  match dst with
  | .s _ => (Mask.list x.ex).take 1
  | _ => Mask.list x.ex

/-- The accesses of LD and ST (R127). -/
def Ctx.vaccs (x : Ctx) (w : ExtM) (ls : List Nat) : List VAcc :=
  ls.map fun l => { lane := l, va := x.ea w.a w.offset l, len := sizeBytes w.size, pos := 0 }

/-- The first access that is not aligned to its length raises 0x008 (R127). -/
def misaligned (accs : List VAcc) : Option VAcc := accs.find? fun a => a.va.toNat % a.len != 0

/-- Scratch byte address of a team-relative offset on the team's core (R148). -/
def Ctx.scrAddr (x : Ctx) (off : Nat) : Nat := x.team.scrBase + off

def State.scrRead (s : State) (core a n : Nat) : Nat := (s.core core).scratch.readN a n

def State.scrWrite (s : State) (core a n v : Nat) : State :=
  s.modCore core fun c => { c with scratch := c.scratch.writeN a n v }

/-- The distinct lines of memory accesses, in the order of their lowest lanes (R127). -/
def linesOf (ts : List (VAcc × Tgt)) : List Nat :=
  (ts.filterMap fun x => match x.2 with | .mem pa _ _ => some (pa / 128) | _ => none).eraseDups

/-- The distinct lines of other packages, in the order of their lowest lanes (R335). -/
def remotesOf (ts : List (VAcc × Tgt)) : List (Nat × Nat) :=
  (ts.filterMap fun x => match x.2 with | .remote p pa _ => some (p, pa / 128) | _ => none).eraseDups

/-- The class of a line of another package, from the leaf of the lowest lane (R334). -/
def remCls (ts : List (VAcc × Tgt)) (peer line : Nat) : Cls :=
  (ts.findSome? fun x => match x.2 with
    | .remote p pa c => if p = peer ∧ pa / 128 = line then some c else none
    | _ => none).getD .other

/-- The accesses that fall in a line, as accesses of a piece. -/
def accsIn (ts : List (VAcc × Tgt)) (peer : Option Nat) (line : Nat) : List Acc :=
  ts.filterMap fun x =>
    let acc (pa : Nat) : Acc := { lane := x.1.lane, off := pa % 128, len := x.1.len, pos := x.1.pos }
    match x.2, peer with
    | .mem pa _ _, none => if pa / 128 = line then some (acc pa) else none
    | .remote p pa _, some q => if p = q ∧ pa / 128 = line then some (acc pa) else none
    | _, _ => none

/-- The class and arena flag of a line's page. -/
def clsIn (ts : List (VAcc × Tgt)) (line : Nat) : Cls × Bool :=
  (ts.findSome? fun x => match x.2 with | .mem pa c a => if pa / 128 = line then some (c, a) else none | _ => none).getD
    (.other, false)

/-- The group is its team's laggard (R141). -/
def laggardOf (t : Team) : Option Nat :=
  let live := t.groups.zipIdx.filter fun x => x.1.live != 0
  let key (x : Group × Nat) : Nat := x.1.progress * 4096 + (match x.1.role with | .copy => 0 | .matrix => 1 | .vector => 2) * 256
    + x.1.grp
  match live with
  | [] => none
  | x :: r => some (r.foldl (fun b y => if key y < key b then y else b) x).2

def Ctx.isLaggard (x : Ctx) : Bool := laggardOf x.team == some x.ref.grp

/-! ### Loads -/

/-- The nibbles of accesses within a line. -/
def accNibbles (accs : List Acc) : BitVec 256 := accs.foldl (fun m a => m ||| nibbles a.off a.len) 0

/-- The piece of a load on a line: bound at once where L1 holds every byte, else requested (R147, R366). -/
def Ctx.loadLine (x : Ctx) (id k : Nat) (cls : Nat) (ts : List (VAcc × Tgt)) (line : Nat) (s : State) : State × Piece :=
  let accs := accsIn ts none line
  let (pc, ar) := clsIn ts line
  let req : Req :=
    { op := id, piece := k, src := .core x.core, line, cls := pc, arena := ar, g := x.ref, part := x.team.part
      epoch := s.epochOf x.team.part, body := .read (cls == 3) }
  if cls = 3 then (s.send req, { line, accs })
  else
    match (s.core x.core).l1Find line with
    | some l =>
      let s := s.modCore x.core fun c => c.l1Hit line
      if accNibbles accs &&& ~~~l.valid = 0 then (s, { line, accs, data := some l.data, vals := some (readAccs accs l.data) })
      else (s.send req, { line, accs, cls := pc })
    | none => (s.send req, { line, accs, cls := pc })

/-- The accesses of a load that need no line: zero and scratch. -/
def Ctx.directPiece (x : Ctx) (s : State) (ts : List (VAcc × Tgt)) : List Piece :=
  let ds := ts.filterMap fun y =>
    let acc : Acc := { lane := y.1.lane, off := 0, len := y.1.len, pos := y.1.pos }
    match y.2 with
    | .zero => some (acc, (y.1.lane, (0 : BitVec 128)))
    | .scr off => some (acc, (y.1.lane, BitVec.ofNat 128 (s.scrRead x.core (x.scrAddr off) y.1.len)))
    | _ => none
  if ds.isEmpty then [] else [{ line := 0, accs := ds.map (·.1), vals := some (ds.map (·.2)) }]

/-- Pieces of a load for lines in order, numbered from k. -/
def Ctx.loadLines (x : Ctx) (id : Nat) (cls : Nat) (ts : List (VAcc × Tgt)) : List Nat → Nat → State → State × List Piece
  | [], _, s => (s, [])
  | l :: r, k, s =>
    let (s, p) := x.loadLine id k cls ts l s
    let (s, ps) := x.loadLines id cls ts r (k + 1) s
    (s, p :: ps)

/-- Remote pieces of a load (R335). -/
def Ctx.loadRemotes (id : Nat) (ts : List (VAcc × Tgt)) : List (Nat × Nat) → Nat → State → State × List Piece
  | [], _, s => (s, [])
  | (p, l) :: r, k, s =>
    let s := s.remSend p l (remCls ts p l) .load id k
    let (s, ps) := Ctx.loadRemotes id ts r (k + 1) s
    (s, { line := l, accs := accsIn ts (some p) l, remote := true } :: ps)

/-- SBSET as a slot (R44, R52). -/
def slotOf (h : Head) : Option Nat := if h.sbset = 15 then none else some h.sbset.toNat

/-- The lanes' accesses are one event over several lines: lines that L1 has answered are bound with the others (R225). -/
def wholePieces (whole : Bool) (ps : List Piece) : List Piece :=
  if whole && ps.any (fun p => !p.bound) then ps.map fun p => if p.data.isSome then { p with vals := none } else p else ps

/-- A load whose accesses have been translated: one outstanding operation with a piece for every line (R127, R129). -/
def Ctx.startLoad (x : Ctx) (kind : OutKind) (w : ExtM) (regs : Nat) (s : State) (ts : List (VAcc × Tgt)) : State :=
  let whole := ts.any fun y => y.1.pos != 0
  let (id, s) := s.fresh
  let direct := x.directPiece s ts
  let lines := linesOf ts
  let (s, ps) := x.loadLines id w.cls ts lines direct.length s
  let (s, rs) := Ctx.loadRemotes id ts (remotesOf ts) (direct.length + lines.length) s
  s.addOut
    { id, g := x.ref, core := x.core, kind, sb := slotOf w.h, dst := w.dst, regs, size := w.size, sx := w.sx
      lanes := x.ex, from_ := none, pieces := direct ++ wholePieces whole ps ++ rs, part := x.team.part
      epoch := s.epochOf x.team.part
      l1pos := if w.cls = 3 then none else some (insertAt (s.core x.core) w.cls x.isLaggard)
      cls := .other, bypass := w.cls == 3, whole, slot := x.slot, iss := x.clk }

/-- A line that L1 does not hold is on its way to this core's L1: a further load of it waits for that one fill (timing only). -/
def State.filling (s : State) (core line : Nat) : Bool :=
  (match (s.core core).l1Find line with | some l => l.valid != allNibbles | none => true)
  && s.outst.any fun e => e.2.core == core && e.2.l1pos.isSome && e.2.pieces.any fun p => p.line == line && !p.bound && !p.remote

/-- A load must wait for an earlier one: for a fill of its line, or for a load of its group that finds the line another way, by
a bypass or by a fill, since a later read of a lane finds nothing older (R232 Monotone; the wait is timing only). DEDUCED, log 30. -/
def State.loadWaits (s : State) (core : Nat) (g : GRef) (bypass : Bool) (line : Nat) : Bool :=
  if bypass then s.unread g line fun o => !o.bypass
  else s.filling core line || s.unread g line fun _ => true

/-- The body of LD: alignment, translation, then the load (R127). -/
def Ctx.load (x : Ctx) (w : ExtM) (accs : List VAcc) (regs : Nat) (s : State) : Res :=
  match misaligned accs with
  | some a => .cause 0x008 (a.va.setWidth 64)
  | none =>
    if accs.isEmpty then .done s
    else x.translateAll false kindRead (fun s ts =>
      if (linesOf ts).any (s.loadWaits x.core x.ref (w.cls == 3)) then .retry s
      else .done (x.startLoad .load w regs s ts)) accs [] s

/-- LD (R127). -/
def execLd (w : ExtM) (s : State) :=
  runGroup (.ld w) { ends := true } (fun x s => x.load w (x.vaccs w (x.loadLanes w.dst)) (sizeRegs w.size) s) s

/-! ### Stores -/

/-- The store data of an access: its bytes, or for n4 its nibble placed in the byte (R127, R128). -/
def storeAcc (n4 hi : Bool) (off len data : Nat) : BitVec 1024 × BitVec 256 :=
  if n4 then
    if hi then (atByte off (data % 16 * 16), BitVec.ofNat 256 (2 ^ (2 * off + 1)))
    else (atByte off (data % 16), BitVec.ofNat 256 (2 ^ (2 * off)))
  else (atByte off (data % 256 ^ len), nibbles off len)

/-- How a store takes its data: the register operand, the registers, n4 and its half. -/
structure StoreSrc where
  b : Operand
  regs : Nat
  n4 : Bool
  hi : Bool

/-- The data of a line: the lanes' bytes applied in ascending lane order (R127). -/
def Ctx.lineData (x : Ctx) (d : StoreSrc) (accs : List Acc) : BitVec 1024 × BitVec 256 :=
  accs.foldl (fun acc a =>
    let (v, m) := storeAcc d.n4 d.hi a.off a.len (x.srcData d.b a.lane d.regs / 256 ^ a.pos)
    (mergeNibbles acc.1 v m, acc.2 ||| m)) (0, 0)

/-- A store to scratch of one lane. -/
def Ctx.scrStore (x : Ctx) (d : StoreSrc) (s : State) (lane off len pos : Nat) : State :=
  let v := x.srcData d.b lane d.regs / 256 ^ pos
  let a := x.scrAddr off
  if d.n4 then
    let old := s.scrRead x.core a 1
    s.scrWrite x.core a 1 (if d.hi then old % 16 + v % 16 * 16 else old / 16 * 16 + v % 16)
  else s.scrWrite x.core a len (v % 256 ^ len)

/-- The copy that L1 holds of a line follows a bypass store; loads on their way bring no older one (R366). -/
def State.l1Follow (s : State) (core line : Nat) (data : BitVec 1024) (mask : BitVec 256) : State :=
  (s.modCore core fun c => c.l1Mod line fun l =>
    { l with data := mergeNibbles l.data data mask, valid := l.valid ||| mask, dirty := l.dirty &&& ~~~mask }).noInstall
      core (· == line)

/-- The request of a bypass store for a line (R366). -/
def Ctx.sendStore (x : Ctx) (d : StoreSrc) (ts : List (VAcc × Tgt)) (id : Nat) (s : State) (l : Nat × Nat) : State :=
  let (line, piece) := l
  let (data, mask) := x.lineData d (accsIn ts none line)
  let (pc, ar) := clsIn ts line
  (s.l1Follow x.core line data mask).send
    { op := id, piece, src := .core x.core, line, cls := pc, arena := ar, g := x.ref, part := x.team.part
      epoch := s.epochOf x.team.part, body := .write data mask false }

/-- A bypass store of lines as one operation: lines that form one event perform at one moment (R225, R366). -/
def Ctx.storeBypass (x : Ctx) (d : StoreSrc) (ts : List (VAcc × Tgt)) (whole : Bool) (s : State) (lines : List Nat) : State :=
  let (id, s) := s.fresh
  let s := s.addOut
    { id, g := x.ref, core := x.core, kind := .effect, sb := none, dst := .zero, regs := 0, size := 0, sx := false
      lanes := x.ex, from_ := none, pieces := lines.map fun line => { line, accs := [] }, part := x.team.part
      epoch := s.epochOf x.team.part, l1pos := none, cls := .other, bypass := true, whole }
  lines.zipIdx.foldl (x.sendStore d ts id) s

/-- A store of a line: in L1, or under CLASS L1 bypass at the slice and in the copy that L1 holds (R147, R366). -/
def Ctx.storeLine (x : Ctx) (cls : Nat) (d : StoreSrc) (ts : List (VAcc × Tgt)) (s : State) (line : Nat) : State :=
  if cls = 3 then x.storeBypass d ts false s [line]
  else
    let (data, mask) := x.lineData d (accsIn ts none line)
    s.l1Store x.core x.ref (insertAt (s.core x.core) cls x.isLaggard) line data mask (clsIn ts line).1 x.team.part

/-- A store to another package (R334, R335). -/
def Ctx.storeRemote (x : Ctx) (d : StoreSrc) (ts : List (VAcc × Tgt)) (s : State) (r : Nat × Nat) : State :=
  let (data, mask) := x.lineData d (accsIn ts (some r.1) r.2)
  let (id, s) := s.fresh
  let s := s.addOut
    { id, g := x.ref, core := x.core, kind := .effect, sb := none, dst := .zero, regs := 0, size := 0, sx := false
      lanes := x.ex, from_ := none, pieces := [{ line := r.2, accs := [], remote := true }], part := x.team.part
      epoch := s.epochOf x.team.part, l1pos := none, cls := .other, fabStore := true }
  s.remSend r.1 r.2 (remCls ts r.1 r.2) (.store data mask) id 0

/-- A store whose accesses have been translated (R127). -/
def Ctx.startStore (x : Ctx) (cls : Nat) (d : StoreSrc) (s : State) (ts : List (VAcc × Tgt)) : State :=
  let s := ts.foldl (fun s y => match y.2 with | .scr off => x.scrStore d s y.1.lane off y.1.len y.1.pos | _ => s) s
  let s := if cls = 3 ∧ (ts.any fun y => y.1.pos != 0) then x.storeBypass d ts true s (linesOf ts)
    else (linesOf ts).foldl (x.storeLine cls d ts) s
  (remotesOf ts).foldl (x.storeRemote d ts) s

/-- The body of ST (R127); a line of a shadow region raises 0x0C2 (R218), at the issue of the store as its permission does, since no
write-back faults (R229). DEDUCED, log 75. It waits for the group's loads of its lines, which read nothing later (timing only; DEDUCED, log 30). -/
def Ctx.store (x : Ctx) (cls : Nat) (d : StoreSrc) (accs : List VAcc) (s : State) : Res :=
  match misaligned accs with
  | some a => .cause 0x008 (a.va.setWidth 64)
  | none => x.translateAll true kindWrite (fun s ts =>
      if (linesOf ts).any fun l => s.unread x.ref l fun _ => true then .retry s
      else if (linesOf ts).any fun l => s.inShadow (128 * l) then .kill 0x0C2
      else .done (x.startStore cls d s ts)) accs [] s

/-- ST (R127, R128). -/
def execSt (w : ExtM) (s : State) :=
  runGroup (.st w) { ends := true } (fun x s =>
    x.store w.cls { b := w.b, regs := sizeRegs w.size, n4 := w.size == 5, hi := w.mod % 2 == 1 }
      (x.vaccs w (Mask.list x.ex)) s) s

/-! ### Private memory -/

/-- The private base of a group and PSZ (R15). -/
def Ctx.privArea (x : Ctx) (s : State) : Nat × Nat :=
  match s.node? x.team.node with
  | none => (0, 0)
  | some n =>
    let d := n.desc
    let g := d.gcnt.1 + d.gcnt.2.1 + d.gcnt.2.2
    (d.priv + (x.team.num * g + x.ref.grp) * 32 * d.psz, d.psz)

/-- The private byte address of a lane (R130). -/
def Ctx.privAddr (x : Ctx) (w : ExtM) (l : Nat) : Int := (LVec.at (x.src .int w.a) l).toNat + w.offset.toInt

/-- A lane's private address is misaligned, negative, or reaches PSZ (R130). -/
def privBad (a : Int) (len psz : Nat) : Bool := a < 0 || (psz : Int) < a + len || a % len != 0

/-- The accesses of a lane's private memory: one for each 32-bit word (R15, R130). -/
def privAccs (base l : Nat) (a len : Nat) : List VAcc :=
  let at_ (i : Nat) : BitVec 56 := BitVec.ofNat 56 (base + (a + i) / 4 * 128 + l * 4 + (a + i) % 4)
  if len ≤ 4 then [{ lane := l, va := at_ 0, len, pos := 0 }]
  else (List.range (len / 4)).map fun i => { lane := l, va := at_ (4 * i), len := 4, pos := 4 * i }

/-- The private accesses of lanes, or the address of the first lane that fails (R130).
DESIGN CHOICE, log 57: EINFO of 0x008 holds the private address of the lowest failing lane, extended by its sign. -/
def Ctx.privates (x : Ctx) (s : State) (w : ExtM) (ls : List Nat) : Except DWord (List VAcc) :=
  let (base, psz) := x.privArea s
  let len := sizeBytes w.size
  match ls.find? fun l => privBad (x.privAddr w l) len psz with
  | some l => .error (BitVec.ofInt 64 (x.privAddr w l))
  | none => .ok (ls.flatMap fun l => privAccs base l (x.privAddr w l).toNat len)

/-- LDL (R130). -/
def execLdl (w : ExtM) (s : State) :=
  runGroup (.ldl w) { ends := true } (fun x s =>
    match x.privates s w (x.loadLanes w.dst) with
    | .error a => .cause 0x008 a
    | .ok accs => x.load w accs (sizeRegs w.size) s) s

/-- STL (R130). -/
def execStl (w : ExtM) (s : State) :=
  runGroup (.stl w) { ends := true } (fun x s =>
    match x.privates s w (Mask.list x.ex) with
    | .error a => .cause 0x008 a
    | .ok accs => x.store w.cls { b := w.b, regs := sizeRegs w.size, n4 := false, hi := false } accs s) s

/-! ### LDC and PREF -/

/-- The pieces of LDC: bound where the constant cache holds the line, else requested (R131). -/
def Ctx.ldcLines (x : Ctx) (id : Nat) (ts : List (VAcc × Tgt)) : List Nat → Nat → State → State × List Piece
  | [], _, s => (s, [])
  | l :: r, k, s =>
    let accs := accsIn ts none l
    let (pc, ar) := clsIn ts l
    let (s, p) : State × Piece :=
      match (s.core x.core).ccache.get? l with
      | some d => (s, { line := l, accs, vals := some (readAccs accs d) })
      | none =>
        (s.send { op := id, piece := k, src := .core x.core, line := l, cls := pc, arena := ar, g := x.ref
                  part := x.team.part, epoch := s.epochOf x.team.part, body := .read false }, { line := l, accs })
    let (s, ps) := x.ldcLines id ts r (k + 1) s
    (s, p :: ps)

/-- LDC (R131). -/
def execLdc (w : ExtM) (s : State) :=
  runGroup (.ldc w) { ends := true } (fun x s =>
    let accs := x.vaccs w (x.loadLanes w.dst)
    match misaligned accs with
    | some a => .cause 0x008 (a.va.setWidth 64)
    | none =>
      if accs.isEmpty then .done s
      else if accs.any fun a => isPeer a.va then .cause 0x141 0
      else x.translateAll false kindRead (fun s ts =>
        let (id, s) := s.fresh
        let direct := x.directPiece s ts
        let (s, ps) := x.ldcLines id ts (linesOf ts) direct.length s
        .done (s.addOut
          { id, g := x.ref, core := x.core, kind := .ldc, sb := slotOf w.h, dst := w.dst, regs := sizeRegs w.size
            size := w.size, sx := false, lanes := x.ex, from_ := none, pieces := direct ++ ps, part := x.team.part
            epoch := s.epochOf x.team.part, l1pos := none, cls := .other, slot := x.slot, iss := x.clk })) accs [] s) s

/-- Translate lanes and keep those that reach memory: the others are skipped without a cause (R132, R247). -/
def Ctx.translateSkip (x : Ctx) (k : State → List (VAcc × Tgt) → Res) : List VAcc → List (VAcc × Tgt) → State → Res
  | [], acc, s => k s acc
  | a :: r, acc, s =>
    if isPeer a.va then x.translateSkip k r acc s
    else
      match s.translateLane x.from x.ref a.lane a.va false with
      | (s, .ok pa e) => x.translateSkip k r (acc ++ [(a, .mem pa e.cls e.arena.isSome)]) s
      | (s, .busy) => .retry s
      | (s, _) => x.translateSkip k r acc s

/-- A prefetched line is requested where L1 does not hold all of it (R132). -/
def Ctx.prefLine (x : Ctx) (cls : Nat) (ts : List (VAcc × Tgt)) (s : State) (line : Nat) : State :=
  let (pc, ar) := clsIn ts line
  match (s.core x.core).l1Find line with
  | some l =>
    if l.valid = allNibbles then s.modCore x.core fun c => c.l1Hit line
    else if s.filling x.core line then s else go pc ar s
  | none => if s.filling x.core line then s else go pc ar s
where
  go (pc : Cls) (ar : Bool) (s : State) : State :=
    let (id, s) := s.fresh
    let s := s.send { op := id, piece := 0, src := .core x.core, line, cls := pc, arena := ar, g := x.ref
                      part := x.team.part, epoch := s.epochOf x.team.part, body := .read false }
    s.addOut
      { id, g := x.ref, core := x.core, kind := .load, sb := none, dst := .zero, regs := 0, size := 0, sx := false, lanes := 0
        from_ := none, pieces := [{ line, accs := [], cls := pc }], part := x.team.part, epoch := s.epochOf x.team.part
        l1pos := some (insertAt (s.core x.core) cls x.isLaggard), cls := pc }

/-- PREF (R132); under CLASS L1 bypass it allocates nothing (R366). -/
def execPref (w : ExtM) (s : State) :=
  runGroup (.pref w) { ends := true } (fun x s =>
    x.translateSkip (fun s ts => .done (if w.cls = 3 then s else (linesOf ts).foldl (x.prefLine w.cls ts) s))
      (x.vaccs w (Mask.list x.ex)) [] s) s

end Sys2Proof.Machine
end

