-- ==== Sys2Proof/Machine/Scratch.lean ====
section
/-!
DEFINITION. Scratch instructions and hoops, opcodes 0xC0 to 0xC5 (spec/09_core_instructions.md R156–R162,
spec/08_core.md R148–R151).
-/

namespace Sys2Proof.Machine

/-! ### Scratch -/

/-- The cause of scratch accesses of some lanes (R157): misalignment first, then the range. -/
def Ctx.scrCause (x : Ctx) (w : ExtM) (ls : List Nat) : Option (Nat × DWord) :=
  let n := sizeBytes w.size
  let off (l : Nat) : Nat := x.scratchOff w.a w.offset l
  match ls.find? fun l => off l % n != 0 with
  | some l => some (0x008, BitVec.ofNat 64 (off l))
  | none => if ls.any fun l => decide (x.team.scr < off l + n) then some (0x040, 0) else none

/-- An outstanding result of scratch: its accesses with their values (R156). -/
def Ctx.scrOut (x : Ctx) (w : ExtM) (accs : List Acc) (vals : List (Nat × BitVec 128)) (s : State) : State :=
  let (id, s) := s.fresh
  s.addOut
    { id, g := x.ref, core := x.core, kind := .scratch, sb := slotOf w.h, dst := w.dst, regs := sizeRegs w.size
      size := w.size, sx := w.sx, lanes := x.ex, from_ := none, pieces := [{ line := 0, accs, vals := some vals }]
      part := x.team.part, epoch := s.epochOf x.team.part, l1pos := none, cls := .other, slot := x.slot, iss := x.clk }

/-- LDS (R157). -/
def execLds (w : ExtM) (s : State) :=
  runGroup (.lds w) { ends := true } (fun x s =>
    let ls := x.loadLanes w.dst
    let n := sizeBytes w.size
    match x.scrCause w (Mask.list x.ex) with
    | some (c, e) => .cause c e
    | none =>
      if ls.isEmpty then .done s
      else
        let accs : List Acc := ls.map fun l => { lane := l, off := 0, len := n, pos := 0 }
        let vals := ls.map fun l => (l, BitVec.ofNat 128 (s.scrRead x.core (x.scrAddr (x.scratchOff w.a w.offset l)) n))
        .done (x.scrOut w accs vals s)) s

/-- STS (R157). -/
def execSts (w : ExtM) (s : State) :=
  runGroup (.sts w) { ends := true } (fun x s =>
    let ls := Mask.list x.ex
    let d : StoreSrc := { b := w.b, regs := sizeRegs w.size, n4 := w.size == 5, hi := w.mod % 2 == 1 }
    match x.scrCause w ls with
    | some (c, e) => .cause c e
    | none => .done (ls.foldl (fun s l => x.scrStore d s l (x.scratchOff w.a w.offset l) (sizeBytes w.size) 0) s)) s

/-- Registers of B of an ATOMS operation (R159). -/
def atomsRegs (mod : Nat) : Nat :=
  match mod with
  | 13 => 4
  | 1 | 12 => 2
  | _ => 1

/-- The lanes' read-modify-writes on scratch in ascending order, with the old values (R159). -/
def Ctx.atomsLanes (x : Ctx) (w : ExtM) (s : State) (ls : List Nat) : State × List (Nat × BitVec 128) :=
  let n := sizeBytes w.size
  ls.foldl (fun acc l =>
    let (s, olds) := acc
    let a := x.scrAddr (x.scratchOff w.a w.offset l)
    let old := s.scrRead x.core a n
    let s := match handler (atomsHnd w.mod) old (x.hndSrc (atomsHnd w.mod) (atomsRegs w.mod) w.b l) with
      | some v => s.scrWrite x.core a n v
      | none => s
    (s, olds ++ [(l, BitVec.ofNat 128 old)])) (s, [])

/-- ATOMS (R159). -/
def execAtoms (w : ExtM) (s : State) :=
  runGroup (.atoms w) { ends := true } (fun x s =>
    let ls := Mask.list x.ex
    match x.scrCause w ls with
    | some (c, e) => .cause c e
    | none =>
      let (s, olds) := x.atomsLanes w s ls
      let keep := match w.dst with | .s _ => olds.take 1 | _ => olds
      if w.dst = .zero ∨ keep.isEmpty = true then .done s
      else .done (x.scrOut w (keep.map fun o => { lane := o.1, off := 0, len := sizeBytes w.size, pos := 0 }) keep s)) s

/-! ### Hoops -/

/-- The tag of a slot (R150). -/
def Hoop.tagOf (h : Hoop) (i : Nat) : Tag := h.tag.getD i .empty

/-- Tag codes (R150). -/
def Tag.code (t : Tag) : Nat :=
  match t with
  | .empty => 0
  | .filling => 1
  | .full => 2
  | .draining => 3

/-- The 64-bit state word of a hoop: TAG, PH, NACQ, NWT, NREL and NSLOT (R150). -/
def Hoop.stateWord (h : Hoop) : DWord :=
  let tags := ((List.range h.nslot).map fun i => (h.tagOf i).code * 4 ^ i).sum
  let phs := ((List.range h.nslot).map fun i => if h.ph.getD i false then 2 ^ i else 0).sum
  BitVec.ofNat 64 (tags * 2 ^ 32 + phs * 2 ^ 16 + h.nacq * 2 ^ 12 + h.nwt * 2 ^ 8 + h.nrel * 2 ^ 4 + (h.nslot - 1))

/-- The index after i (R150). -/
def Hoop.next (h : Hoop) (i : Nat) : Nat := (i + 1) % h.nslot

/-- The slot word (R160). -/
def Hoop.word (h : Hoop) (i : Nat) : Word :=
  BitVec.ofNat 32 ((if h.ph.getD i false then 2 ^ 28 else 0) + i * 2 ^ 24 + (h.off + i * h.ssz))

def State.modHoop (s : State) (t h : Nat) (f : Hoop → Hoop) : State :=
  s.modTeam t fun tm => { tm with hoops := tm.hoops.modify h f }

/-- The generation of every operand handle of a team's matrix unit advances (R182). -/
def State.bumpGens (s : State) (t : Nat) : State :=
  match (s.team? t).bind Team.core? with
  | some c =>
    if (s.core c).mx.owner = some t then
      s.modCore c fun k => { k with mx := { k.mx with
        hnd := (List.range 8).foldl (fun m i => m.update i {} fun h => { h with gen := h.gen + 1 }) k.mx.hnd } }
    else s
  | none => s

/-- A tag change of a hoop's slot: the generations advance (R151, R182). -/
def State.tagHoop (s : State) (t h : Nat) (f : Hoop → Hoop) : State := (s.modHoop t h f).bumpGens t

/-- While the slot that NWT names is FULL, the oldest waiter takes it; the others then wait on the new NWT (R151, R162). A hoop has at
most 16 slots. -/
def State.hoopWake (s : State) (t h : Nat) : Nat → State
  | 0 => s
  | n + 1 =>
    match (s.team? t).bind fun tm => tm.hoops.get? h with
    | none => s
    | some hp =>
      match hp.waiters with
      | w :: r =>
        if hp.tagOf hp.nwt = .full then
          let word := hp.word hp.nwt
          let s := s.tagHoop t h fun hp => { hp with tag := hp.tag.set hp.nwt .draining, nwt := hp.next hp.nwt, waiters := r }
          (s.wake w.g w.slot (WaitOut.word true word)).hoopWake t h n
        else s
      | [] => s

/-- H of the hoop instructions. -/
def hoopOf (w : ExtA) : Nat := w.f 11 9

/-- The hoop that an instruction names, or cause 0x041 (R161); with no executing lane nothing happens (R155). -/
def Ctx.withHoop (x : Ctx) (w : ExtA) (s : State) (k : Hoop → Res) : Res :=
  if x.ex = 0 then .done s
  else
  match (s.team? x.ref.team).bind fun t => t.hoops.get? (hoopOf w) with
  | some h => k h
  | none => .cause 0x041 0

/-- HOOP.ACQ (R151, R161): PD [14:12]. -/
def execHoopAcq (w : ExtA) (s : State) :=
  runGroup (.hoopAcq w) { ends := true, lat := some 1, pdst := [w.f 14 12] } (fun x s =>
    x.withHoop w s fun h =>
      if h.tagOf h.nacq = .empty then
        let s := x.now (fun _ => h.word h.nacq) s
        let s := s.tagHoop x.ref.team (hoopOf w) fun h => { h with tag := h.tag.set h.nacq .filling, nacq := h.next h.nacq }
        .done (x.nowP (w.f 14 12) x.ex s)
      else .done (x.nowP (w.f 14 12) 0 s)) s

/-- HOOP.WAIT (R151, R161, R162). -/
def execHoopWait (w : ExtA) (s : State) :=
  runGroup (.hoopWait w) { ends := true, lat := some 1 } (fun x s =>
    x.withHoop w s fun h =>
      if h.tagOf h.nwt = .full then
        let s := x.now (fun _ => h.word h.nwt) s
        .done (s.tagHoop x.ref.team (hoopOf w) fun h => { h with tag := h.tag.set h.nwt .draining, nwt := h.next h.nwt })
      else
        let s := s.modHoop x.ref.team (hoopOf w) fun h => { h with waiters := h.waiters ++ [{ g := x.ref, slot := x.slot }] }
        .wait s { on := .hoop (hoopOf w), ipc := x.pc, dst := w.dst, wide := false, pd := none, lanes := x.ex }) s

/-- HOOP.REL (R151, R161). -/
def execHoopRel (w : ExtA) (s : State) :=
  runGroup (.hoopRel w) { ends := true } (fun x s =>
    x.withHoop w s fun h =>
      if h.tagOf h.nrel ≠ .draining then .cause 0x042 0
      else
        .done (s.tagHoop x.ref.team (hoopOf w) fun h =>
          { h with tag := h.tag.set h.nrel .empty, ph := h.ph.set h.nrel (!h.ph.getD h.nrel false)
                   fill := h.fill.erase h.nrel, nrel := h.next h.nrel })) s

end Sys2Proof.Machine
end

