-- ==== Sys2Proof/Machine/Ways.lean ====
section
/-!
DEFINITION. The division of a core's SRAM store between cache and scratch (spec/08_core.md R144–R146, R149).
-/

namespace Sys2Proof.Machine

/-- Bytes of a way. -/
def wayBytes : Nat := 128 * 1024

/-- Scratch ways of a core; they are ways 8 upward (R146). -/
def Core.scrWays (c : Core) : Nat := ((List.range 8).filter fun i => c.wmask.getLsbD (8 + i)).length

/-- A team holds places and scratch of a core: it is resident there, or being restored there. -/
def Team.onCore (t : Team) (core : Nat) : Bool :=
  match t.place with
  | .resident c | .restoring c => c == core
  | _ => false

/-- Teams that hold places and scratch of a core. -/
def State.residents (s : State) (core : Nat) : List Team := (s.teams.filter fun t => t.2.onCore core).map (·.2)

/-- Scratch ways needed by the resident teams' ranges, from way 8 upward. -/
def State.heldWays (s : State) (core : Nat) : Nat :=
  (s.residents core).foldl (fun n t => if t.scr = 0 then n else max n ((t.scrBase + t.scr + wayBytes - 1) / wayBytes)) 0

/-- Bytes of scratch from DST on among which a command writes (R165, R167). -/
def CopyCmd.span (c : CopyCmd) : Nat :=
  match c.kind with
  | 1 => c.len
  | 2 => (c.n - 1) * c.dstr + c.rowb
  | _ => (c.n - 1) * c.bstr + (c.boxh - 1) * c.dstr + c.rowb

/-- Scratch of the core from one byte up to another is the target of a pending copy command (R146). -/
def State.copyInto (s : State) (core lo hi : Nat) : Bool :=
  (s.core core).cq.any fun e =>
    match s.team? e.team with
    | some t =>
      let a := t.scrBase + e.cmd.dst
      e.cmd.dk && !e.paused && decide (a < hi) && decide (lo < a + e.cmd.span)
    | none => false

/-- A change between two numbers of scratch ways affects a way into which a copy command may still write, and is deferred (R146). -/
def State.waysBusy (s : State) (core a b : Nat) : Bool := s.copyInto core (min a b * wayBytes) (max a b * wayBytes)

/-- Make ways 8 to 8 + n − 1 scratch: lines of ways that leave the cache are written back and dropped, scratch of ways that
return is lost (R146). -/
def State.setWays (s : State) (core : Nat) (g : GRef) (n : Nat) : State :=
  let gone (w : Nat) : Bool := 8 ≤ w && w < 8 + n
  let lines := ((s.core core).l1.flatMap (·.2)).filter fun l => gone l.way
  let s := lines.foldl (fun s l => s.writeback core g l) s
  s.modCore core fun c =>
    { c with
      l1 := c.l1.map fun e => (e.1, e.2.filter fun l => !gone l.way)
      scratch := c.scratch.filter fun x => x.1 < n * wayBytes
      wmask := BitVec.ofNat 32 ((2 ^ n - 1) * 256) }

/-- Scratch ways above every way that holds scratch of a resident team return to cache, unless the change is deferred (R146). -/
def State.returnWays (s : State) (core : Nat) (g : GRef) : State :=
  let n := s.heldWays core
  let k := (s.core core).scrWays
  if k ≤ n || s.waysBusy core n k then s else (s.setWays core g n).trimVictims core

/-- Bytes of scratch of a team, rounded up to 4 KiB (R136). -/
def roundScr (n : Nat) : Nat := (n + 4095) / 4096 * 4096

/-- The lowest offset at which a scratch range fits below a limit, among ranges in use (R137, R146). -/
def scrFit (used : List (Nat × Nat)) (n limit : Nat) : Option Nat :=
  if n = 0 then some 0
  else
    (sortBy (fun a b => a ≤ b) (0 :: used.map fun u => u.1 + u.2)).find? fun o =>
      o + n ≤ limit && used.all fun u => u.2 == 0 || u.1 + u.2 ≤ o || o + n ≤ u.1

/-- Scratch ranges of the resident teams of a core. -/
def State.scrUsed (s : State) (core : Nat) : List (Nat × Nat) := (s.residents core).map fun t => (t.scrBase, t.scr)

/-- The scratch range and the scratch ways with which a team's scratch fits on a core (R136, R146). -/
def State.scrPlace (s : State) (core n : Nat) : Option (Nat × Nat) :=
  let have_ := (s.core core).scrWays
  ((List.range (9 - have_)).map (have_ + ·)).findSome? fun k =>
    match scrFit (s.scrUsed core) n (k * wayBytes) with
    | some o => some (o, k)
    | none => none

end Sys2Proof.Machine
end

