-- ==== Sys2Proof/Machine/Barrier.lean ====
section
/-!
DEFINITION. Team and cluster barriers, FENCES and WAYM, opcodes 0xCB to 0xCF and 0xE3
(spec/09_core_instructions.md R170–R173, spec/12_cluster.md R204).
-/

namespace Sys2Proof.Machine

/-- A wait without a result. -/
def Ctx.waitFor (x : Ctx) (on : WaitFor) : Wait :=
  { on, ipc := x.pc, dst := .zero, wide := false, pd := none, lanes := x.ex }

def Ctx.waiter (x : Ctx) : Waiter := { g := x.ref, slot := x.slot }

/-- The issuing split goes on if its barrier has completed; otherwise it waits, and joins the waiters. -/
def Ctx.waitUnless (x : Ctx) (complete : Bool) (on : WaitFor) (s joined : State) : Res :=
  if complete then .done s else .wait joined (x.waitFor on)

/-- Every earlier event of the issuing split's lanes has performed, so that a boundary of scope CORE completes at once (R228, R229). -/
def Ctx.performed (x : Ctx) (s : State) : Bool := (s.unperformed x.ref x.act).isEmpty

/-- BART (R170). Its arrival is a boundary of scope CORE (R171, R228): it issues once the boundary is complete. -/
def execBart (w : ExtA) (s : State) :=
  runGroup (.bart w) { ends := true } (fun x s =>
    if !x.performed s then .retry s else
    let s := s.modTeam x.ref.team fun t => { t with bart := { t.bart with lanes := arriveLanes t.bart.lanes x.ref.grp x.act } }
    let gen := ((s.team? x.ref.team).map fun t => t.bart.gen).getD 0
    let s' := s.bartCheck x.ref.team
    let gen' := ((s'.team? x.ref.team).map fun t => t.bart.gen).getD 0
    x.waitUnless (gen != gen') .bart s'
      (s'.modTeam x.ref.team fun t => { t with bart := { t.bart with waiters := t.bart.waiters ++ [x.waiter] } })) s

/-- Arrival of a split at role barrier k with n (R170): the state after it, and whether the generation completed; none for
a group that arrives twice. It is a boundary of scope CORE, and issues once that is complete (R171, R228). -/
def Ctx.roleArrive (x : Ctx) (k n : Nat) (s : State) : Option (State × Bool) :=
  let b := ((s.team? x.ref.team).bind fun t => t.barr.get? k).getD {}
  if b.arrived.contains x.ref.grp then none
  else
    let b := { b with lanes := arriveLanes b.lanes x.ref.grp x.act, counts := b.counts.set x.ref.grp n }
    let s := (s.modTeam x.ref.team fun t => { t with barr := t.barr.set k b }).barrCheck x.ref.team k
    let gen' := (((s.team? x.ref.team).bind fun t => t.barr.get? k).getD {}).gen
    some (s, b.gen != gen')

/-- BARR.ARV (R170): k [11:9], n − 1 [15:12]. -/
def execBarrArv (w : ExtA) (s : State) :=
  runGroup (.barrArv w) { ends := true } (fun x s =>
    if !x.performed s then .retry s else
    match x.roleArrive (w.f 11 9) (w.f 15 12 + 1) s with
    | none => .cause 0x04A 0
    | some (s, _) => .done s) s

/-- BARR.WT (R170). -/
def execBarrWt (w : ExtA) (s : State) :=
  runGroup (.barrWt w) { ends := true } (fun x s =>
    let k := w.f 11 9
    if !x.performed s then .retry s else
    match x.roleArrive k (w.f 15 12 + 1) s with
    | none => .cause 0x04A 0
    | some (s, complete) =>
      x.waitUnless complete (.barr k) s (s.modTeam x.ref.team fun t =>
        { t with barr := t.barr.update k {} fun b => { b with waiters := b.waiters ++ [x.waiter] } })) s

/-- FENCES (R172): scratch stores have performed at their issue; every handle's generation advances. -/
def execFences (w : ExtA) (s : State) :=
  runGroup (.fences w) { ends := true } (fun x s =>
    if x.ex = 0 then .done s else .done (s.bumpGens x.ref.team)) s

/-- The scratch ways that WAYM asks for: the ways from 8 upward without a gap.
DEDUCED, log 20. -/
def askedWays (scr : Nat) : Nat := ((List.range 8).takeWhile fun i => scr.testBit i).length

/-- WAYM (R146, R173); victim translations in units that the change claims go at once (R149).
DEDUCED, log 73: with no executing lane it performs nothing, in kernel code too. -/
def execWaym (w : ExtA) (s : State) :=
  runGroup (.waym w) { ends := true, lat := some 1 } (fun x s =>
    if x.ex = 0 then .done s
    else if !x.team.priv then .cause 0x044 0
    else
      let n := max (askedWays ((x.low w.a).toNat / 256 % 256)) (s.heldWays x.core)
      if s.waysBusy x.core n (s.core x.core).scrWays then .retry s else
      let s := (s.setWays x.core x.ref n).trimVictims x.core
      .done (x.now (fun _ => (s.core x.core).wmask) s)) s

/-! ### BARC -/

/-- Arrival at a cluster barrier (R204). -/
def Ctx.barcArrive (x : Ctx) (k n : Nat) (s : State) : Res :=
  let cl := x.cluster
  let b := (s.cluster cl).links.bars.getD k {}
  if b.lid.isSome && b.lid != some x.team.lid then .cause 0x081 0
  else if b.arrived.contains x.ref.team || (match b.counts.get? x.ref.team with | some m => m != n | none => false) then
    .cause 0x082 0
  else
    let s := s.modBar cl k fun b =>
      { b with lid := some x.team.lid, counts := b.counts.set x.ref.team n
               lanes := b.lanes.update x.ref.team [] fun ls => arriveLanes ls x.ref.grp x.act }
    let s := s.barcCheck cl k x.ref.team
    let gen' := ((s.cluster cl).links.bars.getD k {}).gen
    x.waitUnless (b.gen != gen') (.barc k) s (s.modBar cl k fun b => { b with waiters := b.waiters ++ [x.waiter] })

/-- BARC (R204): k [10:9], n − 1 [17:12], PH in MOD [0]. With PH, the split performs PHASE of scope PKG before it arrives. -/
def execBarc (w : ExtA) (s : State) :=
  runGroup (.barc w) { ends := true } (fun x s =>
    if w.mod % 2 = 1 ∧ x.g.phased = false then .retry ((s.phasePkg x.core x.ref x.act).modGroup x.ref fun g => { g with phased := true })
    else x.barcArrive (w.f 10 9) (w.f 17 12 + 1) s) s

end Sys2Proof.Machine
end

