-- ==== Sys2Proof/Machine/HomeAgent.lean ====
section
/-!
DEFINITION. Accesses of hardware agents at the homes of lines (spec/13_die_memory_system.md R212–R216; spec/14_ordering_model.md
R225). An agent performs its access in its own event when nothing stands before it at the home; otherwise it takes a place among
the requests that wait there, and performs when its turn comes (log 37).
-/

namespace Sys2Proof.Machine

/-- An agent's place among the requests that wait at a home. -/
def ticket (a : Agent) (write : Bool) (line : Nat) (cls : Cls) : Req :=
  { op := 0, piece := 0, src := .fabric, line, cls, arena := false, g := noGroup, part := 0, epoch := 0, body := .agent a write }

/-- The agent has a place at the home of a line. -/
def Slice.hasPlace (sl : Slice) (a : Agent) (line : Nat) : Bool :=
  sl.waiting.any fun r => r.line == line && (match r.body with | .agent b _ => b == a | _ => false)

/-- An access of a line may perform at its home now: nothing stands before it, the line is present, and a write finds no replica
(R213, R216). -/
def Slice.freeFor (sl : Slice) (set line : Nat) (cls : Cls) (write : Bool) : Bool :=
  !sl.busy set line && !sl.misses set line cls && (!write || sl.holders.getD line 0 == 0)

/-- Holders of a line are invalidated again for the agent whose turn it is (R216). -/
def State.reinvalidate (s : State) (h : HomeAt) (line : Nat) : State :=
  let hv := (s.slice h.slice).holders.getD line 0
  (s.modSlice h.slice fun sl =>
    { sl with held := sl.held.map fun x => if x.line = line then { x with awaiting := hv } else x }).askHolders h line hv

/-- The agent whose turn it is is heard of. -/
def State.heard (s : State) (h : HomeAt) (line : Nat) (a : Agent) : State :=
  s.modSlice h.slice fun sl => { sl with held := sl.held.map fun x => if x.line = line then { x with owner := some (a, s.clk) } else x }

/-- The agent has asked for a place at the home of a line. -/
def State.asked (s : State) (a : Agent) (slice line : Nat) : Bool :=
  (s.slice slice).hasPlace a line
  || (s.reqsTo slice).any fun r => r.line == line && (match r.body with | .agent b _ => b == a | _ => false)

/-- An agent's access of a line may perform now; if not, the agent has its place at the home, or asks for it. An agent of another die
asks by message, and its access performs when it has been told of its turn (R321). -/
def State.seize (s : State) (a : Agent) (write : Bool) (line : Nat) (cls : Cls) : State × Bool :=
  match s.home line with
  | none => (s, true)
  | some h =>
    let sl := s.slice h.slice
    let mine := sl.held.find? fun x => x.line == line && (x.owner.map (·.1)) == some a
    if s.farWaits line then (s, false)
    else
      match mine with
      | some x =>
        let s := if x.told then s.heard h line a else s
        if x.awaiting ≠ 0 ∨ x.told = false then (s, false)
        else if write && sl.holders.getD line 0 != 0 then (s.reinvalidate h line, false)
        else (s, true)
      | none =>
        if s.asked a h.slice line then (s, false)
        else
          match s.agentFar a h.slice with
          | some d =>
            (s.launch { from_ := d, to_ := h.die, pair := agentPair d h.slice, msg := .req h.slice (ticket a write line cls) }, false)
          | none =>
            if sl.freeFor h.set line cls write then (s, true) else (s.arrive h (ticket a write line cls), false)

/-- The agent has made its access: what waits behind it goes on. -/
def State.letGo (s : State) (a : Agent) (line : Nat) : State :=
  match s.home line with
  | none => s
  | some h =>
    match (s.slice h.slice).held.find? fun x => x.line == line && (x.owner.map (·.1)) == some a with
    | none => s
    | some x => (s.modSlice h.slice fun sl => { sl with held := sl.held.filter fun y => y.line != line }).handleAll h x.reqs

/-- An agent that is gone keeps its turn no longer than 64 cycles.
DESIGN CHOICE, log 37: the spec speaks of no such turn. -/
def State.reap (s : State) : State :=
  let gone := s.slices.flatMap fun e => e.2.held.filterMap fun x =>
    match x.owner with
    | some (.op _, _) => none
    | some (a, t) => if x.awaiting = 0 ∧ x.told = true ∧ t + 64 ≤ s.clk then some (a, x.line) else none
    | none => none
  gone.foldl (fun s x => s.letGo x.1 x.2) s

/-! ### Reads -/

/-- A line as an agent's read finds it (R212, R218). -/
inductive Got where
  | line (d : BitVec 1024)
  | kill (code : Nat)
  | busy
  deriving DecidableEq, Repr

/-- A line read at its home. -/
def State.agentLine (s : State) (a : Agent) (line : Nat) (cls : Cls) : State × Got :=
  if s.inShadow (128 * line) then (s, .kill 0x0C2)
  else
    match s.seize a false line cls with
    | (s, false) => (s, .busy)
    | (s, true) =>
      if s.homePoison line then (s.letGo a line, .kill 0x0C1)
      else
        let s := s.readHome line cls
        (s.letGo a line, .line (s.homeLine line))

/-- A line read by an engine of a cluster, which goes to a replica of its own sector first and may be granted one (R215). -/
def State.engineLine (s : State) (a : Agent) (cluster line : Nat) (cls : Cls) (arena : Bool) : State × Got :=
  let die := dieOf cluster
  let sec := sectorOf cluster
  match s.home line with
  | none => s.agentLine a line cls
  | some h =>
    if replicable cls arena false h die sec then
      match s.replica? die sec line with
      | some l =>
        let p := s.placeIn die sec line
        if l.poison then (s, .kill 0x0C1) else (s.modSlice p.slice fun sl => sl.touch p.set line id, .line l.data)
      | none =>
        match s.agentLine a line cls with
        | (s, .line d) =>
          (if (s.slice h.slice).held.any fun x => x.line == line then s else s.grant h die sec line cls, .line d)
        | x => x
    else s.agentLine a line cls

/-! ### Writes -/

/-- An agent's write of a line: performed if the home is free for it; otherwise it waits, and holders are invalidated first (R216). -/
def State.tryWrite (s : State) (a : Agent) (line : Nat) (data : BitVec 1024) (mask : BitVec 256) (cls : Cls) : State × Bool :=
  match s.seize a true line cls with
  | (s, false) => (s, false)
  | (s, true) =>
    match s.home line with
    | none => (s, true)
    | some h => ((s.writeHome h line data mask cls none).letGo a line, true)

/-- An agent's write of every line of a list may perform now; its turns are taken in the order of the lines. -/
def State.seizeAll (s : State) (a : Agent) (cls : Cls) : List Nat → State × Bool
  | [] => (s, true)
  | l :: r =>
    match s.seize a true l cls with
    | (s, true) => s.seizeAll a cls r
    | (s, false) => (s, false)

/-- The home is free for a write to every line of a range; where it is not, what the wait needs is done. -/
def State.readyToWrite (s : State) (a : Agent) (pa n : Nat) (cls : Cls) : State × Bool := s.seizeAll a cls ((spanLines pa n).map (·.1))

/-- The write of one line of a range. -/
def State.putSpan (s : State) (pa x : Nat) (cls : Cls) (y : Nat × Nat × Nat) : State :=
  match s.home y.1 with
  | none => s
  | some h =>
    let v := x / 256 ^ (128 * y.1 + y.2.1 - pa)
    s.writeHome h y.1 (atByte y.2.1 (v % 256 ^ y.2.2)) (nibbles y.2.1 y.2.2) cls none

/-- A number of `n` bytes is written from a physical address, as one event, if the home is free. -/
def State.tryWriteN (s : State) (a : Agent) (pa n x : Nat) (cls : Cls) : State × Bool :=
  match s.readyToWrite a pa n cls with
  | (s, false) => (s, false)
  | (s, true) =>
    let s := (spanLines pa n).foldl (fun s y => s.putSpan pa x cls y) s
    ((spanLines pa n).foldl (fun s y => s.letGo a y.1) s, true)

/-- What a read-modify-write of an agent gives. -/
inductive Rmw where
  | old (v : Nat)
  | kill (code : Nat)
  | busy
  deriving DecidableEq, Repr

/-- A read-modify-write of `size` bytes at a physical address, as one event at its home; `f` gives the new value, if any. -/
def State.paRmw (s : State) (a : Agent) (pa size : Nat) (cls : Cls) (f : Nat → Option Nat) : State × Rmw :=
  let line := pa / 128
  if s.inShadow pa then (s, .kill 0x0C2)
  else
    match s.seize a (f (s.homeGet pa size)).isSome line cls with
    | (s, false) => (s, .busy)
    | (s, true) =>
      if s.homePoison line then (s.letGo a line, .kill 0x0C1)
      else
        let old := s.homeGet pa size
        let s := match f old, s.home line with
          | some v, some h => s.writeHome h line (atByte (pa % 128) (v % 256 ^ size)) (nibbles (pa % 128) size) cls none
          | _, _ => s.readHome line cls
        (s.letGo a line, .old old)

end Sys2Proof.Machine
end

