-- ==== Sys2Proof/Machine/IssueEvents.lean ====
section
/-!
DEFINITION. The events of a core's quarters: the choice of the group that issues, active places, and the arrival of results,
load data, constants and instruction lines
(spec/08_core.md R140–R142, spec/02_register_hierarchy.md R40–R45, spec/03_instruction_words.md R47, R58).
An event that is not enabled leaves the state unchanged.
-/

namespace Sys2Proof.Machine

/-! ### Groups of a quarter -/

/-- The groups resident on a quarter that satisfy a test. -/
def State.quarterGroups (s : State) (core quarter : Nat) (p : Team → Group → Bool) : List GRef :=
  (s.teams.filter fun t => t.2.core? == some core).flatMap fun t =>
    (t.2.groups.zipIdx.filter fun g => g.1.quarter == quarter && p t.2 g.1).map fun g => { team := t.1, grp := g.2 }

/-- The node of a team runs: its groups do not stop at their next run end (R303). -/
def State.nodeRuns (s : State) (t : Team) : Bool :=
  match s.node? t.node with
  | some n => n.st == .running
  | none => false

/-- A group at a run end that must not go on: its team is being saved, or its node is being killed (R152, R287, R303). -/
def State.stopped (s : State) (t : Team) (g : Group) : Bool :=
  g.atEnd && (t.stops s.clk || !s.nodeRuns t)

/-- The cause-free part of the next instruction's fetch: its line and its decoding, with what translation changed. -/
def State.peek (s : State) (g : GRef) : State × Line :=
  match s.team? g.team, s.group? g with
  | some t, some gr =>
    match t.core? with
    | some c =>
      s.codeLine { core := some c, cluster := clusterOf c, part := t.part, lid := t.lid } (gr.split gr.cur).pc
    | none => (s, .miss)
  | _, _ => (s, .miss)

/-- The instruction at the PC in a line, if it decodes. -/
def instrAt (ws : List Word) (pc : BitVec 56) : Option Instr :=
  match decode (ws.drop (pc.toNat % 128 / 4)) with
  | .instr i _ => some i
  | .cause _ _ => none

/-- The slots of a WAIT mask are clear (R44). -/
def waitClear (g : Group) (wait : BitVec 6) : Bool := (List.range 6).all fun i => !wait.getLsbD i || g.sb.getD i 0 == 0

/-- No slot of the WAIT mask is set, and the slot of SBSET can count one more (R44). -/
def slotsClear (g : Group) (h : Head) : Bool :=
  waitClear g h.wait && (h.sbset == 15 || decide (g.sb.getD h.sbset.toNat 0 < 7))

/-- The WAIT mask of an instruction by its first word, whether or not it decodes: the base form has none (R44, R52, R62). -/
def waitOf (w0 : Word) : BitVec 6 := if w0.getLsbD 1 then w0.extractLsb' 22 6 else 0

/-- The cycle from which the instruction at a PC could issue but for its banks (R40): the one noted for it, else this one. -/
def Group.bankedSince (g : Group) (pc : BitVec 56) (clk : Nat) : Nat :=
  match g.banked with
  | some (p, c) => if p = pc then c else clk
  | none => clk

/-- An instruction in reach may issue: its slots are clear and its bank delay is over (R40, R44), which counts from the cycle in
which nothing else holds it; with what the group notes of that cycle. -/
def mayIssue (g : Group) (clk : Nat) (pc : BitVec 56) (w0 : Word) (i : Option Instr) : Group × Bool :=
  let shape := i.bind shapeOf
  let fields := i.bind fieldsOf
  let clear := match fields with | some f => slotsClear g f.h | none => waitClear g (waitOf w0)
  let since := g.bankedSince pc clk
  let delay := match shape, fields with | some sh, some f => bankDelay sh f | _, _ => 0
  if clear then ({ g with banked := some (pc, since) }, decide (since + delay ≤ clk)) else ({ g with banked := none }, false)

/-- A group before its next issue: results due are visible, and the tests of R20 have been made. -/
def State.settleGroup (s : State) (g : GRef) : State := s.modGroup g fun gr => (gr.landDue s.clk).settle 64

/-- A group waits for nothing but its instruction: no stall count, no hold, no fetch, and not found unable to issue in this
cycle (R58, R140, R142). -/
def State.unheld (s : State) (g : Group) : Bool :=
  decide (g.nextIssue ≤ s.clk) && s.released g && g.want.isNone && decide (g.tried ≤ s.clk)

/-- An active group is looked at: settled, its line sought, and whether it is eligible (R140). -/
def State.consider (s : State) (g : GRef) : State × Bool :=
  match s.team? g.team, s.group? g with
  | some t, some gr =>
    if s.stopped t gr || !s.unheld gr then (s, false)
    else
      let s := match t.core? with | some c => s.boundaryDone c g | none => s
      let s := s.settleGroup g
      match s.group? g with
      | none => (s, false)
      | some gr =>
        if (gr.split gr.cur).st ≠ .runnable || s.stopped t gr then (s, false)
        else
          match s.peek g with
          | (s, .miss) => (s.want g (.fetch (gr.split gr.cur).pc), false)
          | (s, .err _) => (s, true)
          | (s, .words ws) =>
            let pc := (gr.split gr.cur).pc
            let (gr, ok) := mayIssue gr s.clk pc (ws.getD (pc.toNat % 128 / 4) 0) (instrAt ws pc)
            (s.modGroup g fun _ => gr, ok)
  | _, _ => (s, false)

/-- The eligible groups among a list. -/
def State.eligible (s : State) : List GRef → State × List GRef
  | [] => (s, [])
  | g :: r =>
    let (s, ok) := s.consider g
    let (s, es) := s.eligible r
    (s, if ok then g :: es else es)

/-- The cycles for which a group has waited before this one (R142): a choice made again in a cycle does not see what the first counted. -/
def Group.waitedTo (g : Group) (clk : Nat) : Nat := if clk < g.waitMark then g.waited - 1 else g.waited

/-- The key of a group in the choice of R142: the cycles waited, then the lower place. -/
def State.waitKey (s : State) (g : GRef) : Nat :=
  match s.group? g with
  | some gr => gr.waitedTo s.clk * 4 + (3 - gr.place.getD 3)
  | none => 0

/-- The group is its team's laggard (R141). -/
def State.laggard (s : State) (g : GRef) : Bool :=
  match s.team? g.team with
  | some t => laggardOf t == some g.grp
  | none => false

/-- The group with the largest key. -/
def State.longest (s : State) (gs : List GRef) : Option GRef :=
  gs.foldl (fun acc g =>
    match acc with
    | none => some g
    | some b => if s.waitKey b < s.waitKey g then some g else some b) none

/-- The choice among eligible groups (R142). -/
def State.pick (s : State) (gs : List GRef) : Option GRef :=
  if gs.any fun g => decide (63 * 4 ≤ s.waitKey g) then s.longest gs
  else
    match gs.filter s.laggard with
    | [] => s.longest gs
    | ls => s.longest ls

/-- An eligible group that is not picked has waited a cycle more, counted once in a cycle (R142). -/
def Group.passedOver (g : Group) (clk : Nat) : Group :=
  if g.waitMark ≤ clk then { g with waited := g.waited + 1, waitMark := clk + 1 } else g

/-- QUARTER_ISSUE (R142): the picked group issues next; the others have waited a cycle more. -/
def execQuarterIssue (core quarter : Nat) (s : State) : Host.Outcome State Fault Refusal :=
  if s.cur.isSome || decide (s.clk < (s.core core).issued.getD quarter 0) then .next s
  else
    let (s, es) := s.eligible (s.quarterGroups core quarter fun _ g => g.place.isSome)
    match s.pick es with
    | none => .next s
    | some g =>
      let s := (es.filter (· != g)).foldl (fun s g => s.modGroup g (·.passedOver s.clk)) s
      .next { s with cur := some g }

/-! ### Active places -/

/-- The place free in a quarter with the lowest number (R140). -/
def State.freePlace (s : State) (core quarter : Nat) : Option Nat :=
  let used := (s.quarterGroups core quarter fun _ g => g.place.isSome).filterMap fun g => (s.group? g).bind Group.place
  [0, 1, 2, 3].find? fun i => !used.contains i

/-- Groups that wait for an active place: ready, resident and inactive (R140). -/
def State.awaitPlace (s : State) (core quarter : Nat) : List GRef :=
  s.quarterGroups core quarter fun t g => g.place.isNone && g.ready && !s.stopped t g

/-- The first of a list with the smallest time at which it became ready.
DESIGN CHOICE, log 72: of several with one time, and of several laggards ready since one time, the first by team and group. -/
def State.earliest (s : State) (gs : List GRef) : Option GRef :=
  gs.foldl (fun acc g =>
    match acc with
    | none => some g
    | some b =>
      match s.group? b, s.group? g with
      | some x, some y => if y.readySince < x.readySince then some g else some b
      | _, _ => some b) none

/-- A group takes an active place (R140): while it is active, `readySince` is the cycle in which it did. -/
def State.takePlace (s : State) (g : GRef) (p : Nat) : State :=
  s.modGroup g fun gr => { gr with place := some p, readySince := s.clk }

/-- ACTIVE_PLACE_GRANT (R140): a laggard first, otherwise the group that has been ready longest; a cycle lays one out for every place. -/
def execActivePlaceGrant (core quarter : Nat) (s : State) : Host.Outcome State Fault Refusal :=
  match s.freePlace core quarter with
  | none => .next s
  | some p =>
    let ws := s.awaitPlace core quarter
    let first := match ws.filter s.laggard with
      | [] => s.earliest ws
      | ls => s.earliest ls
    match first with
    | none => .next s
    | some g => .next (s.takePlace g p)

/-- A group leaves its active place, and its last-page registers are cleared (R140, R281). -/
def State.leavePlace (s : State) (g : GRef) : State :=
  s.modGroup g fun gr => { gr with place := none, readySince := s.clk, lastPage := [] }

/-- A group has been ready and inactive for 512 cycles (R140). -/
def State.overdue (s : State) (g : GRef) : Bool :=
  match s.group? g with
  | some gr => decide (gr.readySince + 512 ≤ s.clk)
  | none => false

/-- A group yields its place to another (R140). -/
def State.yieldTo (s : State) (g old : GRef) : State :=
  match (s.group? g).bind Group.place with
  | some p => (s.leavePlace g).takePlace old p
  | none => s

/-- ACTIVE_PLACE_YIELD (R140): at a run end a group that is no longer ready, has retired or is stopped leaves its place; so
does one that has issued since it took it, when another group of the quarter has been ready and inactive for 512 cycles and no place is
free: to the group that has waited longest.
DESIGN CHOICE, log 72: of several groups at a run end the first by team and group yields. -/
def execActivePlaceYield (core quarter : Nat) (s : State) : Host.Outcome State Fault Refusal :=
  let atEnd := s.quarterGroups core quarter fun _ g => g.place.isSome && g.atEnd
  let gone := atEnd.filter fun g =>
    match s.team? g.team, s.group? g with
    | some t, some gr => !gr.ready || gr.live == 0 || s.stopped t gr
    | _, _ => true
  match gone with
  | _ :: _ => .next (gone.foldl State.leavePlace s)
  | [] =>
    match s.quarterGroups core quarter (fun _ g => g.place.isSome && g.atEnd && decide (g.readySince ≤ g.lastIssue)), s.earliest (s.awaitPlace core quarter) with
    | g :: _, some old => if s.overdue old && (s.freePlace core quarter).isNone then .next (s.yieldTo g old) else .next s
    | _, _ => .next s

/-! ### Results -/

/-- PORT_RESULT_LANDS (R42). -/
def execPortResultLands (g : GRef) (s : State) : Host.Outcome State Fault Refusal :=
  .next (s.modGroup g fun gr => gr.landDue s.clk)

/-- The line that an LDC brought enters the constant cache (R131). -/
def State.install (s : State) (o : Outst) (p : Piece) : State :=
  match o.kind, p.data with
  | .ldc, some d => s.modCore o.core fun c => { c with ccache := (if c.ccache.length < 512 then c.ccache else c.ccache.drop 1).set p.line d }
  | _, _ => s

/-- LOAD_DATA_RETURN (R44): what a piece of an outstanding operation brings is written, once its slice, scratch or target
package has answered. -/
def execLoadDataReturn (load piece : Nat) (s : State) : Host.Outcome State Fault Refusal :=
  match s.outst.get? load with
  | none => .next s
  | some o =>
    match o.pieces[piece]? with
    | none => .next s
    | some p =>
      match p.vals with
      | some vs => if p.landed || p.away || decide (s.clk < o.at_) then .next s else .next ((s.install o p).landVals load piece vs)
      | none => .next s

/-! ### Fetches -/

/-- The words of a line. -/
def lineWords (d : BitVec 1024) : List Word := (List.range 32).map fun i => d.extractLsb' (32 * i) 32

/-- The fetch for which a group waits ends; the instruction issues again and meets what translation finds. -/
def State.unwant (s : State) (g : GRef) : State := s.modGroup g fun gr => { gr with want := none }

/-- A fetch of a group at an address: the line, put where `put` says. -/
def State.fillFor (s : State) (g : GRef) (va : BitVec 56) (put : Core → Nat → BitVec 1024 → Core) : State :=
  match s.team? g.team with
  | none => s
  | some t =>
    match t.core? with
    | none => s
    | some c =>
      match s.translate { core := some c, cluster := clusterOf c, part := t.part, lid := t.lid } va false with
      | (s, .ok pa e) =>
        if isPeer va then s.unwant g
        else
          match s.agentLine (.fetch g) (pa / 128) e.cls with
          | (s, .line d) => (s.modCore c fun k => put k (pa / 128) d).unwant g
          | (s, .kill code) => (s.unwant g).killNode t.node code
          | (s, .busy) => s
      | (s, .busy) => s
      | (s, _) => s.unwant g

/-- CONSTANT_CACHE_FILL (R58). -/
def execConstantCacheFill (g : GRef) (s : State) : Host.Outcome State Fault Refusal :=
  match (s.group? g).bind Group.want with
  | some (.const va) =>
    .next (s.fillFor g va fun c l d => { c with ccache := (if c.ccache.length < 512 then c.ccache else c.ccache.drop 1).set l d })
  | _ => .next s

/-- INSTRUCTION_FETCH_FILL (R47). -/
def execInstructionFetchFill (g : GRef) (s : State) : Host.Outcome State Fault Refusal :=
  match (s.group? g).bind Group.want with
  | some (.fetch va) =>
    let s := s.fillFor g va fun c l d =>
      { c with icache := ((l, lineWords d) :: c.icache.filter fun e => e.1 != l).take 1024 }
    .next (match (s.team? g.team).bind Team.core? with | some c => s.trimVictims c | none => s)
  | _ => .next s

end Sys2Proof.Machine
end

