-- ==== Sys2Proof/Machine/Agent.lean ====
section
/-!
DEFINITION. Accesses of hardware agents to virtual memory: the copy engine, the queue engine, the weavers and the collective
engine (spec/09_core_instructions.md R163, R168; spec/18_package_memory_translation.md R276, R280, R282;
spec/19_queues_nodes_arenas.md R367; spec/22_fabric.md R334). They act at the homes, or through the fabric.
-/

namespace Sys2Proof.Machine

/-- Where an agent's access goes: an address, a discarded page, or an end. -/
inductive Reach where
  | spot (p : Spot)
  | zero
  /-- The access pauses with the cause (R168, R264, R367). -/
  | pause (code : Nat)
  /-- The access ends with the cause. -/
  | kill (code : Nat)
  | busy
  deriving DecidableEq, Repr

/-- Translate an agent's access (R168, R274, R276, R330). -/
def State.reach (s : State) (f : From) (va : BitVec 56) (write : Bool) : State × Reach :=
  match s.translate f va write with
  | (s, .ok pa e) =>
    if isPeer va then
      (s, if s.inPod then .spot { pa, cls := e.cls, arena := false, peer := some e.peer.toNat } else .kill 0x140)
    else (s, if s.inShadow pa then .kill 0x0C2 else .spot { pa, cls := e.cls, arena := e.arena.isSome, peer := none })
  | (s, .discarded _) => (s, .zero)
  | (s, .scratch _) => (s, .kill 0x103)
  | (s, .err c) => (s, if c = 0x100 ∨ c = 0x101 ∨ c = 0x102 then .pause c else .kill c)
  | (s, .busy) => (s, .busy)

/-- Translate an access that may not go to another package: of a copy command, a COPY packet or a collective (R334). -/
def State.reachOwn (s : State) (f : From) (va : BitVec 56) (write : Bool) : State × Reach :=
  if isPeer va then (s, .kill 0x141) else s.reach f va write

/-! ### Accesses to other packages -/

/-- The node for which an agent acts, if any. -/
def State.agentNode (s : State) (a : Agent) : Option Nat :=
  match a with
  | .fetch g | .post g => (s.team? g.team).map Team.node
  | .team t => (s.team? t).map Team.node
  | .copy core cmd => (((s.core core).cq.find? fun e => e.id == cmd).bind fun e => s.team? e.team).map Team.node
  | .weaver n _ | .node n => some n
  | .packet id => (s.nodes.find? fun n => n.2.pkt == id).map (·.1)
  | .coll part i => some ((s.part part).slots.getD i {}).node
  | _ => none

/-- The partition for which an agent acts, if any. -/
def State.agentPartition (s : State) (a : Agent) : Option Nat :=
  match a with
  | .head q => some (q / 64)
  | .packet id => (s.pkts.get? id).map Pkt.part
  | .coll p _ | .faults p | .shootdown p => some p
  | .op id => (s.outst.get? id).map Outst.part
  | .stream _ _ => none
  | _ => ((s.agentNode a).bind s.node?).map Node.part

/-- An access of an agent to a line of another package: it is sent, and answered later with a cause or 0 and the data (R276, R335). -/
def State.farAsk (s : State) (a : Agent) (peer line : Nat) (cls : Cls) (o : RemOp) : State × Option (Nat × BitVec 1024) :=
  match s.far.find? fun x => x.who == a && x.peer == peer && x.line == line with
  | some x =>
    match x.done with
    | some (_, r) => ({ s with far := s.far.filter fun y => y.op != x.op }, some r)
    | none => (s, none)
  | none =>
    let (id, s) := s.fresh
    let part := s.agentPartition a
    let epoch := match part with | some p => (s.part p).epoch | none => 0
    (({ s with far := s.far ++ [{ who := a, peer, line, op := id, part, epoch }] } : State).remSend peer line cls o id 0, none)

/-- The line of an access. -/
def State.spotLine (s : State) (a : Agent) (p : Spot) : State × Got :=
  match p.peer with
  | none => s.agentLine a (p.pa / 128) p.cls
  | some n =>
    match s.farAsk a n (p.pa / 128) p.cls .load with
    | (s, none) => (s, .busy)
    | (s, some (0, d)) => (s, .line d)
    | (s, some (c, _)) => (s, .kill c)

/-- Bytes within one line are written, as one event. -/
def State.spotWrite (s : State) (a : Agent) (p : Spot) (bs : List Byte) : State × Rmw :=
  match p.peer with
  | none =>
    match s.tryWriteN a p.pa bs.length (leNat bs) p.cls with
    | (s, true) => (s, .old 0)
    | (s, false) => (s, .busy)
  | some n =>
    match s.farAsk a n (p.pa / 128) p.cls (.store (atByte (p.pa % 128) (leNat bs)) (nibbles (p.pa % 128) bs.length)) with
    | (s, none) => (s, .busy)
    | (s, some (0, _)) => (s, .old 0)
    | (s, some (c, _)) => (s, .kill c)

/-- A handler of the atomic unit on `size` bytes, as one event (R231, R240). -/
def State.spotRmw (s : State) (a : Agent) (p : Spot) (hnd size b : Nat) : State × Rmw :=
  match p.peer with
  | none => s.paRmw a p.pa size p.cls fun old => handler hnd old b
  | some n =>
    match s.farAsk a n (p.pa / 128) p.cls (.atom hnd size [{ lane := 0, off := p.pa % 128, b := BitVec.ofNat 128 b }]) with
    | (s, none) => (s, .busy)
    | (s, some (0, d)) => (s, .old d.toNat)
    | (s, some (c, _)) => (s, .kill c)

/-! ### Accesses to virtual memory -/

/-- What an agent's access of some bytes gives. -/
inductive Fetched where
  | bytes (bs : List Byte)
  | pause (code : Nat) (va : BitVec 56)
  | kill (code : Nat)
  | busy
  deriving DecidableEq, Repr

/-- `n` bytes within one line, read at the home. -/
def State.agentPart (s : State) (a : Agent) (f : From) (va : BitVec 56) (n : Nat) : State × Fetched :=
  match s.reach f va false with
  | (s, .zero) => (s, .bytes (List.replicate n 0))
  | (s, .pause c) => (s, .pause c va)
  | (s, .kill c) => (s, .kill c)
  | (s, .busy) => (s, .busy)
  | (s, .spot p) =>
    match s.spotLine a p with
    | (s, .line d) => (s, .bytes ((List.range n).map fun i => lineByte d (p.pa % 128 + i)))
    | (s, .kill c) => (s, .kill c)
    | (s, .busy) => (s, .busy)

/-- The parts of a byte range, each within one line: address and length. -/
def partsOf (va n : Nat) : List (Nat × Nat) := (spanLines va n).map fun x => (128 * x.1 + x.2.1, x.2.2)

/-- Read parts in order; the first that gives no bytes ends the read. -/
def State.agentParts (s : State) (a : Agent) (f : From) : List (Nat × Nat) → List Byte → State × Fetched
  | [], acc => (s, .bytes acc)
  | p :: r, acc =>
    match s.agentPart a f (BitVec.ofNat 56 p.1) p.2 with
    | (s, .bytes bs) => s.agentParts a f r (acc ++ bs)
    | (s, e) => (s, e)

/-- `n` bytes from a virtual address, read at their homes. -/
def State.agentRead (s : State) (a : Agent) (f : From) (va n : Nat) : State × Fetched := s.agentParts a f (partsOf va n) []

/-- What a write of an agent gives. -/
inductive Wrote where
  | done
  | pause (code : Nat) (va : BitVec 56)
  | kill (code : Nat)
  | busy
  deriving DecidableEq, Repr

/-- The outcome of a write at its home. -/
def wroteOf (x : State × Rmw) : State × Wrote :=
  match x with
  | (s, .old _) => (s, .done)
  | (s, .kill c) => (s, .kill c)
  | (s, .busy) => (s, .busy)

/-- An access that writes is translated and made. -/
def State.agentPut (s : State) (f : From) (va : BitVec 56) (put : State → Spot → State × Rmw) : State × Wrote :=
  match s.reach f va true with
  | (s, .zero) => (s, .done)
  | (s, .pause c) => (s, .pause c va)
  | (s, .kill c) => (s, .kill c)
  | (s, .busy) => (s, .busy)
  | (s, .spot p) => wroteOf (put s p)

/-- Write bytes within one line at the home, as one event. -/
def State.agentWrite (s : State) (a : Agent) (f : From) (va : BitVec 56) (bs : List Byte) : State × Wrote :=
  s.agentPut f va fun s p => s.spotWrite a p bs

/-- A handler of the atomic unit on a 64-bit word at its home, as one event (R231, R298, R299). -/
def State.agentRmw (s : State) (a : Agent) (f : From) (va : BitVec 56) (hnd : Nat) (b : DWord) : State × Wrote :=
  s.agentPut f va fun s p => s.spotRmw a p hnd 8 b.toNat

/-- A fault entry of an agent that suspends no team (R305). -/
def agentFault (code kind : Nat) (lid : Word) (va : BitVec 56) (loc : Byte) (node : Nat) (agent : FAgent) : FaultEnt :=
  { cause := code, kind, lid, va := va.setWidth 64, team := 0xFFFFFFFF, loc, record := 0, reason := 0, frame := 0, node, agent }

/-- An entry that names the agent has been posted, or waits to be, and has not been resolved (R307). -/
def State.faultOpen (s : State) (p : Nat) (agent : FAgent) : Bool :=
  (s.part p).posts.any (fun e => e.agent == agent) || (s.part p).watch.any fun e => e.2.agent == agent

end Sys2Proof.Machine
end

