-- ==== Sys2Proof/Machine/Copy.lean ====
section
/-!
DEFINITION. Entering copy commands, opcodes 0xC6 to 0xCA (spec/09_core_instructions.md R163–R169).
-/

namespace Sys2Proof.Machine

/-- Field of a command block: `n` bytes at an offset (R165). -/
def blockField (b : List Byte) (off n : Nat) : Nat :=
  ((List.range n).map fun i => (b.getD (off + i) 0).toNat * 256 ^ i).sum

/-- A command block as a command (R165). -/
def cmdOf (b : List Byte) : CopyCmd :=
  let ctl := blockField b 0 4
  { kind := ctl % 16, sk := ctl.testBit 4, dk := ctl.testBit 5, clip := ctl.testBit 7, pad := BitVec.ofNat 8 (ctl / 256)
    n := blockField b 0x04 4, src := blockField b 0x08 8, dst := blockField b 0x10 8, sstr := blockField b 0x18 4
    dstr := blockField b 0x1C 4, rowb := blockField b 0x20 4, boxh := blockField b 0x24 4, bstr := blockField b 0x28 4
    idx := blockField b 0x2C 4, srows := blockField b 0x30 4, srowb := blockField b 0x34 4, len := blockField b 0x38 4 }

/-- Reserved and unused fields of a block are zero, for the kind (R165, R166). -/
def blockZeros (b : List Byte) (kind : Nat) : Bool :=
  let c := cmdOf b
  let ctl := blockField b 0 4
  ctl / 2 ^ 16 == 0 && !ctl.testBit 6 && blockField b 0x3C 4 == 0 && c.len == 0
  && (c.sk == false || c.src < 2 ^ 32) && (c.dk == false || c.dst < 2 ^ 32)
  && (kind == 3 || c.pad == 0) && (kind != 2 || !c.clip)
  && (kind != 2 || (c.boxh == 0 && c.bstr == 0 && c.idx == 0 && c.srows == 0 && c.srowb == 0))

/-- Every scratch byte that a command can address lies within the team's scratch (R166). -/
def extentsOk (c : CopyCmd) (scr : Nat) : Bool :=
  match c.kind with
  | 1 => c.len == 0 || ((!c.sk || decide (c.src + c.len ≤ scr)) && (!c.dk || decide (c.dst + c.len ≤ scr)))
  | 2 =>
    c.n == 0 || ((!c.sk || decide (c.src + (c.n - 1) * c.sstr + c.rowb ≤ scr))
      && (!c.dk || decide (c.dst + (c.n - 1) * c.dstr + c.rowb ≤ scr)))
  | 3 =>
    decide (c.idx + 16 * c.n ≤ scr)
    && (c.n == 0 || decide (c.dst + (c.n - 1) * c.bstr + (c.boxh - 1) * c.dstr + c.rowb ≤ scr))
    && (!c.sk || c.srows == 0 || c.srowb == 0 || decide (c.src + (c.srows - 1) * c.sstr + c.srowb ≤ scr))
  | _ =>
    decide (c.idx + 16 * c.n ≤ scr)
    && (c.n == 0 || decide (c.src + (c.n - 1) * c.bstr + (c.boxh - 1) * c.sstr + c.rowb ≤ scr))

/-- The checks of R166 on a command block. -/
def blockOk (b : List Byte) (kind scr : Nat) : Bool :=
  let c := cmdOf b
  c.kind == kind && blockZeros b kind
  && (kind != 3 || c.dk) && (kind != 4 || (c.sk && !c.dk))
  && decide (1 ≤ c.rowb) && decide (c.rowb ≤ 2 ^ 20)
  && (kind == 2 || (decide (1 ≤ c.boxh) && decide (c.boxh ≤ 4096) && c.idx % 16 == 0))
  && extentsOk c scr

/-- The command of CP from its operands (R164). -/
def cpCmd (x : Ctx) (w : ExtA) : CopyCmd :=
  let sk := w.mod % 2 == 1
  let dk := w.mod / 2 % 2 == 1
  { kind := 1, pad := 0, clip := false, dk, sk, n := 0
    src := if sk then (x.uni w.a).toNat else (x.src64 w.a 0).toNat
    dst := if dk then (x.uni w.b).toNat else (x.src64 w.b 0).toNat
    sstr := 0, dstr := 0, rowb := 0, boxh := 0, bstr := 0, idx := 0, srows := 0, srowb := 0, len := (x.uni w.c).toNat }

/-- Enter a command in the core's copy queue, with true in the predicate (R163). -/
def Ctx.enterCopy (x : Ctx) (w : ExtA) (c : CopyCmd) (s : State) : State :=
  let (id, s) := s.fresh
  let s := s.modCore x.core fun k => { k with cq := k.cq ++ [{ id, team := x.ref.team, cmd := c }] }
  x.nowP (w.f 14 12) x.ex s

/-- What a copy instruction does: the role, the queue's room, the check of the command, the entry (R139, R163–R166).
DEDUCED, log 73: the role is checked at issue even where no lane executes, since R139 puts the check behind those of R62 and R164 before
all others. -/
def Ctx.copy (x : Ctx) (w : ExtA) (cmd : State → Option CopyCmd) (s : State) : Res :=
  if x.g.role ≠ .copy then .cause 0x043 0
  else if x.ex = 0 then .done s
  else if 32 ≤ (s.core x.core).cq.length then .done (x.nowP (w.f 14 12) 0 s)
  else
    match cmd s with
    | none => .cause 0x047 0
    | some c => .done (x.enterCopy w c s)

/-- The checked command of a block in the team's scratch (R164, R166). -/
def Ctx.block (x : Ctx) (w : ExtA) (kind : Nat) (s : State) : Option CopyCmd :=
  let off := (x.uni w.a).toNat
  if off % 64 ≠ 0 ∨ x.team.scr < off + 64 then none
  else
    let b := (s.core x.core).scratch.bytes (x.scrAddr off) 64
    if blockOk b kind x.team.scr then some (cmdOf b) else none

/-- CP (R164). -/
def execCp (w : ExtA) (s : State) :=
  runGroup (.cp w) { ends := true, lat := some 1, pdst := [w.f 14 12] } (fun x s =>
    x.copy w (fun _ => if extentsOk (cpCmd x w) x.team.scr then some (cpCmd x w) else none) s) s

/-- CP2D (R164). -/
def execCp2d (w : ExtA) (s : State) :=
  runGroup (.cp2d w) { ends := true, lat := some 1, pdst := [w.f 14 12] } (fun x s => x.copy w (x.block w 2) s) s

/-- CPG (R164). -/
def execCpg (w : ExtA) (s : State) :=
  runGroup (.cpg w) { ends := true, lat := some 1, pdst := [w.f 14 12] } (fun x s => x.copy w (x.block w 3) s) s

/-- CPS (R164). -/
def execCps (w : ExtA) (s : State) :=
  runGroup (.cps w) { ends := true, lat := some 1, pdst := [w.f 14 12] } (fun x s => x.copy w (x.block w 4) s) s

/-- CPQ (R169). -/
def execCpq (w : ExtA) (s : State) :=
  runGroup (.cpq w) { ends := true, lat := some 1 } (fun x s =>
    let cq := (s.core x.core).cq
    let own := (cq.filter fun e => e.team == x.ref.team).length
    .done (x.now (fun _ => BitVec.ofNat 32 ((32 - cq.length) * 256 + own)) s)) s

end Sys2Proof.Machine
end

