-- ==== Sys2Proof/Machine/Collective.lean ====
section
/-!
DEFINITION. Collectives at a member: descriptors, post slots, COLL, COLLW and COLLC, opcodes 0xF1 to 0xF3
(spec/22_fabric.md R340, R348, R350–R354).
-/

namespace Sys2Proof.Machine

/-! ### Communicators and descriptors -/

/-- Fields of word 0 of a communicator (R340). -/
def State.commValid (s : State) (c part : Nat) : Bool :=
  let w := (s.comms.getD c (0, 0)).1
  decide (c < 256) && w.getLsbD 63 && w.toNat / 2 ^ 60 % 8 == part
def State.commSize (s : State) (c : Nat) : Nat := (s.comms.getD c (0, 0)).1.toNat % 2 ^ 10
def State.commRank (s : State) (c : Nat) : Nat := (s.comms.getD c (0, 0)).1.toNat / 2 ^ 16 % 2 ^ 9

/-- A collective descriptor as read (R348). -/
structure CollDesc where
  ctl : Nat
  comm : Nat
  cnt : Nat
  sbuf : Nat
  dbuf : Nat
  tail : Nat

/-- The fields of a descriptor's bytes. -/
def collDesc (b : List Byte) : CollDesc :=
  { ctl := blockField b 0 4, comm := blockField b 4 4, cnt := blockField b 8 8, sbuf := blockField b 16 8
    dbuf := blockField b 24 8, tail := blockField b 32 32 }

def CollDesc.key (d : CollDesc) : CollKey :=
  { op := BitVec.ofNat 4 d.ctl, dt := BitVec.ofNat 4 (d.ctl / 16), cnt := BitVec.ofNat 64 d.cnt
    root := BitVec.ofNat 9 (d.ctl / 2 ^ 16) }

/-- Bytes of an element of DT (R348). -/
def dtBytes (dt : BitVec 4) : Nat := if dt = 1 then 2 else 4

/-- Elements of the source and of the destination for NMEM members (R349). -/
def bufElems (k : CollKey) (n : Nat) : Nat × Nat :=
  match k.op.toNat with
  | 2 => (n * k.cnt.toNat, k.cnt.toNat)
  | 3 => (k.cnt.toNat, n * k.cnt.toNat)
  | _ => (k.cnt.toNat, k.cnt.toNat)

/-- A buffer lies in the user window, aligned to its elements (R348). -/
def bufOk (va n e : Nat) : Bool := decide (va + n ≤ 2 ^ 55) && va % e == 0

/-- A descriptor breaks no rule of R348 other than ROOT < NMEM. -/
def collOk (d : CollDesc) (nmem : Nat) : Bool :=
  let k := d.key
  let e := dtBytes k.dt
  let sz := bufElems k nmem
  d.ctl / 2 ^ 25 == 0 && d.ctl / 2 ^ 8 % 2 ^ 8 == 0 && d.comm / 2 ^ 8 == 0 && d.tail == 0
  && decide (1 ≤ k.op.toNat) && decide (k.op.toNat ≤ 4) && decide (k.dt.toNat ≤ 2) && (k.op == 4 || k.root == 0)
  && decide (1 ≤ d.cnt) && decide (d.cnt ≤ 2 ^ 32)
  && decide (sz.1 * e ≤ 2 ^ 40) && decide (sz.2 * e ≤ 2 ^ 40)
  && bufOk d.sbuf (sz.1 * e) e && bufOk d.dbuf (sz.2 * e) e
  && (decide (d.sbuf + sz.1 * e ≤ d.dbuf) || decide (d.dbuf + sz.2 * e ≤ d.sbuf)
    || ((k.op == 1 || k.op == 4) && d.sbuf == d.dbuf))

/-! ### Post slots -/

end Sys2Proof.Machine

namespace Sys2Proof

def SlotState.terminal (st : SlotState) : Bool :=
  match st with
  | .done | .cancelled | .failed => true
  | _ => false

/-- ST of the status word (R353). -/
def SlotState.code (st : SlotState) : Nat :=
  match st with
  | .free => 0
  | .posted => 1
  | .numbered => 2
  | .started => 3
  | .done => 4
  | .cancelled => 5
  | .failed => 6

end Sys2Proof

namespace Sys2Proof.Machine

/-- The low and high words of a slot's status (R353). -/
def PostSlot.status (p : PostSlot) : Word × Word := (BitVec.ofNat 32 p.st.code, p.tap.getD 0)

def State.slot (s : State) (part i : Nat) : PostSlot := (s.part part).slots.getD i {}

def State.modSlot (s : State) (part i : Nat) (f : PostSlot → PostSlot) : State :=
  s.modPart part fun p => { p with slots := p.slots.update i {} f }

/-- Splits of a partition's teams that sleep in a COLLW on a slot, with KEEP and their lanes. -/
def State.collSleepers (s : State) (part i : Nat) : List (GRef × Nat × Bool × Mask) :=
  (s.teams.filter fun t => t.2.part == part).flatMap fun t =>
    t.2.groups.zipIdx.flatMap fun g =>
      g.1.splits.filterMap fun sp =>
        match sp.2.wait with
        | some w => match w.on with
          | .collw k keep =>
            if k = i ∧ sp.2.out.isNone = true then some ({ team := t.1, grp := g.2 }, sp.1, keep, w.lanes) else none
          | _ => none
        | none => none

/-- A sleeping COLLW writes the status of its slot; one that reports DONE is a boundary of scope POD in the order of its lanes
(R338, R353). -/
def State.wakeCollw (s : State) (sl : PostSlot) (w : GRef × Nat × Bool × Mask) : State :=
  let (lo, hi) := sl.status
  let s := match sl.st, (s.team? w.1.team).bind Team.core? with
    | .done, some c => s.phasePod c w.1 w.2.2.2
    | _, _ => s
  s.wake w.1 w.2.1 { flag := true, lo := LVec.splat lo, hi := LVec.splat hi }

/-- A slot has changed: when it is terminal, the COLLWs that sleep on it write its status, which frees it without KEEP, and a
slot whose node has gone is freed (R350, R353). -/
def State.slotChanged (s : State) (part i : Nat) : State :=
  let sl := s.slot part i
  if !sl.st.terminal then s
  else
    let ws := s.collSleepers part i
    let s := ws.foldl (fun s w => s.wakeCollw sl w) s
    if sl.orphan || ws.any (fun w => !w.2.2.1) then s.modSlot part i fun _ => {} else s

/-! ### Messages -/

/-- Fields of PODCFG (R330). -/
def State.prim (s : State) : Nat := s.podcfg.toNat / 2 ^ 19 % 2 ^ 9
def State.epochNow (s : State) : Byte := s.podcfg.extractLsb' 56 8

/-- More source data of a member of a collective has come (R347). -/
def addData (m : List ((Nat × Word × Nat) × List Byte)) (k : Nat × Word × Nat) (bs : List Byte) : List ((Nat × Word × Nat) × List Byte) :=
  match m with
  | [] => [(k, bs)]
  | (j, x) :: r => if j = k then (k, x ++ bs) :: r else (j, x) :: addData r k bs

/-- Data of a collective that is over are no longer kept (R350). -/
def State.dropData (s : State) (comm : Nat) (tap : Word) : State :=
  { s with collIn := s.collIn.filter fun x => !(x.1.1 == comm && x.1.2.1 == tap) }

/-- Nothing is kept of earlier collectives of a communicator: those with a lower tap number than one that starts are complete (R343). -/
def State.dropOlder (s : State) (comm : Nat) (p : Word → Bool) : State :=
  { s with collIn := s.collIn.filter (fun x => !(x.1.1 == comm && p x.1.2.1))
           collFailed := s.collFailed.filter fun x => !(x.1 == comm && p x.2) }

/-- A message of a package has arrived, and takes effect when the next cycle begins. -/
def State.deliverMsg (s : State) (from_ : Nat) (m : CollMsg) : State := { s with inbox := s.inbox ++ [(from_, m)] }

/-- A message goes to a package, on the stream of its channel COLL; one to this package needs no fabric (R332, R337; log 45). -/
def State.sendMsg (s : State) (dest : Nat) (m : CollMsg) : State :=
  if dest = s.pkg then s.deliverMsg s.pkg m else s.remSend dest 0 .other (.message m) 0 0

/-- A message goes to the primary tap sequencer. -/
def State.tellPrim (s : State) (m : CollMsg) : State := s.sendMsg s.prim m

/-! ### The instructions -/

/-- The descriptor at a scratch offset. -/
def Ctx.collAt (x : Ctx) (s : State) (off : Nat) : CollDesc :=
  collDesc ((s.core x.core).scratch.bytes (x.scrAddr off) 64)

/-- The checks of COLL in their order (R352); a buffer in the peer window raises 0x141 (R334). -/
def Ctx.collCause (x : Ctx) (s : State) (off : Nat) (tag : Word) : Option Nat :=
  if off % 64 ≠ 0 then some 0x008
  else if x.team.scr < off + 64 then some 0x040
  else
    let d := x.collAt s off
    if isPeer (BitVec.ofNat 56 d.sbuf) || isPeer (BitVec.ofNat 56 d.dbuf) then some 0x141
    else if !collOk d (s.commSize d.comm) then some 0x143
    else if !s.commValid d.comm x.team.part then some 0x142
    else if s.commSize d.comm ≤ d.key.root.toNat then some 0x143
    else if (s.part x.team.part).slots.any fun e =>
      e.2.st != .free && !e.2.st.terminal && e.2.comm == d.comm && e.2.tag == tag then some 0x145
    else none

/-- COLL (R352): A descriptor offset, B tag, PD [14:12]; the POD phase comes before the post. -/
def execColl (w : ExtA) (s : State) :=
  runGroup (.coll w) { ends := true, pdst := [w.f 14 12] } (fun x s =>
    let off := (x.low w.a).toNat
    let tag := x.low w.b
    if x.ex = 0 then .done s
    else
      match x.collCause s off tag with
      | some c => if c = 0x141 then .kill c else .cause c (if c = 0x008 then BitVec.ofNat 64 off else 0)
      | none =>
        if x.g.phased = false then .retry ((s.phasePod x.core x.ref x.ex).modGroup x.ref fun g => { g with phased := true })
        else
          match (List.range 64).find? fun i => (s.slot x.team.part i).st == .free with
          | none => .done (x.nowP (w.f 14 12) 0 s)
          | some i =>
            let d := x.collAt s off
            let (id, s) := s.fresh
            let s := s.modSlot x.team.part i fun _ =>
              { st := .posted, comm := d.comm, tag, key := d.key, sbuf := d.sbuf, dbuf := d.dbuf, node := x.team.node, order := id }
            let s := s.tellPrim (.post d.comm tag d.key)
            .done (x.nowP (w.f 14 12) x.ex (x.now (fun _ => BitVec.ofNat 32 i) s))) s

/-- COLLW (R353): POLL in MOD [0], KEEP in MOD [1]. -/
def execCollw (w : ExtA) (s : State) :=
  runGroup (.collw w) { ends := true } (fun x s =>
    let i := (x.low w.a).toNat
    let sl := s.slot x.team.part i
    let poll := w.mod % 2 == 1
    let keep := w.mod / 2 == 1
    if x.ex = 0 then .done s
    else if 63 < i ∨ sl.st = .free then .cause 0x146 0
    else if poll || sl.st.terminal then
      let (lo, hi) := sl.status
      let s := x.now64 (fun _ => hi ++ lo) s
      let s := if sl.st = .done then s.phasePod x.core x.ref x.ex else s
      .done (if sl.st.terminal && !keep then s.modSlot x.team.part i fun _ => {} else s)
    else .wait s { on := .collw i keep, ipc := x.pc, dst := w.dst, wide := true, pd := none, lanes := x.ex }) s

/-- COLLC (R354): A communicator, B tag, PD [14:12]. -/
def execCollc (w : ExtA) (s : State) :=
  runGroup (.collc w) { ends := true, pdst := [w.f 14 12] } (fun x s =>
    let c := (x.low w.a).toNat
    let tag := x.low w.b
    if x.ex = 0 then .done s
    else if !s.commValid c x.team.part then .cause 0x142 0
    else
      .wait (s.tellPrim (.cancel c tag))
        { on := .collc c tag, ipc := x.pc, dst := .zero, wide := false, pd := some (BitVec.ofNat 3 (w.f 14 12)), lanes := x.ex }) s

end Sys2Proof.Machine
end

