-- ==== Sys2Proof/Machine/CrossLane.lean ====
section
/-!
DEFINITION. Cross-lane instructions, opcodes 0xA0 to 0xA5 (spec/06_control_crosslane_lane_memory.md R120–R125).
E is the set of executing lanes.
-/

namespace Sys2Proof.Machine

/-! ### SHFL -/

/-- The lane that SHFL reads and whether it counts as found (R120): the segment width n, the mode, the lane, its B value; sums wrap
as u32 (R9). -/
def shflFrom (mode n : Nat) (ex : Mask) (b l : Nat) : Nat × Bool :=
  let o := l % n
  let base := l - o
  let (j, ok) :=
    match mode with
    | 0 => (base + b % n, true)
    | 1 => (l - b, decide (b ≤ o))
    | 2 => ((l + b) % 2 ^ 32, decide ((o + b) % 2 ^ 32 < n))
    | _ => (base + (o ^^^ (b % n)), true)
  (j, ok && ex.getLsbD j)

/-- SHFL (R120): W [11:9], PD [15:13], PEN [16]. -/
def execShfl (w : ExtA) (s : State) :=
  let pen := w.f 16 16 == 1
  runGroup (.shfl w) { lat := some 6, pdst := if pen then [w.f 15 13] else [] } (fun x s =>
    let a := x.src .int w.a
    let b := x.src .int w.b
    let at_ (l : Nat) := shflFrom w.mod (2 ^ w.f 11 9) x.ex (LVec.at b l).toNat l
    let v := LVec.tab fun l => LVec.at a (if (at_ l).2 then (at_ l).1 else l)
    let s := x.put .b 6 v s
    .done (if pen then x.putP 6 (w.f 15 13) (maskOf fun l => (at_ l).2) s else s)) s

/-! ### VOTE -/

/-- VOTE (R121): PA [11:9], PAN [12], PD [15:13]. -/
def execVote (w : ExtA) (s : State) :=
  runGroup (.vote w)
    { lat := some 6, preds := [w.f 11 9], pdst := if w.mod = 2 then [] else [w.f 15 13] } (fun x s =>
    let q : Mask := x.ex &&& maskOf fun l => predAt x.g (w.f 11 9) (w.f 12 12 == 1) l
    if x.ex = 0 then .done s
    else if w.mod = 2 then .done (x.put .b 6 (LVec.splat q) s)
    else
      let r :=
        match w.mod with
        | 0 => q == x.ex
        | 1 => q != 0
        | _ => q == x.ex || q == 0
      .done (x.putP 6 (w.f 15 13) (if r then x.ex else 0) s)) s

/-! ### MATCH -/

/-- MATCH (R122): W64 and ALL in MOD; PD [15:13], PEN [16]. -/
def execMatchLanes (w : ExtA) (s : State) :=
  let pen := w.f 16 16 == 1
  runGroup (.matchLanes w) { lat := some 6, pdst := if pen then [w.f 15 13] else [] } (fun x s =>
    let a (l : Nat) : DWord :=
      if w.mod / 2 % 2 = 1 then x.src64 w.a l else (LVec.at (x.src .int w.a) l).setWidth 64
    let eq := (Mask.list x.ex).all fun j => a j == a (Mask.lowest x.ex)
    let v (l : Nat) : Word :=
      if w.mod % 2 = 1 then (if eq then x.ex else 0) else maskOf fun j => x.ex.getLsbD j && a j == a l
    let s := x.put .b 6 (LVec.tab v) s
    .done (if pen then x.putP 6 (w.f 15 13) (if eq then x.ex else 0) s else s)) s

/-! ### REDG -/

/-- The exact sum of values, rounded once into a format (R123, R349). -/
def redgSum (f : FltFmt) (vs : List Val) : Nat :=
  let neg0 := vs.all fun v => match v with | .num true 0 _ => true | _ => false
  let sum : Val := vs.foldl (fun acc v => Val.add acc v .rne) (Val.num neg0 0 0)
  f.round .rne false 0
    (match sum with
      | .num _ 0 _ => .num neg0 0 0
      | v => v)

/-- A fold over the values of the executing lanes from the first. -/
def foldFirst (f : Word → Word → Word) (vs : List Word) : Word :=
  match vs with
  | [] => 0
  | v :: r => r.foldl f v

/-- REDG's result (R123). -/
def redgOf (op : Nat) (vs : List Word) : Word :=
  match op with
  | 0 => foldFirst (· + ·) vs
  | 1 => foldFirst (fun a b => if BitVec.slt b a then b else a) vs
  | 2 => foldFirst (fun a b => if BitVec.slt a b then b else a) vs
  | 3 => foldFirst (fun a b => if BitVec.ult b a then b else a) vs
  | 4 => foldFirst (fun a b => if BitVec.ult a b then b else a) vs
  | 5 => foldFirst (· &&& ·) vs
  | 6 => foldFirst (· ||| ·) vs
  | 7 => foldFirst (· ^^^ ·) vs
  | _ => BitVec.ofNat 32 (redgSum fp32 (vs.map fun v => fp32.val v.toNat))

/-- REDG (R123). -/
def execRedg (w : ExtA) :=
  aluB (.redg w) 6 fun x =>
    let a := x.src (if w.mod = 8 then .f32 else .int) w.a
    LVec.splat (redgOf w.mod ((Mask.list x.ex).map (LVec.at a)))

/-! ### ELECT and PRMT -/

/-- ELECT (R124): PD [15:13]. -/
def execElect (w : ExtA) (s : State) :=
  runGroup (.elect w) { lat := some 6, pdst := [w.f 15 13] } (fun x s =>
    let m := Mask.lowest x.ex
    if x.ex = 0 then .done s
    else .done (x.putP 6 (w.f 15 13) (maskOf (· == m)) (x.put .b 6 (LVec.splat (BitVec.ofNat 32 m)) s))) s

/-- A byte of PRMT's result: the selector, the bytes of a and b, the byte position (R125). -/
def prmtByte (a b c : Word) (k : Nat) : BitVec 8 :=
  let sel := c.extractLsb' (8 * k) 8
  let src := (b ++ a : BitVec 64)
  let v := src.extractLsb' (8 * (sel.toNat % 8)) 8
  let v := if sel.getLsbD 3 then v.rotateLeft 4 else v
  let v :=
    match sel.toNat / 16 % 4 with
    | 0 => v
    | 1 => 0
    | 2 => 0xFF
    | _ => if v.msb then 0xFF else 0
  let old := a.extractLsb' (8 * k) 8
  match sel.toNat / 64 with
  | 0 => v
  | 1 => (old &&& 0xF0) ||| (v &&& 0x0F)
  | 2 => (v <<< 4) ||| (old &&& 0x0F)
  | _ => (v <<< 4) ||| (v &&& 0x0F)

/-- PRMT in a lane (R125). -/
def prmtW (a b c : Word) : Word := prmtByte a b c 3 ++ prmtByte a b c 2 ++ prmtByte a b c 1 ++ prmtByte a b c 0

/-- PRMT (R125). -/
def execPrmt (w : ExtA) := aluB (.prmt w) 6 fun x => x.map3 .int prmtW

end Sys2Proof.Machine
end

