-- ==== Sys2Proof/Machine/UcieLink.lean ====
section
/-!
DEFINITION. Die-to-die links (spec/21_package_links_control.md R320–R322): flits, CRC-64/WE, acceptance, replay, and the loss
of lanes. An event that is not enabled leaves the state unchanged.
-/

namespace Sys2Proof.Machine

/-! ### Flits that arrive -/

/-- Every unacknowledged flit is sent again in SEQ order (R321). -/
def State.ucieResend (s : State) (m : UcieRef) : State :=
  let s := (s.ucieAt m).replay.foldl (fun s x => s.uciePayload m x) s
  s.modUcie m fun u => { u with progressAt := s.ptp }

/-- An ACK frees the sender's buffer up to it, and messages that wait go out (R321). -/
def State.ucieFree (s : State) (m : UcieRef) (ack : Byte) : State :=
  let u := s.ucieAt m
  let keep := u.replay.filter fun x => decide (0 < (x.1 - ack).toInt)
  if keep.length = u.replay.length then s
  else (s.modUcie m fun u => { u with replay := keep, progressAt := s.ptp }).ucieDrain m 64

/-- A message has crossed an edge: it has reached its die, or goes on to the next edge (R207). -/
def State.crossed (s : State) (m : UcieRef) (x : Crossing) : State :=
  let here := if m.edge < 2 then 2 * m.edge + (if m.down then 0 else 1) else m.edge - 2 + (if m.down then 0 else 2)
  if here = x.to_ then s.deliver x.msg else s.hop here x

/-- A flit that its wire holds has arrived. -/
def Ucie.took (u : Ucie) (flit : List Byte) : Ucie := { u with wire := u.wire.erase flit }

/-- A payload flit with the expected SEQ is accepted: its messages go on in their order, and an idle flit returns the ACK (R320, R321).
The messages are those that the sender keeps under that SEQ. -/
def State.ucieAccept (s : State) (m : UcieRef) (seq : Byte) : State :=
  let xs := ((s.ucieAt m).replay.lookup seq).getD []
  let s := (s.modUcie m fun u => { u with exp := u.exp + 1 }).ucieEmit (otherWay m) 0 0 0
  xs.foldl (fun s x => s.crossed m x) s

/-- UCIE_FLIT_RECEIVE (R321): a flit arrives on a direction. -/
def execUcieFlitReceive (m : UcieRef) (flit : List Byte) (s : State) : Host.Outcome State Fault Refusal :=
  let s := s.modUcie m (·.took flit)
  let u := s.ucieAt m
  let back := otherWay m
  let kind := flitKind flit
  if !crcOk flit || decide (2 < kind) then .next (s.ucieEmit back 2 0 0)
  else
    let seq : Byte := flit.getD 1 0
    let s :=
      if kind = 1 ∧ seq = u.exp then s.ucieAccept m seq
      else if kind = 1 ∧ 0 ≤ (seq - u.exp).toInt then s.ucieEmit back 2 0 0
      else if kind = 1 then s.ucieEmit back 0 0 0
      else s
    let s := s.ucieFree back (flit.getD 2 0)
    .next (if kind = 2 then s.ucieResend back else s)

/-- UCIE_REPLAY (R321): 2 µs without progress of the ACK. -/
def execUcieReplay (m : UcieRef) (s : State) : Host.Outcome State Fault Refusal :=
  let u := s.ucieAt m
  if u.replay.isEmpty = false ∧ u.progressAt + 2000 ≤ s.ptp then .next (s.ucieResend m) else .next s

/-! ### Loss of lanes -/

/-- RDY with the bit of an edge set or cleared (R324). -/
def State.setEdge (s : State) (edge : Nat) (on : Bool) : State :=
  let b := 1#64 <<< (8 + edge)
  { s with rdy := if on then s.rdy ||| b else s.rdy &&& ~~~b }

/-- Modules of an edge that are not lost. -/
def State.keptModules (s : State) (edge : Nat) : List Nat :=
  (List.range 16).filter fun i => !(s.ucieAt { edge, module := i, down := false }).dead

/-- The modules to which the pairs of a dead one may go: those that have trained, or while there are none those that may still train,
where messages wait for it (R322). -/
def State.aliveModules (s : State) (edge : Nat) : List Nat :=
  let kept := s.keptModules edge
  let up := kept.filter fun i => decide (0 < (s.ucieAt { edge, module := i, down := false }).lanes)
  if up.isEmpty then kept else up

/-- The package stops (R324). -/
def State.setFatal (s : State) : State := { s with rdy := s.rdy ||| 0x1000#64 }

/-- Payload flits of a direction that the other end has not accepted, which are lost with the wires of the module (R322). -/
def Ucie.emptied (u : Ucie) : Ucie := { u with replay := [], waiting := [], wire := [] }

/-- The pairs of a dead module go to a remaining module of the edge, and what its sender has not had accepted is sent there ahead of
any later message of those pairs (R322). Which remaining module takes the traffic is a free value (log 42). -/
def State.remap (s : State) (m : UcieRef) (k : Nat) : State :=
  let left := (s.ucieAt m).undelivered
  left.foldl (fun s x => s.ucieSend { m with module := k } x) (s.modUcie m Ucie.emptied)

/-- Pairs that are mapped to a module are mapped to another from now on. -/
def State.remapPairs (s : State) (edge dead k : Nat) : State :=
  let old := s.remaps.map fun e => if e.1 / 16 = edge ∧ e.2 = dead then (e.1, k) else e
  { s with remaps := NMap.set old (16 * edge + dead) k }

/-- A direction of a module goes on with 32 lanes, or none. -/
def Ucie.loseLanes (u : Ucie) : Ucie := if 64 ≤ u.lanes then { u with lanes := 32 } else { u with lanes := 0, dead := true }

/-- UCIE_LANE_LOSS (R322): a module of 64 lanes goes on with 32, replaying first; one of 32 is dead, and its traffic is
remapped; an edge that has lost all 16 modules stops the package. The edge's bit of RDY records the loss. -/
def execUcieLaneLoss (m : UcieRef) (s : State) : Host.Outcome State Fault Refusal :=
  let u := s.ucieAt m
  if u.dead ∨ u.lanes = 0 ∨ 4 ≤ m.edge ∨ 16 ≤ m.module then .next s
  else
    let o := otherWay m
    let s := ((s.modUcie m Ucie.loseLanes).modUcie o Ucie.loseLanes).setEdge m.edge false
    if 64 ≤ u.lanes then .next ((s.ucieResend m).ucieResend o)
    else
      let a := s.aliveModules m.edge
      match a[Config.remapTo m.edge m.module % a.length]? with
      | none => .next s.setFatal
      | some k => .next (((s.remapPairs m.edge m.module k).remap m k).remap o k)

end Sys2Proof.Machine
end

