-- ==== Sys2Proof/Machine/Vectors.lean ====
section
/-!
DEFINITION. MSI-X vectors of the two host ports (spec/18_package_memory_translation.md R272; spec/19_queues_nodes_arenas.md
R289). The PCI Express layout of an entry, and its mask bit set at reset, are PRESUMED from PCI Express (log 4).
-/

namespace Sys2Proof.Machine

/-- A host port as a number; firmware has no vectors. -/
def portNo (p : Port) : Option Nat :=
  match p with
  | .host0 => some 0
  | .host1 => some 1
  | .firmware => none

/-- A byte of the MSI-X tables, by offset from the table of port 0: the mask bit of an entry is set at reset. -/
def State.msixByte (s : State) (off : Nat) : Byte := NMap.getD s.msix off (if off % 16 = 12 then 1 else 0)

/-- A vector of a port is masked. -/
def State.vecMasked (s : State) (port idx : Nat) : Bool := (s.msixByte (0x2000 * port + 16 * idx + 12)).getLsbD 0

/-- A vector is sent on a port, or is pending while masked. -/
def State.sendOn (s : State) (p : Port) (port idx : Nat) : State :=
  if s.vecMasked port idx then
    (if s.msixPend.contains (p, idx) then s else { s with msixPend := s.msixPend ++ [(p, idx)] })
  else { s with vectors := s.vectors ++ [(p, idx)] }

/-- A vector is sent on both host ports. -/
def State.sendBoth (s : State) (idx : Nat) : State := (s.sendOn .host0 0 idx).sendOn .host1 1 idx

/-- Vector v of a partition, on both host ports; a partition has 64 vectors, and a number above sends none. -/
def State.sendPart (s : State) (part v : Nat) : State := if v < 64 then s.sendBoth (64 * part + v) else s

/-- Pending vectors that are masked no more are sent. -/
def State.sendPending (s : State) : State :=
  let masked : Port × Nat → Bool := fun x => match portNo x.1 with | some p => s.vecMasked p x.2 | none => true
  { s with vectors := s.vectors ++ s.msixPend.filter (fun x => !masked x), msixPend := s.msixPend.filter masked }

end Sys2Proof.Machine
end

