-- ==== Sys2Proof/Machine/Fabric.lean ====
section
/-!
DEFINITION. Yunambi ports and remote streams (spec/22_fabric.md R330–R337): flits and replay, withdrawal, packets applied once
at their target, responses, resending, and an unreachable peer.
An event that is not enabled leaves the state unchanged.
-/

namespace Sys2Proof.Machine

/-! ### Links -/

/-- Every unacknowledged flit of a port is sent again in SEQ order (R331). -/
def State.fabResend (s : State) (p : Nat) : State :=
  let s := (s.port p).replay.foldl (fun s x => s.fabEmit p 1 x.1 x.2.1 x.2.2) s
  s.modPort p fun k => { k with progressAt := s.ptp }

/-- An ACK frees the port's replay buffer up to it (R331). -/
def State.fabFree (s : State) (p : Nat) (ack : BitVec 12) : State :=
  let k := s.port p
  let keep := k.replay.filter fun x => decide (0 < (x.1 - ack).toInt)
  if keep.length = k.replay.length then s else s.modPort p fun k => { k with replay := keep, progressAt := s.ptp }

/-- Flits that the package's own buffer holds: 1,024 in each bank without an uncorrectable error (R332, R333). -/
def FabPort.room (k : FabPort) : Nat := 1024 * (8 - k.badBanks)

/-- A payload flit with the expected SEQ is accepted if the buffer has room for it (R331, R332). -/
def State.fabAccept (s : State) (p vc : Nat) (pay : List Byte) : State :=
  s.modPort p fun k => if k.buf.length < k.room then { k with exp := k.exp + 1, buf := k.buf ++ [(vc, pay)] } else k

/-- Credits come back for a channel (R331, R332). -/
def State.fabCredit (s : State) (p vc n : Nat) : State := s.modPort p fun k => { k with used := k.used.update vc 0 (· - n) }

/-- YUNAMBI_FLIT_RECEIVE (R331): the procedure of R321 with 12-bit SEQ and ACK; a good flit returns CRD credits of channel CVC, and
what waited for credits or for room in the replay buffer goes out. -/
def execYunambiFlitReceive (port : Nat) (flit : List Byte) (s : State) : Host.Outcome State Fault Refusal :=
  let k := s.port port
  let kind := flitKind flit
  if 16 ≤ port then .next s
  else if !crcOk flit || decide (2 < kind) then .next (s.fabEmit port 2 0 0 0)
  else
    let h := leNat (flit.take 8)
    let seq : BitVec 12 := BitVec.ofNat 12 (h / 2 ^ 20)
    let s :=
      if kind = 1 ∧ seq = k.exp then s.fabAccept port (h / 2 ^ 4 % 4) ((flit.drop 8).take 240)
      else if kind = 1 ∧ 0 ≤ (seq - k.exp).toInt then s.fabEmit port 2 0 0 0
      else if kind = 1 then s.fabEmit port 0 0 0 0
      else s
    let s := (s.fabCredit port (h / 2 ^ 6 % 4) (h / 2 ^ 8 % 2 ^ 8)).fabFree port (BitVec.ofNat 12 (h / 2 ^ 32))
    let s := if kind = 2 then s.fabResend port else s
    .next (s.fabDrain port (s.port port).waiting.length)

/-- YUNAMBI_REPLAY (R331): 5 µs without progress of the ACK. -/
def execYunambiReplay (port : Nat) (s : State) : Host.Outcome State Fault Refusal :=
  let k := s.port port
  if k.replay.isEmpty = false ∧ k.progressAt + 5000 ≤ s.ptp then .next (s.fabResend port) else .next s

/-- An idle flit goes out for every channel that has credits to return, with the port's ACK (R331). -/
def State.fabIdle (s : State) (p : Nat) : Nat → State
  | 0 => s
  | n + 1 => if (s.port p).due.2 = 0 then s else (s.fabEmit p 0 0 0 0).fabIdle p n

/-- Flits in a port's buffer are handed on, and their credits returned (R332). -/
def State.drainPort (s : State) (p : Nat) : State :=
  if (s.port p).buf.isEmpty then s
  else
    let s := s.modPort p fun k => { k with buf := [], owed := k.buf.foldl (fun m x => m.update x.1 0 (· + 1)) k.owed }
    s.fabIdle p 64

/-! ### Planes -/

/-- A port must withdraw: below 4 lanes, or its reserves exceed its good banks (R332, R333). -/
def FabPort.degraded (k : FabPort) : Bool := decide (k.lanes < 4) || decide (1024 * (8 - k.badBanks) < 20 + 4 * k.rtc)

/-- What a port has sent or queued is given up, with the credits of its link (R333): end-to-end retransmission recovers it (R337). -/
def FabPort.givenUp (k : FabPort) : FabPort := { k with replay := [], waiting := [], used := [], owed := [] }

/-- A port withdraws (R333): its bit leaves every PMASK and UP, WDN is set, and FVEC is sent on both host ports; the link recovers
nothing of what was in flight. -/
def State.withdraw (s : State) (p : Nat) : State :=
  let s := s.modPort p FabPort.givenUp
  let s := s.pmask.foldl (fun s e => s.setPmask e.1 (e.2 &&& ~~~(1#16 <<< p))) s
  let s := { s with fabev := (s.fabev ||| (1#64 <<< (16 + p))) &&& ~~~(1#64 <<< p) }
  s.sendBoth (s.fabev.toNat / 2 ^ 32 % 2 ^ 8)

/-- PORT_WITHDRAW (R333): a port that has joined its plane and is degraded. -/
def execPortWithdraw (port : Nat) (s : State) : Host.Outcome State Fault Refusal :=
  if port < 16 ∧ s.fabev.getLsbD port = true ∧ (s.port port).degraded = true then .next (s.withdraw port) else .next s

/-- NO_ROUTE_NOTICE (R333). -/
def execNoRouteNotice (dest plane : Nat) (s : State) : Host.Outcome State Fault Refusal :=
  if plane < 16 then .next (s.setPmask dest (s.pmask.getD dest 0 &&& ~~~(1#16 <<< plane))) else .next s

/-! ### The target side -/

/-- The class that a packet names (R278, R334). -/
def remClsOf (c : BitVec 2) : Cls := clsOf c.toNat

def emptyRsp (p : RemPkt) (cause : Nat) : RemRsp := { st := p.st, seq := p.seq, data := 0, olds := [], bare := false, cause }

/-- A stream as the agent that accesses lines at their homes. -/
def streamAgent (st : StreamId) : Agent := .stream st.peer (st.ch == .atom)

/-- An atomic packet performs at the home of its line (R335). -/
def State.applyAtom (s : State) (p : RemPkt) (hnd size : Nat) (ops : List LaneOp) : State × Option RemRsp :=
  let a := streamAgent p.st
  let cls := remClsOf p.cls
  match s.seize a ((atomLanes hnd size ops (s.homeLine p.line)).2.1 != 0) p.line cls, s.home p.line with
  | (s, false), _ => (s, none)
  | (s, true), none => (s, some (emptyRsp p 0))
  | (s, true), some h =>
    if s.homePoison p.line then (s.letGo a p.line, some (emptyRsp p 0x0C1))
    else
      let (s, olds) := (s.readHome p.line cls).atomHome h p.line cls none hnd size ops
      (s.letGo a p.line, some { emptyRsp p 0 with olds })

/-- A packet performs at the home of its line, as one event; none while the home is not free (R334, R335). A message takes effect at
the package. -/
def State.applyRemote (s : State) (p : RemPkt) : State × Option RemRsp :=
  let a := streamAgent p.st
  let cls := remClsOf p.cls
  match p.op with
  | .message m => (s.deliverMsg p.st.peer m, some (emptyRsp p 0))
  | .load =>
    match s.agentLine a p.line cls with
    | (s, .line d) => (s, some { emptyRsp p 0 with data := d })
    | (s, .kill c) => (s, some (emptyRsp p c))
    | (s, .busy) => (s, none)
  | .store data mask =>
    if s.inShadow (128 * p.line) then (s, some (emptyRsp p 0x0C2))
    else
      match s.tryWrite a p.line data mask cls with
      | (s, true) => (s, some (emptyRsp p 0))
      | (s, false) => (s, none)
  | .atom hnd size ops =>
    if s.inShadow (128 * p.line) then (s, some (emptyRsp p 0x0C2)) else s.applyAtom p hnd size ops

def State.inStream (s : State) (st : StreamId) : StreamIn := s.inStreams.getD (streamKey st) {}

def State.modIn (s : State) (st : StreamId) (f : StreamIn → StreamIn) : State :=
  { s with inStreams := s.inStreams.update (streamKey st) {} f }

/-- The packet whose turn it is performs; its response is kept with those of the last 512 applied packets, and is sent (R337). -/
def State.applyTurn (s : State) (p : RemPkt) : State × Bool :=
  match s.applyRemote p with
  | (s, none) => (s, false)
  | (s, some r) =>
    let s := s.modIn p.st fun i =>
      { applied := i.applied + 1, early := i.early.filter fun q => q.seq != p.seq
        resps := (i.resps ++ [r]).drop (i.resps.length + 1 - 512) }
    (s.fabLeave p.st.peer (.rsp r) 1, true)

/-- Packets held ahead of their turn perform in sequence (R337). -/
def State.applyEarly (s : State) (st : StreamId) : Nat → State
  | 0 => s
  | n + 1 =>
    let i := s.inStream st
    match i.early.find? fun q => q.seq == i.applied with
    | none => s
    | some q =>
      match s.applyTurn q with
      | (s, true) => s.applyEarly st n
      | (s, false) => s

/-- REMOTE_PACKET_APPLY (R337): a packet of another package's stream performs in its turn, is held ahead of it, or is answered
again. -/
def execRemotePacketApply (p : RemPkt) (s : State) : Host.Outcome State Fault Refusal :=
  let i := s.inStream p.st
  if p.seq = i.applied then
    match s.applyTurn p with
    | (s, true) => .next (s.applyEarly p.st 512)
    | (s, false) => .next s
  else if serialLt p.seq i.applied then
    let r := (i.resps.find? fun r => r.seq == p.seq).getD { emptyRsp p 0 with bare := true }
    .next (s.fabLeave p.st.peer (.rsp r) 1)
  else if 512 < (p.seq - i.applied).toNat || i.early.any fun q => q.seq == p.seq then .next s
  else .next (s.modIn p.st fun i => { i with early := i.early ++ [p] })

/-! ### The source side -/

/-- An access of an agent has its answer (R276, R335). -/
def State.farDone (s : State) (op cause : Nat) (d : BitVec 1024) : State :=
  { s with far := s.far.map fun x => if x.op = op then { x with done := some (s.clk, cause, d) } else x }

/-- The answer to an agent's packet: the line, or the old value. -/
def answerData (u : Unacked) (r : RemRsp) : BitVec 1024 :=
  match u.pkt.op with
  | .atom _ _ _ => match r.olds with | x :: _ => x.2.setWidth 1024 | [] => 0
  | _ => r.data

/-- A remote load's line has come: its values are bound, and with them those of an event over several lines (R225, R335). -/
def State.bindFar (s : State) (op piece : Nat) (d : BitVec 1024) : State :=
  let s := s.modOut op fun o => o.modPiece piece fun p => { p with data := some d, vals := some (readAccs p.accs d) }
  s.modOut op fun o => if o.whole then s.bindWhole o.core [] o else o

/-- A packet's piece has its answer (R335). -/
def State.answer (s : State) (u : Unacked) (r : RemRsp) : State :=
  match s.outst.get? u.op with
  | none => s.farDone u.op r.cause (answerData u r)
  | some o =>
    let s := if r.cause = 0 then s else
      match s.team? o.g.team with
      | some t => s.killNode t.node r.cause
      | none => s
    if o.kind = .effect then s.landPiece u.op u.piece
    else
      match u.pkt.op with
      | .atom _ _ _ =>
        s.modOut u.op fun o => o.modPiece u.piece fun p =>
          { p with vals := some (p.accs.map fun a => (a.lane, ((r.olds.lookup a.lane).getD 0).setWidth 128)) }
      | _ => s.bindFar u.op u.piece r.data

/-- The packet needs more than an acknowledgement: load data or old values. -/
def State.needsData (s : State) (u : Unacked) : Bool :=
  match s.outst.get? u.op with
  | none => s.far.any (fun x => x.op == u.op) && (match u.pkt.op with | .load | .atom _ _ _ => true | _ => false)
  | some o => o.kind != .effect

/-- Packets of the other channel that a stream's packets held go out (R336). -/
def State.releaseRival (s : State) (st : StreamId) : State :=
  match st.ch.other with
  | some c => s.releaseHeld { st with ch := c } (s.outStream { st with ch := c }).waiting.length
  | none => s

/-- REMOTE_RESPONSE_ARRIVAL (R335–R337): the packet is acknowledged, its data or old values arrive, and packets held behind it
go out. A bare acknowledgement does not answer a packet that needs data. -/
def execRemoteResponseArrival (r : RemRsp) (s : State) : Host.Outcome State Fault Refusal :=
  match (s.outStream r.st).unacked.find? fun u => u.pkt.seq == r.seq with
  | none => .next s
  | some u =>
    if r.bare && s.needsData u then .next s
    else
      let s := s.modOutStream r.st fun o => { o with unacked := o.unacked.filter fun x => x.pkt.seq != r.seq }
      .next ((s.answer u r).releaseRival r.st)

/-- REMOTE_RESEND (R333, R337): after 20 µs without an acknowledgement a packet goes out again, on the next plane. -/
def execRemoteResend (st : StreamId) (seq : Word) (s : State) : Host.Outcome State Fault Refusal :=
  match (s.outStream st).unacked.find? fun u => u.pkt.seq == seq, s.nextPlane st.peer with
  | some u, some pl =>
    if s.ptp < u.sentAt + 20000 then .next s
    else
      let s := s.modOutStream st fun o =>
        { o with unacked := o.unacked.map fun x => if x.pkt.seq = seq then { x with sentAt := s.ptp, plane := pl } else x }
      .next (s.fabLeave st.peer (.pkt u.pkt) st.ch.vc)
  | _, _ => .next s

/-- The agent's partition is switched out, so that it goes on later (R265, R303). -/
def State.frozen (s : State) (a : Agent) : Bool :=
  match s.agentPartition a with
  | some p => !(s.part p).resident
  | none => false

/-- An answer that its agent has not taken for 64 cycles is forgotten: the agent is gone. One of a partition that is switched out is
kept, since no access is made again after the restore (R265). -/
def State.reapFar (s : State) : State :=
  let keep (x : FarOp) : Option FarOp :=
    match x.done with
    | some (t, r) =>
      if s.frozen x.who then some { x with done := some (s.clk, r) } else if s.clk < t + 64 then some x else none
    | none => some x
  { s with far := s.far.filterMap keep }

/-- The node of an operation. -/
def State.nodeOf (s : State) (op : Nat) : Option Nat :=
  match s.outst.get? op with
  | some o => (s.team? o.g.team).map Team.node
  | none => (s.far.find? fun x => x.op == op).bind fun x => s.agentNode x.who

/-- An operation that waits for its answer. -/
def State.waitsFor (s : State) (op : Nat) : Bool := (s.outst.get? op).isSome || s.far.any fun x => x.op == op && x.done.isNone

/-- An operation for which no answer will come ends: nothing of it reaches memory any more that has not, and an agent gets the
cause. -/
def State.failOp (s : State) (op : Nat) : State :=
  match s.outst.get? op with
  | none => s.farDone op 0x140 0
  | some o => (List.range o.pieces.length).foldl (fun s k => s.forcePiece op k) s

/-- The members of a communicator in rank order (R340). -/
def State.members (s : State) (c : Nat) : List Nat :=
  (List.range (s.commSize c)).map fun i =>
    leNat (s.homeBytes ((s.comms.getD c (0, 0)).2.toNat % 2 ^ 52 + 2 * i) 2)

/-- What a read of a communicator's rank table meets, or 0: poison or a shadow region (R212, R218, R340). -/
def State.rankCause (s : State) (c : Nat) : Nat :=
  (((spanLines ((s.comms.getD c (0, 0)).2.toNat % 2 ^ 52) (2 * s.commSize c)).map fun x => s.readCause x.1).find? (· != 0)).getD 0

/-- A collective of a slot fails at this member, and at every member it can reach (R347, R350). -/
def State.failSlot (s : State) (part i : Nat) (unreachable : Option Nat) : State :=
  let sl := s.slot part i
  let tap := sl.tap.getD 0
  let others := (s.members sl.comm).filter fun m => m != s.pkg && some m != unreachable
  let s := s.modSlot part i fun sl => { sl with st := .failed, paused := false }
  let s := (s.dropData sl.comm tap).tellPrim (.done sl.comm tap false)
  let s := others.foldl (fun s m => s.sendMsg m (.peerFailed sl.comm tap)) s
  s.slotChanged part i

/-- Started collectives that have the peer as a member: partition and slot. -/
def State.startedWith (s : State) (peer : Nat) : List (Nat × Nat) :=
  s.parts.flatMap fun e =>
    (e.2.slots.filter fun sl => sl.2.st == .started && (s.members sl.2.comm).contains peer).map fun sl => (e.1, sl.1)

/-- A packet of the stream has waited 2 ms, for an operation that waits or for a collective with the peer (R337). -/
def State.fabLate (s : State) (st : StreamId) : Bool :=
  let o := s.outStream st
  let counts (op : Nat) : Bool := s.waitsFor op || (st.ch == .coll && !(s.startedWith st.peer).isEmpty)
  o.unacked.any (fun u => counts u.op && decide (u.firstAt + 2000000 ≤ s.ptp))
  || o.waiting.any fun w => counts w.op && decide (w.since + 2000000 ≤ s.ptp)

/-- The peer cannot be reached (R337): a packet has waited 2 ms, or the mask has been empty for 2 ms while something waits for the
peer. -/
def State.lost (s : State) (st : StreamId) : Bool :=
  let o := s.outStream st
  s.fabLate st
  || (s.pmask.getD st.peer 0 == 0 && decide (s.emptySince.getD st.peer 0 + 2000000 ≤ s.ptp)
    && (o.unacked.any (fun u => s.waitsFor u.op) || o.waiting.any (fun w => s.waitsFor w.op) || !(s.startedWith st.peer).isEmpty))

/-- PEER_UNREACHABLE (R337, R350, R355): cause 0x140 kills every node with an unacknowledged access on the stream, and
collectives with the peer fail. The stream keeps its numbering: its packets stay unacknowledged. -/
def execPeerUnreachable (st : StreamId) (s : State) : Host.Outcome State Fault Refusal :=
  if !s.lost st then .next s
  else
    let o := s.outStream st
    let ops := (((o.unacked.map Unacked.op) ++ o.waiting.map HeldPkt.op).filter s.waitsFor).eraseDups
    let s := ops.foldl (fun s op =>
      match s.nodeOf op with
      | some n => (s.killNode n 0x140).failOp op
      | none => s.failOp op) s
    let s := (s.modOutStream st fun o => { o with waiting := [] }).releaseRival st
    .next ((s.startedWith st.peer).foldl (fun s x => s.failSlot x.1 x.2 (some st.peer)) s)

end Sys2Proof.Machine
end

