-- ==== Sys2Proof/Machine/CollEngine.lean ====
section
/-!
DEFINITION. Collectives at a member: what its post slots receive from the tap sequencer, and the collective engine
(spec/22_fabric.md R341–R350, R354). The data of the other members are the event's argument.
An event that is not enabled leaves the state unchanged.
-/

namespace Sys2Proof.Machine

/-! ### Messages from the sequencer -/

/-- The slots of the package: partition and slot, oldest post first. -/
def State.slotsBy (s : State) (p : PostSlot → Bool) : List (Nat × Nat) :=
  let all := s.parts.flatMap fun e => (e.2.slots.filter fun x => p x.2).map fun x => (x.2.order, e.1, x.1)
  (sortBy (fun a b => a.1 ≤ b.1) all).map (·.2)

/-- The oldest slot that satisfies a test changes, if a message of the present epoch brings it (R346, R350). -/
def State.onSlot (s : State) (epoch : Byte) (p : PostSlot → Bool) (f : State → Nat → Nat → State) : State :=
  if epoch ≠ s.epochNow then s
  else
    match s.slotsBy p with
    | (part, i) :: _ => f s part i
    | [] => s

/-- A slot takes a state, and what waits for it sees it. -/
def State.setSlot (s : State) (part i : Nat) (st : SlotState) : State :=
  (s.modSlot part i fun sl => { sl with st }).slotChanged part i

/-- The collective of a slot has FAILED elsewhere: the slot fails too, and this member reports it (R343, R350). -/
def State.failHere (s : State) (comm : Nat) (tap : Word) (part i : Nat) : State :=
  ((s.dropData comm tap).tellPrim (.done comm tap false)).setSlot part i .failed

/-- A slot's tap number has come (R350); a collective that has FAILED at another member meanwhile fails here too. -/
def State.gotTap (s : State) (comm : Nat) (tag tap : Word) (epoch : Byte) : State :=
  s.onSlot epoch (fun sl => sl.st == .posted && sl.comm == comm && sl.tag == tag) fun s part i =>
    let s := s.modSlot part i fun sl => { sl with st := .numbered, tap := some tap }
    if s.collFailed.contains (comm, tap) then
      ({ s with collFailed := s.collFailed.filter (· != (comm, tap)) } : State).failHere comm tap part i
    else s

/-- TAP_NUMBER_RECEIVED (R350). -/
def execTapNumberReceived (comm : Nat) (tag tap : Word) (epoch : Byte) (s : State) : Host.Outcome State Fault Refusal :=
  .next (s.gotTap comm tag tap epoch)

/-- A pair has become CANCELLED (R345, R350). -/
def State.gotCancelled (s : State) (comm : Nat) (tag : Word) (epoch : Byte) : State :=
  s.onSlot epoch (fun sl => (sl.st == .posted || sl.st == .numbered) && sl.comm == comm && sl.tag == tag)
    fun s part i => s.setSlot part i .cancelled

/-- CANCELLED_RECEIVED (R345, R350). -/
def execCancelledReceived (comm : Nat) (tag : Word) (epoch : Byte) (s : State) : Host.Outcome State Fault Refusal :=
  .next (s.gotCancelled comm tag epoch)

/-- The sequencer has found a collective FAILED, by a key mismatch or a member's report; this member reports it too (R343, R350). -/
def State.gotFailed (s : State) (comm : Nat) (tap : Word) (epoch : Byte) : State :=
  s.onSlot epoch (fun sl => (sl.st == .numbered || sl.st == .started) && sl.comm == comm && sl.tap == some tap)
    fun s part i => s.failHere comm tap part i

/-- A collective has FAILED at another member (R347, R350), whatever the epoch, which R346 asks of the sequencer's messages alone: a slot
whose tap number has come fails; else the failure is kept for a POSTED slot of the communicator, whose number is on its way. -/
def State.gotPeerFailed (s : State) (comm : Nat) (tap : Word) : State :=
  match s.slotsBy fun sl => (sl.st == .numbered || sl.st == .started) && sl.comm == comm && sl.tap == some tap with
  | (part, i) :: _ => s.failHere comm tap part i
  | [] =>
    if (s.slotsBy fun sl => sl.st == .posted && sl.comm == comm).isEmpty then s
    else { s with collFailed := (comm, tap) :: s.collFailed.filter (· != (comm, tap)) }

/-- Source data of another member have come (R347): they are kept for a slot of the collective that is not terminal, or for a POSTED one,
whose tap number is on its way. -/
def State.gotData (s : State) (from_ comm : Nat) (tap : Word) (bs : List Byte) : State :=
  let wanted (sl : PostSlot) : Bool :=
    sl.comm == comm && (sl.st == .posted || ((sl.st == .numbered || sl.st == .started) && sl.tap == some tap))
  if (s.slotsBy wanted).isEmpty then s else { s with collIn := addData s.collIn (comm, tap, from_) bs }

/-- FAILED_RECEIVED (R343, R350). -/
def execFailedReceived (comm : Nat) (tap : Word) (epoch : Byte) (s : State) : Host.Outcome State Fault Refusal :=
  .next (s.gotFailed comm tap epoch)

/-- Splits that sleep in a COLLC of a communicator and a tag. -/
def State.cancelSleepers (s : State) (p : Nat → Word → Bool) : List (GRef × Nat × Nat × Word) :=
  s.teams.flatMap fun t =>
    t.2.groups.zipIdx.flatMap fun g =>
      g.1.splits.filterMap fun sp =>
        match sp.2.wait with
        | some w => match w.on with
          | .collc c tag => if p c tag && sp.2.out.isNone then some ({ team := t.1, grp := g.2 }, sp.1, c, tag) else none
          | _ => none
        | none => none

/-- A reply of the present epoch wakes the split, or is recorded for it (R22, R346, R354). -/
def State.gotReply (s : State) (comm : Nat) (tag : Word) (cancelled : Bool) (epoch : Byte) : State :=
  if epoch ≠ s.epochNow then s
  else
    match s.cancelSleepers fun c t => c == comm && t == tag with
    | (g, slot, _, _) :: _ => s.wake g slot (WaitOut.word cancelled 0)
    | [] => s

/-- COLLC_REPLY_ARRIVAL (R354). -/
def execCollcReplyArrival (comm : Nat) (tag : Word) (reply : CollcReply) (s : State) : Host.Outcome State Fault Refusal :=
  .next (s.gotReply comm tag reply.cancelled reply.epoch)

/-! ### The engine -/

/-- Where the engine's accesses come from: the package, for the posting node (R347). -/
def State.collFrom (s : State) (part : Nat) (sl : PostSlot) : From :=
  { core := none, cluster := 0, part, lid := match s.node? sl.node with | some n => n.lid | none => 0 }

/-- An access of a collective pauses: an entry is posted (R305, R347). -/
def State.pauseColl (s : State) (part i code kind : Nat) (va : BitVec 56) : State :=
  let sl := s.slot part i
  (s.modSlot part i fun sl => { sl with paused := true }).postFault part
    (agentFault code kind (s.collFrom part sl).lid va 0 sl.node (.coll i))

/-- Any other cause makes the collective FAILED at every member, and is delivered K to the posting node (R347). -/
def State.failColl (s : State) (part i code : Nat) : State := (s.killNode (s.slot part i).node code).failSlot part i none

/-- At most eight collectives run at once, those of one communicator in tap order (R347). -/
def State.mayRun (s : State) (part i : Nat) : Bool :=
  let sl := s.slot part i
  let started := s.slotsBy fun x => x.st == .started
  let runs (x : Nat × Nat) : Bool := x != (part, i) && ((s.slot x.1 x.2).src.isSome || !(s.slot x.1 x.2).part.isEmpty)
  decide ((started.filter runs).length < 8)
  && started.all fun x =>
    let y := s.slot x.1 x.2
    y.comm != sl.comm || !serialLt (y.tap.getD 0) (sl.tap.getD 0)

/-- The other members of a communicator (R340). -/
def State.otherMembers (s : State) (comm : Nat) : List Nat := (s.members comm).filter (· != s.pkg)

/-- Bytes in pieces of at most 1,024. -/
def pieces (bs : List Byte) : Nat → List (List Byte)
  | 0 => []
  | n + 1 => if bs.isEmpty then [] else bs.take 1024 :: pieces (bs.drop 1024) n

/-- Source data go to the other members on the channel COLL, in packets of at most 1,024 bytes (R332, R347). -/
def State.sendData (s : State) (comm : Nat) (tap : Word) (bs : List Byte) : State :=
  (s.otherMembers comm).foldl (fun s m =>
    (pieces bs (bs.length / 1024 + 1)).foldl (fun s b => s.sendMsg m (.data comm tap b)) s) s

/-- The source buffer has been read in full, and is sent (R347, R349). -/
def State.collHave (s : State) (part i : Nat) : State :=
  let sl := s.slot part i
  (s.modSlot part i fun sl => { sl with src := some sl.part }).sendData sl.comm (sl.tap.getD 0) sl.part

/-- Parts of the source buffer are read in order, each once (R349). -/
def State.collParts (s : State) (part i : Nat) : List (Nat × Nat) → State
  | [] => s.collHave part i
  | p :: r =>
    match s.agentPart (.coll part i) (s.collFrom part (s.slot part i)) (BitVec.ofNat 56 p.1) p.2 with
    | (s, .bytes bs) => (s.modSlot part i fun sl => { sl with part := sl.part ++ bs }).collParts part i r
    | (s, .pause c va) => s.pauseColl part i c 4 va
    | (s, .kill c) => s.failColl part i c
    | (s, .busy) => s

/-- The engine reads what it has not read of the source buffer (R347, R349); poison or a shadow region under the rank table of the
communicator ends the collective (R212, R218, R340). -/
def State.collRead (s : State) (part i : Nat) : State :=
  let sl := s.slot part i
  if sl.src.isSome || sl.paused || !s.mayRun part i then s
  else if s.rankCause sl.comm ≠ 0 then s.failColl part i (s.rankCause sl.comm)
  else
    let n := (bufElems sl.key (s.commSize sl.comm)).1 * dtBytes sl.key.dt
    s.collParts part i (partsOf (sl.sbuf + sl.part.length) (n - sl.part.length))

/-- START has come: the slot is STARTED, and the engine begins when it may (R350). -/
def State.gotStart (s : State) (comm : Nat) (tap : Word) (epoch : Byte) : State :=
  s.onSlot epoch (fun sl => sl.st == .numbered && sl.comm == comm && sl.tap == some tap) fun s part i =>
    ((s.modSlot part i fun sl => { sl with st := .started, pos := 0, src := none, part := [] }).dropOlder comm
      fun t => serialLt t tap).collRead part i

/-- START_RECEIVED (R350). -/
def execStartReceived (comm : Nat) (tap : Word) (epoch : Byte) (s : State) : Host.Outcome State Fault Refusal :=
  .next (s.gotStart comm tap epoch)

/-- The slot of a started collective. -/
def State.startedSlot (s : State) (comm : Nat) (tap : Word) : Option (Nat × Nat) :=
  (s.slotsBy fun sl => sl.st == .started && sl.comm == comm && sl.tap == some tap).head?

/-- COLLECTIVE_PAUSE_RESUME (R347): once its entry holds RESUME, a paused collective goes on; one that has not read its source
reads it when it may. -/
def execCollectivePauseResume (comm : Nat) (tap : Word) (s : State) : Host.Outcome State Fault Refusal :=
  match s.startedSlot comm tap with
  | none => .next s
  | some (part, i) =>
    if (s.slot part i).paused && s.faultOpen part (.coll i) then .next s
    else .next ((s.modSlot part i fun sl => { sl with paused := false }).collRead part i)

/-! ### Results -/

/-- Element e of a buffer. -/
def elemAt (n : Nat) (bs : List Byte) (e : Nat) : Nat := leNat ((bs.drop (n * e)).take n)

/-- The reduction of one element over the ranks: one rounding of the exact sum (R349). -/
def reduceElem (dt : BitVec 4) (vs : List Nat) : Nat :=
  match dt.toNat with
  | 0 => redgSum fp32 (vs.map fp32.val)
  | 1 => redgSum bf16 (vs.map bf16.val)
  | _ => vs.foldl (· + ·) 0 % 2 ^ 32

/-- The destination of member m, from the source buffers in rank order (R349). -/
def collResult (k : CollKey) (bufs : List (List Byte)) (m : Nat) : List Byte :=
  let n := dtBytes k.dt
  let cnt := k.cnt.toNat
  let red (off e : Nat) : List Byte := leBytes n (reduceElem k.dt (bufs.map fun b => elemAt n b (off + e)))
  match k.op.toNat with
  | 1 => (List.range cnt).flatMap (red 0)
  | 2 => (List.range cnt).flatMap (red (m * cnt))
  | 3 => bufs.flatMap fun b => b.take (n * cnt)
  | _ => (bufs.getD k.root.toNat []).take (n * cnt)

/-- The source buffers in rank order, if every rank's is there in full. -/
def rankBufs (size own n : Nat) (src : List Byte) (peers : List (Nat × List Byte)) : Option (List (List Byte)) :=
  let bufs := (List.range size).map fun r => if r = own then src else (peers.lookup r).getD []
  if bufs.all fun b => b.length == n then some bufs else none

/-- Write parts of a destination in order, from what has been written on. -/
def State.collWrite (s : State) (part i : Nat) (f : From) (base : Nat) (bs : List Byte) :
    List (Nat × Nat) → State × Wrote
  | [] => (s, .done)
  | p :: r =>
    if p.1 + p.2 ≤ base + (s.slot part i).pos then s.collWrite part i f base bs r
    else
      match s.agentWrite (.coll part i) f (BitVec.ofNat 56 p.1) ((bs.drop (p.1 - base)).take p.2) with
      | (s, .done) => (s.modSlot part i fun sl => { sl with pos := p.1 + p.2 - base }).collWrite part i f base bs r
      | x => x

/-- Source data of the members of a collective by rank, this package's rank left out, if all of them have come in full (R347). -/
def State.collPeers (s : State) (sl : PostSlot) : Option (List (Nat × List Byte)) :=
  let n := (bufElems sl.key (s.commSize sl.comm)).1 * dtBytes sl.key.dt
  let got (m : Nat) : List Byte :=
    match s.collIn.find? fun x => x.1 == (sl.comm, sl.tap.getD 0, m) with
    | some x => x.2
    | none => []
  let bufs := ((s.members sl.comm).zipIdx.filter fun x => x.2 != s.commRank sl.comm).map fun x => (x.2, got x.1)
  if bufs.all fun b => b.2.length == n then some bufs else none

/-- COLLECTIVE_DONE (R343, R347, R349, R350): with the source data of every other rank, the engine writes the destination at its
homes, where every write is published; then the slot is DONE, and the member reports it. -/
def execCollectiveDone (comm : Nat) (tap : Word) (peers : List (Nat × List Byte)) (s : State) :
    Host.Outcome State Fault Refusal :=
  match s.startedSlot comm tap with
  | none => .next s
  | some (part, i) =>
    let sl := s.slot part i
    let size := s.commSize comm
    let n := (bufElems sl.key size).1 * dtBytes sl.key.dt
    match sl.paused, sl.src.bind fun src => rankBufs size (s.commRank comm) n src peers with
    | false, some bufs =>
      let bs := collResult sl.key bufs (s.commRank comm)
      match s.collWrite part i (s.collFrom part sl) sl.dbuf bs (partsOf sl.dbuf bs.length) with
      | (s, .done) =>
        .next ((s.dropData comm tap).tellPrim (.done comm tap true) |>.setSlot part i .done)
      | (s, .pause c va) => .next (s.pauseColl part i c 5 va)
      | (s, .kill c) => .next (s.failColl part i c)
      | (s, .busy) => .next s
    | _, _ => .next s

end Sys2Proof.Machine
end

