-- ==== Sys2Proof/Machine/Links.lean ====
section
/-!
DEFINITION. Neighbour links, opcodes 0xE0 to 0xE2 (spec/12_cluster.md R197–R203).
-/

namespace Sys2Proof.Machine

/-- The grid position of a cluster, row and column (R197). -/
def gridPos (c : Nat) : Int × Int :=
  let die := dieOf c
  ((sectorOf c : Int) + (if 2 ≤ die then 3 else 0), (c % 7 : Int) + (if die % 2 = 1 then 7 else 0))

/-- The cluster at a grid position, if the position is in the grid (R197). -/
def atGrid (row col : Int) : Option Nat :=
  if row < 0 ∨ 5 < row ∨ col < 0 ∨ 13 < col then none
  else
    let r := row.toNat
    let c := col.toNat
    some (21 * ((if 3 ≤ r then 2 else 0) + (if 7 ≤ c then 1 else 0)) + 7 * (r % 3) + c % 7)

/-- The neighbour in a direction: 0 N, 1 E, 2 S, 3 W (R197). -/
def neighbour (c dir : Nat) : Option Nat :=
  let (r, k) := gridPos c
  match dir with
  | 0 => atGrid (r - 1) k
  | 1 => atGrid r (k + 1)
  | 2 => atGrid (r + 1) k
  | _ => atGrid r (k - 1)

/-- The direction back. -/
def opposite (dir : Nat) : Nat := (dir + 2) % 4

/-- The neighbour within the partition of the issuing node (R202). -/
def State.partNeighbour (s : State) (part c dir : Nat) : Option Nat :=
  match neighbour c dir with
  | some n => if (s.part part).pclus.getLsbD n then some n else none
  | none => none

/-- Change a partition's link state at a cluster, resident or switched out (R199). -/
def State.modLinks (s : State) (cluster part : Nat) (f : LinkSt → LinkSt) : State :=
  s.modCluster cluster fun c =>
    if c.part = some part then { c with links := f c.links } else { c with out := c.out.update part {} f }

def State.links (s : State) (cluster part : Nat) : LinkSt :=
  let c := s.cluster cluster
  if c.part = some part then c.links else c.out.getD part {}

/-- A launch is live until its node retires, which its shakeout follows (R199, R267, R311). -/
def State.launchLive (s : State) (lid : Word) : Bool :=
  s.nodes.any fun n => n.2.lid == lid && n.2.st != .shakeout && n.2.st != .retired

/-- The sender of a FIFO's messages has one more credit (R198). -/
def State.returnCredit (s : State) (cluster part side channel : Nat) : State :=
  match neighbour cluster side with
  | some n => s.modLinks n part fun l => { l with spent := l.spent.update (4 * opposite side + channel) 0 (· - 1) }
  | none => s

/-- The head message leaves its FIFO. -/
def State.popFifo (s : State) (cluster part side channel : Nat) : State :=
  (s.modLinks cluster part fun l => { l with fifo := l.fifo.update (4 * side + channel) [] List.tail }).returnCredit
    cluster part side channel

/-- The launch id of a waiter's team. -/
def State.lidOf (s : State) (w : Waiter) : Option Word := (s.team? w.g.team).map Team.lid

/-- The head of a FIFO is dropped when its launch has retired, and taken by the oldest waiter of its launch, which becomes RUNNABLE in
the next cycle (R199, R203). -/
def State.settleFifo (s : State) (cluster part side channel : Nat) : Nat → State
  | 0 => s
  | n + 1 =>
    let k := 4 * side + channel
    let l := s.links cluster part
    match l.fifo.getD k [] with
    | [] => s
    | m :: _ =>
      if !s.launchLive m.lid then (s.popFifo cluster part side channel).settleFifo cluster part side channel n
      else
        let ws := l.waiters.getD k []
        match ws.find? fun w => s.lidOf w == some m.lid with
        | none => s
        | some w =>
          let s := s.modLinks cluster part fun l => { l with waiters := l.waiters.set k (ws.erase w) }
          let s := s.popFifo cluster part side channel
          (s.wakeNext w (some { flag := true, lo := m.words, hi := LVec.zero })).settleFifo cluster part side channel n

/-- Every FIFO of a partition at a cluster is settled. -/
def State.settleCluster (s : State) (cluster part : Nat) : State :=
  (s.links cluster part).fifo.foldl (fun s e => s.settleFifo cluster part (e.1 / 4) (e.1 % 4) 17) s

/-- A launch of a partition has retired: messages at the heads of FIFOs that belong to it are dropped (R199). -/
def State.settleLinks (s : State) (part : Nat) : State := s.clusters.foldl (fun s e => s.settleCluster e.1 part) s

/-- Direction and channel of a link instruction (R201). -/
def linkDir (w : ExtA) : Nat := w.f 16 15
def linkCh (w : ExtA) : Nat := w.f 18 17

/-- A link instruction acts when a lane executes and the direction has a neighbour (R201, R202). -/
def Ctx.withLink (x : Ctx) (w : ExtA) (s : State) (k : Nat → Res) : Res :=
  if x.ex = 0 then .done s
  else
    match s.partNeighbour x.team.part x.cluster (linkDir w) with
    | none => .cause 0x080 0
    | some n => k n

/-- Cycles of a message's way (R198). -/
def flightTime (a b : Nat) : Nat := if dieOf a = dieOf b then 24 else 96

/-- The module over which a neighbour message crosses an edge has fallen back to 32 lanes (R198, R322). -/
def State.slowEdge (s : State) (a b : Nat) : Bool :=
  let (edge, next) := nextHop (dieOf a) (dieOf b)
  let u := s.ucieAt { edge, module := s.moduleFor edge (a, b), down := decide (next < dieOf a) }
  decide (0 < u.lanes) && decide (u.lanes < 64)

/-- The cycles between two messages that a side accepts (R198). -/
def State.linkGap (s : State) (a b : Nat) : Nat := if dieOf a = dieOf b then 1 else if s.slowEdge a b then 4 else 2

/-- Messages on their way to a cluster. -/
def State.flying (s : State) : List FlyMsg :=
  s.fly ++ s.crossings.filterMap fun x => match x.msg with | .fly f => some f | _ => none

/-- The cycle in which a message of a cluster that is sent now reaches its FIFO: behind those of its side (R198). -/
def State.arrivalOf (s : State) (a b side : Nat) : Nat :=
  ((s.flying.filter fun f => f.cluster == b && f.side == side).map fun f => f.at_ + s.linkGap a b).foldl max
    (s.clk + flightTime a b)

/-- NSEND (R201): PD [14:12], DIR [16:15], CH [18:17]. -/
def execNsend (w : ExtA) (s : State) :=
  runGroup (.nsend w) { ends := true, pdst := [w.f 14 12] } (fun x s =>
    x.withLink w s fun n =>
      let k := 4 * linkDir w + linkCh w
      if 16 ≤ (s.links x.cluster x.team.part).spent.getD k 0 then .done (x.nowP (w.f 14 12) 0 s)
      else
        let s := s.modLinks x.cluster x.team.part fun l => { l with spent := l.spent.update k 0 (· + 1) }
        let msg : LinkMsg :=
          { words := LVec.merge LVec.zero (x.src .int w.b) x.ex, lanes := x.ex, lid := x.team.lid
            tlin := x.team.tlin }
        let f : FlyMsg :=
          { cluster := n, side := opposite (linkDir w), channel := linkCh w, at_ := s.arrivalOf x.cluster n (opposite (linkDir w))
            part := x.team.part, msg }
        .done (x.nowP (w.f 14 12) x.ex (s.launch { from_ := dieOf x.cluster, to_ := dieOf n, pair := (x.cluster, n), msg := .fly f }))) s

/-- NRECV (R201, R203). -/
def execNrecv (w : ExtA) (s : State) :=
  runGroup (.nrecv w) { ends := true } (fun x s =>
    x.withLink w s fun _ =>
      let k := 4 * linkDir w + linkCh w
      let s := s.settleFifo x.cluster x.team.part (linkDir w) (linkCh w) 17
      let l := s.links x.cluster x.team.part
      match (l.fifo.getD k []).head? with
      | some m =>
        if m.lid = x.team.lid then
          .done ((x.now (fun i => LVec.at m.words i) (s.popFifo x.cluster x.team.part (linkDir w) (linkCh w))).settleFifo
            x.cluster x.team.part (linkDir w) (linkCh w) 17)
        else wait x k s
      | none => wait x k s) s
where
  /-- The split joins the waiters of the FIFO. -/
  wait (x : Ctx) (k : Nat) (s : State) : Res :=
    let s := s.modLinks x.cluster x.team.part fun l =>
      { l with waiters := l.waiters.update k [] (· ++ [{ g := x.ref, slot := x.slot }]) }
    .wait s { on := .nrecv (k / 4) (k % 4), ipc := x.pc, dst := w.dst, wide := false, pd := none, lanes := x.ex }

/-- NPOLL (R201). -/
def execNpoll (w : ExtA) (s : State) :=
  runGroup (.npoll w) { ends := true, pdst := [w.f 14 12] } (fun x s =>
    x.withLink w s fun _ =>
      let s := s.settleFifo x.cluster x.team.part (linkDir w) (linkCh w) 17
      let q := (s.links x.cluster x.team.part).fifo.getD (4 * linkDir w + linkCh w) []
      let own := match q.head? with | some m => m.lid == x.team.lid | none => false
      let low := match q.head? with | some m => m.tlin % 2 ^ 24 | none => 0
      .done (x.nowP (w.f 14 12) (if own then x.ex else 0)
        (x.now (fun _ => BitVec.ofNat 32 (q.length * 2 ^ 24 + low)) s))) s

end Sys2Proof.Machine
end

