-- ==== Sys2Proof/Machine/Bringup.lean ====
section
/-!
DEFINITION. Package reset, readiness, the training of ports, and soft errors (spec/21_package_links_control.md R320, R324;
spec/22_fabric.md R332, R333, R355; spec/13_die_memory_system.md R211, R212, R218; spec/08_core.md R154;
spec/12_cluster.md R205; spec/15_die_instructions.md R248; spec/19_queues_nodes_arenas.md R317).
An event that is not enabled leaves the state unchanged.
-/

namespace Sys2Proof.Machine

/-! ### Reset -/

/-- PACKAGE_RESET (R308, R324): every register takes its reset value, FATAL clears, and every arena index counts as freed in
ascending order. Memory, fuses, flash, PTP time, and what has already left the package stay (log 43). -/
def execPackageReset (s : State) : Host.Outcome State Fault Refusal :=
  .next { State.reset with
    mem := s.mem, poison := s.poison, fuse := s.fuse, flashA := s.flashA, flashB := s.flashB, ptp := s.ptp
    clearSince := s.ptp, nextId := s.nextId, fabOut := s.fabOut, vectors := s.vectors }

/-! ### Readiness -/

/-- Entries 0 to D − 1 of SECMAP name distinct slices of the 22 (R211). -/
def mapOk (d : Die) (sec : Nat) : Bool :=
  let n := sectorDiv d sec
  decide (18 ≤ n) && decide (n ≤ 22)
  && (List.range n).all fun i => decide (sectorSlice d sec i < 22) && (List.range i).all fun j => sectorSlice d sec j != sectorSlice d sec i

/-- UNIT_READY (R324): the unit's bit in RDY, VRDY or FRDY is set; a die with a bad map does not report ready (R211), nor does one that
has refused both firmware slots, so that no firmware brings it up (R211, R326). -/
def execUnitReady (u : ReadyUnit) (s : State) : Host.Outcome State Fault Refusal :=
  match u with
  | .die d =>
    if d < 4 ∧ s.refused.contains d = false ∧ [0, 1, 2].all (mapOk (s.die d)) = true then .next { s with rdy := s.rdy ||| (1#64 <<< d) } else .next s
  | .vault v => if v < 84 then .next { s with vrdy := s.vrdy ||| (1#128 <<< v) } else .next s
  | .far c => if c < 48 then .next { s with frdy := s.frdy ||| (1#64 <<< c) } else .next s
  | .queueEngine => .next { s with rdy := s.rdy ||| 0x10#64 }
  | .fabric => .next { s with rdy := s.rdy ||| 0x20#64 }

/-! ### Training -/

/-- Every module of an edge has trained (R324). -/
def State.edgeTrained (s : State) (edge : Nat) : Bool :=
  (List.range 16).all fun i => let u := s.ucieAt { edge, module := i, down := false }; decide (0 < u.lanes) && !u.dead

/-- A module has trained with a number of lanes, in both directions; with the last module of its edge EDGE is set (R320, R324). -/
def State.trainModule (s : State) (m : UcieRef) (lanes : Nat) : State :=
  let train (u : Ucie) : Ucie := if u.dead then u else { u with lanes, progressAt := s.ptp }
  let s := (s.modUcie m train).modUcie (otherWay m) train
  let s := (s.ucieDrain m 64).ucieDrain (otherWay m) 64
  if s.edgeTrained m.edge then s.setEdge m.edge true else s

/-- A port has trained: RTC is measured, and it joins its plane, or withdraws when it is degraded (R332, R333).
DESIGN CHOICE, log 76: a port that was not up counts its flits from 0 again. -/
def State.trainPort (s : State) (p lanes rtc : Nat) : State :=
  let up := s.portUp p
  let s := s.modPort p fun k =>
    { k with lanes, rtc, progressAt := s.ptp, exp := if up then k.exp else 0, seq := if up then k.seq else 0 }
  if (s.port p).degraded then s.withdraw p else ({ s with fabev := s.fabev ||| (1#64 <<< p) } : State).fabDrain p (s.port p).waiting.length

/-- PORT_TRAINING (R320, R324, R332): a UCIe module trains with 32 or 64 lanes, a Yunambi port with at most 8. -/
def execPortTraining (p : TrainPort) (lanes rtc : Nat) (s : State) : Host.Outcome State Fault Refusal :=
  match p with
  | .ucie m => if m.edge < 4 ∧ m.module < 16 ∧ (lanes = 32 ∨ lanes = 64) then .next (s.trainModule m lanes) else .next s
  | .yunambi p => if p < 16 ∧ lanes ≤ 8 then .next (s.trainPort p lanes rtc) else .next s

/-! ### Soft errors -/

/-- A cause is delivered K to each of a list of nodes. -/
def State.killNodes (s : State) (ns : List Nat) (code : Nat) : State := ns.eraseDups.foldl (fun s n => s.killNode n code) s

/-- The nodes of groups. -/
def State.nodesOf (s : State) (gs : List GRef) : List Nat := gs.filterMap fun g => (s.team? g.team).map Team.node

/-- The node for which a monitor waits; a fault queue and a queue's head are of no node. -/
def State.waiterNode (s : State) (w : MonWho) : List Nat :=
  match w with
  | .group g _ | .team g _ => s.nodesOf [g]
  | .weaver n _ => [n]
  | .queue _ _ | .fault _ _ => []

/-- The nodes with a request or an entry in a slice (R248). -/
def State.nodesAtSlice (s : State) (i : Nat) : List Nat :=
  let sl := s.slice i
  let reqs := s.reqsTo i ++ sl.waiting ++ sl.refused.map (·.1)
  s.nodesOf (reqs.map Req.g ++ sl.resv.map (·.1))
  ++ ((sl.mons.map (·.2)) ++ sl.overflow).flatMap fun m => s.waiterNode m.who

/-- A message to a cluster is on the link between it and its neighbour on a side, in either direction (R198, R205). -/
def onLink (cluster side : Nat) (to_ at_ : Nat) : Bool :=
  (to_ == cluster && at_ == side) || (neighbour cluster side == some to_ && at_ == opposite side)

/-- The launches with a message on a link, on its way or in a FIFO at either end, on any channel (R205). -/
def State.lidsOnLink (s : State) (cluster side : Nat) : List Word :=
  let fly := (s.flying.filter fun f => onLink cluster side f.cluster f.side).map fun f => f.msg.lid
  let fifo := s.clusters.flatMap fun c =>
    c.2.links.fifo.flatMap fun q => if onLink cluster side c.1 (q.1 / 4) then q.2.map LinkMsg.lid else []
  fly ++ fifo

/-- The nodes with a message on a link (R205). -/
def State.nodesOnLink (s : State) (cluster side : Nat) : List Nat :=
  (s.nodes.filter fun n => (s.lidsOnLink cluster side).contains n.2.lid && n.2.st != .retired).map (·.1)

/-- The oldest message on its way to a FIFO is lost, and its sender's credit returns (R205).
DESIGN CHOICE, log 64: the spec does not say what becomes of the credit. -/
def State.loseMessage (s : State) (cluster side channel : Nat) : State :=
  match s.fly.find? fun f => f.cluster == cluster && f.side == side && f.channel == channel with
  | none => s
  | some f => ({ s with fly := s.fly.erase f } : State).returnCredit cluster f.part side channel

/-- The nodes of the slots that a collective's message concerns. -/
def State.msgNodes (s : State) (m : CollMsg) : List Nat :=
  let is (sl : PostSlot) : Bool :=
    match m with
    | .post c tag _ | .cancel c tag | .tap c tag _ _ | .cancelled c tag _ | .reply c tag _ _ => sl.comm == c && sl.tag == tag
    | .start c t _ | .failed c t _ | .peerFailed c t | .done c t _ | .data c t _ => sl.comm == c && sl.tap == some t
    | .heartbeat | .recovery _ | .report _ => false
  (s.slotsBy fun sl => sl.st != .free && is sl).map fun x => (s.slot x.1 x.2).node

/-- The nodes of a packet of a stream. -/
def State.packetNodes (s : State) (p : RemPkt) (op : Nat) : List Nat :=
  match p.op with
  | .message m => s.msgNodes m
  | _ => (s.nodeOf op).toList

/-- The nodes with traffic on a port: packets that it carries and that have not been acknowledged (R355). -/
def State.nodesAtPort (s : State) (p : Nat) : List Nat :=
  s.outStreams.flatMap fun o => (o.2.unacked.filter fun u => u.plane == p).flatMap fun u => s.packetNodes u.pkt u.op

/-- The nodes with traffic in the end-to-end state of a peer, or a slot of a collective with it (R355). -/
def State.nodesToPeer (s : State) (peer : Nat) : List Nat :=
  let of (st : StreamId) : List Nat :=
    let o := s.outStream st
    (o.unacked.flatMap fun u => s.packetNodes u.pkt u.op) ++ o.waiting.flatMap fun w => s.packetNodes w.pkt w.op
  ([Chan.req, .atom, .coll].flatMap fun ch => of { peer, ch })
  ++ (s.slotsBy fun sl => sl.st != .free && (s.members sl.comm).contains peer).map fun x => (s.slot x.1 x.2).node

/-- An error that cannot be corrected: the line is poisoned, or the unit's cause is raised. -/
def State.uncorrectable (s : State) (u : ErrUnit) : State :=
  match u with
  | .coreSram t => match s.team? t with | some tm => s.killNode tm.node 0x05F | none => s
  | .sliceLine i line =>
    s.modSlice i fun sl =>
      { sl with sets := sl.sets.map fun e => (e.1, e.2.map fun l => if l.line = line then { l with poison := true } else l) }
  | .memLine line => if (homeSector line).isSome then s.poisonLine line else s
  | .sliceUnit i => s.killNodes (s.nodesAtSlice i) 0x0C4
  | .link c side ch => (s.killNodes (s.nodesOnLink c side) 0x083).loseMessage c side ch
  | .queueEngine p => s.killNodes ((s.nodes.filter fun n => n.2.part == p).map (·.1)) 0x124
  | .fabric p =>
    let s := s.killNodes (s.nodesAtPort p) 0x14F
    if p < 16 then s.modPort p fun k => { k with badBanks := min 8 (k.badBanks + 1) } else s
  | .endToEnd peer => s.killNodes (s.nodesToPeer peer) 0x14F
  | .postSlot part i => if (s.slot part i).st = .free then s else s.killNode (s.slot part i).node 0x14F

/-- SOFT_ERROR (R154, R205, R212, R218, R248, R317, R355): a correctable error is corrected and counted. -/
def execSoftError (u : ErrUnit) (uncorrectable : Bool) (s : State) : Host.Outcome State Fault Refusal :=
  if uncorrectable then .next (s.uncorrectable u) else .next { s with corrected := s.corrected + 1 }

end Sys2Proof.Machine
end

