-- ==== Sys2Proof/Machine/CompareMove.lean ====
section
/-!
DEFINITION. Compares, predicate instructions and moves, opcodes 0x80 to 0x8A
(spec/05_arithmetic_conversion.md R100–R103, R109, R110).
-/

namespace Sys2Proof.Machine

/-! ### Compares -/

/-- The predicates that a combining compare reads. -/
def cmpPreds (w : ExtA) : List Nat := if w.f 17 16 = 0 then [] else [w.f 14 12]

/-- ICMP (R100): COND in MOD, U in MOD2 [0]. -/
def execIcmp (w : ExtA) (s : State) :=
  runGroup (.icmp w) { lat := some 4, preds := cmpPreds w, pdst := [w.f 11 9] } (fun x s =>
    let a := x.src .int w.a
    let b := x.src .int w.b
    .done (x.putP 4 (w.f 11 9)
      (cmpResult x w fun l => icmpCond w.mod (w.mod2 % 2 == 1) (LVec.at a l) (LVec.at b l)) s)) s

/-- FCMP (R100): COND in MOD. -/
def execFcmp (w : ExtA) (s : State) :=
  runGroup (.fcmp w) { lat := some 4, preds := cmpPreds w, pdst := [w.f 11 9] } (fun x s =>
    let a := x.src .f32 w.a
    let b := x.src .f32 w.b
    .done (x.putP 4 (w.f 11 9)
      (cmpResult x w fun l => fcmpCond w.mod (fp32.val (LVec.at a l).toNat) (fp32.val (LVec.at b l).toNat)) s)) s

/-- The bits of PLOGIC (R101): TT [28:21], PC [20:18], PB [17:15], PA [14:12]. -/
def plogicBits (x : Ctx) (w : ExtA) : Mask :=
  maskOf fun l =>
    let q (n : Nat) := if predAt x.g n false l then 1 else 0
    (w.f 28 21).testBit (4 * q (w.f 14 12) + 2 * q (w.f 17 15) + q (w.f 20 18))

/-- PLOGIC (R101). -/
def execPlogic (w : ExtA) (s : State) :=
  runGroup (.plogic w)
    { lat := some 4, preds := [w.f 14 12, w.f 17 15, w.f 20 18], pdst := [w.f 11 9] }
    (fun x s => .done (x.putP 4 (w.f 11 9) (plogicBits x w) s)) s

/-- PMOV.get (R102). -/
def execPmovGet (w : ExtA) (s : State) :=
  runGroup (.pmovGet w) { lat := some 4, preds := List.range 7 }
    (fun x s => .done (x.put .a 4 (LVec.tab fun l => predBits x.g l) s)) s

/-- PMOV.put (R102): the predicates of SPEC [15:9] take the bits of A, a 32-bit integer source. DEDUCED, log 52: A is a register whose
bits are read, not R57's "predicate or mask" kind, so a small immediate is accepted. -/
def execPmovPut (w : ExtA) (s : State) :=
  runGroup (.pmovPut w) { lat := some 4, pdst := (List.range 7).filter (w.f 15 9).testBit } (fun x s =>
    let a := x.src .int w.a
    .done ((List.range 7).foldl (fun s i =>
      if (w.f 15 9).testBit i then x.putP 4 i (maskOf fun l => (LVec.at a l).getLsbD i) s else s) s)) s

/-! ### Moves -/

/-- MOV (R109). -/
def execMov (w : Base) := aluA (.mov w) fun x => x.src .int w.a

/-- MOV in the extended form: 32 bits, or a pair with MOD 1. -/
def execMovExt (w : ExtA) (s : State) :=
  runGroup (.movExt w) { lat := some 4 } (fun x s =>
    .done (if w.mod = 1 then x.put64 .a 4 (fun l => x.src64 w.a l) s else x.put .a 4 (x.src .int w.a) s)) s

/-- MOVL (R109). -/
def execMovl (w : ExtA) (s : State) :=
  runGroup (.movl w) { lat := some 4 } (fun x s =>
    .done (if w.mod = 1 then x.put64 .a 4 (fun _ => w.lit) s else x.put .a 4 (LVec.splat (w.lit.setWidth 32)) s)) s

/-! ### MOVS -/

def Role.code (r : Role) : Nat :=
  match r with
  | .copy => 0
  | .matrix => 1
  | .vector => 2

/-- The handle of an arena (R310). -/
def arenaHandle (idx gen : Nat) : DWord := BitVec.ofNat 64 (0x00A0000000000000 + idx * 2 ^ 44 + gen * 2 ^ 36)

/-- %arena: byte 0 of the node's arena, 0 when the node has none (R110, R310). -/
def State.arenaOf (s : State) (t : Team) : DWord :=
  match s.node? t.node with
  | some n =>
    match n.arena with
    | some i => arenaHandle i (((s.part t.part).arena.getD i (0, 0)).1.toNat / 2 ^ 48 % 256)
    | none => 0
  | none => 0

/-- %splits (R25). -/
def splitsWord (g : Group) : DWord :=
  let occ := [0, 1, 2, 3].filter fun i => (g.split i).st != .free
  let sp := g.split g.cur
  BitVec.ofNat 64 ((occ.map (2 ^ ·)).sum * 2 ^ 44 + sp.stack.length * 2 ^ 38 + g.cur * 2 ^ 36 + occ.length * 2 ^ 32
    + sp.mask.toNat)

/-- %clk as the group reads it: the count of its core, or what the group has read before where that is larger, as after a restore on
another core; two reads in program order never decrease (R110). How far a core runs ahead of the package's count is a free
value (log 7). -/
def Ctx.clkNow (x : Ctx) (s : State) : Nat := max x.g.clkSeen (s.clk + (Config.clkSkew x.core).val)

/-- A special register in a lane (R110). -/
def special (x : Ctx) (s : State) (n l : Nat) : DWord :=
  let cl := x.cluster
  match n with
  | 0x00 => BitVec.ofNat 64 l
  | 0x01 => BitVec.ofNat 64 x.g.grp
  | 0x02 => BitVec.ofNat 64 x.g.role.code
  | 0x03 => BitVec.ofNat 64 x.team.num
  | 0x04 => BitVec.ofNat 64 (x.core % 8)
  | 0x05 => BitVec.ofNat 64 (cl % 7)
  | 0x06 => BitVec.ofNat 64 (sectorOf cl)
  | 0x07 => BitVec.ofNat 64 (dieOf cl)
  | 0x08 => BitVec.ofNat 64 s.pkg
  | 0x09 => BitVec.ofNat 64 (x.team.tc.getD 0 0)
  | 0x0A => BitVec.ofNat 64 (x.team.tc.getD 1 0)
  | 0x0B => BitVec.ofNat 64 (x.team.tc.getD 2 0)
  | 0x0C => BitVec.ofNat 64 (x.team.tc.getD 3 0)
  | 0x0D => BitVec.ofNat 64 x.team.tlin
  | 0x0E => x.team.lid.setWidth 64
  | 0x0F => s.arenaOf x.team
  | 0x10 => BitVec.ofNat 64 (x.clkNow s)
  | 0x11 => BitVec.ofNat 64 s.ptp
  | 0x12 => splitsWord x.g
  | _ => 0

/-- MOVS (R110): the register number in SPEC [14:9]. -/
def execMovs (w : ExtA) (s : State) :=
  runGroup (.movs w) { lat := some 4 } (fun x s =>
    let n := w.f 14 9
    let v := special x s n
    let s := if n = 0x10 then s.modGroup x.ref fun g => { g with clkSeen := x.clkNow s } else s
    .done (if movsWide n then x.put64 .a 4 v s else x.put .a 4 (LVec.tab fun l => (v l).setWidth 32) s)) s

end Sys2Proof.Machine
end

