-- ==== Sys2Proof/Machine/Heat.lean ====
section
/-!
DEFINITION. The control semaphore's ownership test and the heats (spec/21_package_links_control.md R323;
spec/19_queues_nodes_arenas.md R290, R313–R315). An event that is not enabled leaves the state unchanged.
-/

namespace Sys2Proof.Machine

/-! ### Global control -/

/-- The id with which a port takes CSEM (R323); firmware has none. -/
def semId (p : Port) : Option Nat :=
  match p with
  | .host0 => some 1
  | .host1 => some 2
  | .firmware => none

/-- A write of global control is performed: a host port must own CSEM (R323); firmware needs no semaphore.
DEDUCED, log 41. -/
def State.mayGlobal (s : State) (p : Port) : Bool :=
  match semId p with
  | some i => s.csem == i
  | none => true

/-- A global write of a port is ignored: its CERR is set (R323). -/
def State.setCerr (s : State) (p : Port) : State := if s.cerr.contains p then s else { s with cerr := p :: s.cerr }

/-! ### The heat table -/

/-- START and RUN of entry i. -/
def HeatTable.entry (t : HeatTable) (i : Nat) : DWord × Word := t.ents.getD i (0, 0)

/-- START values ascend and lie below PERIOD (R313). -/
def HeatTable.ascends (t : HeatTable) (n : Nat) : Bool :=
  (List.range n).all fun i =>
    decide ((t.entry i).1.toNat < t.period.toNat) && (i == 0 || decide ((t.entry (i - 1)).1.toNat < (t.entry i).1.toNat))

/-- RUN names partitions whose PCLUS sets are disjoint (R313). -/
def State.runOk (s : State) (run : Word) : Bool :=
  decide (run.toNat < 256)
  && (List.range 8).all fun i => (List.range i).all fun j =>
    !(run.getLsbD i && run.getLsbD j) || (s.part i).pclus &&& (s.part j).pclus == 0

/-- The table keeps the rules of R313. -/
def State.heatOk (s : State) (t : HeatTable) (n : Nat) : Bool :=
  decide (1 ≤ n) && decide (n ≤ 64) && t.ascends n && (List.range n).all fun i => s.runOk (t.entry i).2

/-- HEAT_TABLE_COMMIT (R272, R313, R323): the write of NENT puts the table in force, or the whole table is refused. -/
def execHeatTableCommit (port : Port) (nent : Word) (s : State) : Host.Outcome State Fault Refusal :=
  if !s.mayGlobal port then .next (s.setCerr port)
  else
    let t := { s.staged with nent := nent.toNat }
    let s := { s with staged := t }
    if s.heatOk t nent.toNat then .next { s with heats := some t } else .next s

/-! ### The present heat -/

/-- The last entry whose START is not above a time within the period. -/
def HeatTable.lastAt (t : HeatTable) (x : Nat) : Option Nat :=
  ((List.range t.nent).filter fun i => decide ((t.entry i).1.toNat ≤ x)).getLast?

/-- The entry of the heat that runs at a PTP time: before the first START of a period, the last heat of the period before runs
on; before EPOCH no heat has begun (R313). -/
def HeatTable.current (t : HeatTable) (ptp : Nat) : Option Nat :=
  if ptp < t.epoch.toNat ∨ t.period = 0 then none
  else
    let x := ptp - t.epoch.toNat
    match t.lastAt (x % t.period.toNat) with
    | some i => some i
    | none => if t.period.toNat ≤ x ∧ t.nent ≠ 0 then some (t.nent - 1) else none

/-- RUN of the present heat; no table in force, or none begun, runs no partition. -/
def State.run (s : State) : Word :=
  match s.heats with
  | some t => match t.current s.ptp with | some i => (t.entry i).2 | none => 0
  | none => 0

/-- The partition that the present heat makes resident on a cluster (R290, R313). -/
def State.due (s : State) (cluster : Nat) : Option Nat :=
  (List.range 8).find? fun p => s.run.getLsbD p && (s.part p).pclus.getLsbD cluster

/-! ### The switch of a cluster -/

/-- Teams of a cluster that are on its cores. -/
def State.onCluster (s : State) (cluster : Nat) : List Team :=
  (s.teams.filter fun t => match t.2.place with
    | .resident c | .restoring c => clusterOf c == cluster
    | _ => false).map (·.2)

/-- Steps 1 and 2 of R315: admission has stopped, and every resident team is to be saved. -/
def State.preempt (s : State) (cluster : Nat) : State :=
  ((s.onCluster cluster).filter fun t => t.core?.isSome && t.saving.isNone).foldl
    (fun s t => s.modTeam t.id fun t => { t with saving := some .heat }) s

/-- Steps 3 and 4 of R315: links, barriers and dispatcher queue change with the partition; the saved teams of the incoming
partition wait in its queue, and the dispatcher restores them. -/
def State.swapCluster (s : State) (cluster : Nat) (q? : Option Nat) : State :=
  s.modCluster cluster fun c =>
    let out := match c.part with | some p => c.out.set p c.links | none => c.out
    match q? with
    | some q =>
      { c with part := q?, switching := none, links := { out.getD q {} with headSince := s.clk, alone := false }
               out := out.erase q }
    | none => { c with part := none, switching := none, links := {}, out }

/-- The links of the incoming partition are settled: messages of launches that have retired meanwhile leave the heads of its FIFOs
(R199). -/
def State.swapped (s : State) (cluster : Nat) (q? : Option Nat) : State :=
  let s := s.swapCluster cluster q?
  match q? with
  | some q => s.settleCluster cluster q
  | none => s

/-- A partition is resident while the present heat runs it and each of its clusters has switched to it (R290, R315). -/
def State.nowResident (s : State) (p : Nat) : Bool :=
  s.run.getLsbD p
  && (List.range 84).all fun c => !(s.part p).pclus.getLsbD c || ((s.cluster c).part == some p && (s.cluster c).switching.isNone)

/-- Residence of the partitions follows the heat. -/
def State.setResidence (s : State) : State :=
  (List.range 8).foldl (fun s p =>
    let r := s.nowResident p
    if (s.part p).resident = r then s else s.modPart p fun k => { k with resident := r }) s

/-- HEAT_START (R315): a cluster whose partition changes goes through its switch, and then takes the heat that runs. -/
def execHeatStart (cluster : Nat) (s : State) : Host.Outcome State Fault Refusal :=
  if 84 ≤ cluster then .next s
  else
    match (s.cluster cluster).switching with
    | none =>
      if s.due cluster = (s.cluster cluster).part then .next s.setResidence
      else
        let s := s.modCluster cluster fun c => { c with switching := some (s.due cluster) }
        .next ((s.preempt cluster).setResidence)
    | some q =>
      if (s.onCluster cluster).isEmpty then .next ((s.swapped cluster q).setResidence)
      else .next (s.preempt cluster)

end Sys2Proof.Machine
end

