-- ==== Sys2Proof/Machine/QueuePost.lean ====
section
/-!
DEFINITION. Queue descriptors and QPOST, opcode 0xF0 (spec/19_queues_nodes_arenas.md R292, R293, R301).
-/

namespace Sys2Proof.Machine

/-- Fields of a queue's CTL (R292). -/
def Queue.lsz (q : Queue) : Nat := q.ctl.toNat % 16
def Queue.prio (q : Queue) : Nat := q.ctl.toNat / 16 % 8
def Queue.vec (q : Queue) : Nat := q.ctl.toNat / 256 % 256
def Queue.aborting (q : Queue) : Bool := q.ctl.getLsbD 17

/-- EN is set and LSZ is 4 to 16 (R292). -/
def Queue.enabled (q : Queue) : Bool := q.ctl.getLsbD 7 && decide (4 ≤ q.lsz)

/-- Packets from RIDX up to WIDX (R292). -/
def Queue.count (q : Queue) : Nat := (q.widx - q.ridx).toNat

/-- The virtual address of packet i (R292). -/
def Queue.slotVa (q : Queue) (i : Word) : BitVec 56 := BitVec.ofNat 56 (q.base.toNat + 64 * (i.toNat % 2 ^ q.lsz))

def State.queue (s : State) (p q : Nat) : Queue := (s.part p).queues.getD q {}

def State.modQueue (s : State) (p q : Nat) (f : Queue → Queue) : State :=
  s.modPart p fun pt => { pt with queues := pt.queues.update q {} f }

/-- The packet's bytes with STS zero (R296, R301). -/
def packetBytes (bs : List Byte) : List Byte := bs.set 3 0

/-- Another group's packet is on its way to a ring in another package, at the same place: the QPOST waits until it has arrived. -/
def State.postAhead (s : State) (g : GRef) (p : Spot) : Bool :=
  s.far.any fun x => p.peer == some x.peer && x.line == p.pa / 128 && (match x.who with | .post h => h != g | _ => false)

/-- A packet of a group's node has been written: WIDX advances, and the node of a COPY is kept (R301, R311). -/
def Queue.posts (q : Queue) (node : Nat) (b : List Byte) : Queue :=
  { q with widx := q.widx + 1, posted := if b.head? = some 5 then q.posted.set q.widx.toNat node else q.posted }

/-- QPOST (R301): A packet offset, B queue, PD [14:12]. -/
def execQpost (w : ExtA) (s : State) :=
  runGroup (.qpost w) { ends := true, pdst := [w.f 14 12] } (fun x s =>
    let off := (x.low w.a).toNat
    let n := (x.low w.b).toNat
    let q := s.queue x.team.part n
    if x.ex = 0 then .done s
    else if off % 64 ≠ 0 then .cause 0x008 (BitVec.ofNat 64 off)
    else if x.team.scr < off + 64 then .cause 0x040 0
    else if 63 < n ∨ q.enabled = false then .cause 0x125 0
    else if q.count = 2 ^ q.lsz then .done (x.nowP (w.f 14 12) 0 s)
    else
      let va := q.slotVa q.widx
      match s.reach x.from va true with
      | (s, .pause c) | (s, .kill c) => accessRes s c kindWrite va 0
      | (s, .zero) | (s, .busy) => .retry s
      | (s, .spot p) =>
        if s.postAhead x.ref p then .retry s
        else
          let bs := packetBytes ((s.core x.core).scratch.bytes (x.scrAddr off) 64)
          let s := if p.peer.isNone then s.leaveL1 x.core x.ref (p.pa / 128) else s
          match s.spotWrite (.post x.ref) p bs with
          | (s, .busy) => .retry s
          | (_, .kill c) => .cause c 0
          | (s, .old _) => .done (x.nowP (w.f 14 12) x.ex (s.modQueue x.team.part n fun q => q.posts x.team.node bs))) s

end Sys2Proof.Machine
end

