-- ==== Sys2Proof/Machine/CopyEngine.lean ====
section
/-!
DEFINITION. The copy engine of a core (spec/09_core_instructions.md R163, R167, R168; spec/08_core.md R151).
A command's bytes are numbered in the order of R167: `pos` is the number of the next one.
One event performs a run of bytes of one row that lies in one line on each virtual side; the spec does not fix how many bytes
one write has (DESIGN CHOICE, log 31).
-/

namespace Sys2Proof.Machine

/-- What the engine does with one byte of a command. -/
inductive CopyAct where
  /-- Write the source byte at an offset from SRC, or PAD, at an offset from DST. -/
  | write (src : Option Nat) (dst : Nat)
  /-- A byte that CPS skips. -/
  | skip
  /-- Cause 0x048. -/
  | bad
  deriving DecidableEq, Repr

/-- Bytes of a row in the order of R167. -/
def CopyCmd.row (c : CopyCmd) : Nat := if c.kind = 1 then c.len else c.rowb

/-- Bytes of the whole command. -/
def CopyCmd.total (c : CopyCmd) : Nat :=
  match c.kind with
  | 1 => c.len
  | 2 => c.n * c.rowb
  | _ => c.n * c.boxh * c.rowb

/-- The patch record of 16 bytes. -/
def patchOf (b : List Byte) : Patch :=
  { y0 := signedOf 32 (blockField b 0 4), x0 := signedOf 32 (blockField b 4 4), h := blockField b 8 4, w := blockField b 12 4 }

/-- The box of a byte of CPG or CPS. -/
def CopyCmd.box (c : CopyCmd) (pos : Nat) : Nat := pos / (c.boxh * c.rowb)

/-- What happens to a byte, its patch record being given (R167). -/
def CopyCmd.act (c : CopyCmd) (p : Patch) (pos : Nat) : CopyAct :=
  let x := pos % c.rowb
  let y := pos / c.rowb
  match c.kind with
  | 1 => .write (some pos) pos
  | 2 => .write (some (y * c.sstr + x)) (y * c.dstr + x)
  | k =>
    let box := c.box pos
    let y := y % c.boxh
    let r := p.y0 + (y : Int)
    let q := p.x0 + (x : Int)
    let within := y < p.h && x < p.w
    let inside := decide (0 ≤ r) && decide (r < c.srows) && decide (0 ≤ q) && decide (q < c.srowb)
    if c.boxh < p.h ∨ c.rowb < p.w then .bad
    else if within && !inside && !c.clip then .bad
    else if k = 3 then
      let d := box * c.bstr + y * c.dstr + x
      if within && inside then .write (some (r.toNat * c.sstr + q.toNat)) d else .write none d
    else if within && inside then .write (some (box * c.bstr + y * c.sstr + x)) (r.toNat * c.dstr + q.toNat)
    else .skip

/-- The actions of the bytes from `pos` that go together: one row, one kind of action, at most `n`. -/
def CopyCmd.run (c : CopyCmd) (p : Patch) (pos : Nat) : Nat → Nat
  | 0 => 0
  | n + 1 =>
    let together (a b : CopyAct) : Bool :=
      match a, b with
      | .write (some _) _, .write (some _) _ => true
      | .write none _, .write none _ => true
      | .skip, .skip => true
      | _, _ => false
    let k := c.run p pos n
    if k = n && decide (pos % c.row + n < c.row) && together (c.act p pos) (c.act p (pos + n)) then n + 1 else k

/-! ### Hoop slots -/

/-- The slots of a team's configured hoops: hoop, slot, first offset. -/
def Team.slots (t : Team) : List (Nat × Nat × Nat) :=
  t.hoops.flatMap fun h => (List.range h.2.nslot).map fun i => (h.1, i, h.2.off + i * h.2.ssz)

/-- The slot in which a byte of scratch lies. -/
def Team.slotAt (t : Team) (off : Nat) : Option (Nat × Nat × Nat) :=
  t.slots.find? fun x =>
    match t.hoops.get? x.1 with
    | some h => decide (x.2.2 ≤ off) && decide (off < x.2.2 + h.ssz)
    | none => false

/-- A write that begins outside every slot ends where a slot begins. -/
def Team.clear (t : Team) (off n : Nat) : Nat :=
  if (t.slotAt off).isSome then n else t.slots.foldl (fun n x => if off < x.2.2 ∧ x.2.2 < off + n then x.2.2 - off else n) n

/-- The cause of an engine write of `n` bytes at a scratch offset, or 0 (R151). -/
def Team.slotCause (t : Team) (off n : Nat) : Nat :=
  match t.slotAt off with
  | none => 0
  | some (h, i, lo) =>
    match t.hoops.get? h with
    | none => 0
    | some hp =>
      if lo + hp.ssz < off + n then 0x046
      else if hp.tagOf i ≠ .filling then 0x045
      else if hp.ssz < hp.fill.getD i 0 + n then 0x046
      else 0

/-- The fill counter rises; a slot whose counter reaches the slot size becomes FULL, and waiters take FULL slots (R151, R162). -/
def State.slotFill (s : State) (t : Team) (off n : Nat) : State :=
  match t.slotAt off with
  | none => s
  | some (h, i, _) =>
    let s := s.modHoop t.id h fun hp => { hp with fill := hp.fill.update i 0 (· + n) }
    match (s.team? t.id).bind fun tm => tm.hoops.get? h with
    | some hp =>
      if hp.fill.getD i 0 = hp.ssz then
        (s.tagHoop t.id h fun hp => { hp with tag := hp.tag.set i .full }).hoopWake t.id h 17
      else s
    | none => s

/-! ### Commands -/

def State.copyEnt (s : State) (core cmd : Nat) : Option CopyEnt := (s.core core).cq.find? fun e => e.id == cmd

def State.modCopy (s : State) (core cmd : Nat) (f : CopyEnt → CopyEnt) : State :=
  s.modCore core fun c => { c with cq := c.cq.map fun e => if e.id = cmd then f e else e }

def State.dropCopy (s : State) (core cmd : Nat) : State :=
  s.modCore core fun c => { c with cq := c.cq.filter fun e => e.id != cmd }

/-- COPY_COMMAND_START (R163): the oldest command starts, with at most four in progress; one that a restore has re-entered among
them (R152). -/
def execCopyCommandStart (core : Nat) (s : State) : Host.Outcome State Fault Refusal :=
  let cq := (s.core core).cq
  if 4 ≤ (cq.filter CopyEnt.started).length then .next s
  else
    match cq.find? fun e => !e.started with
    | none => .next s
    | some e =>
      match s.team? e.team with
      | none => .next s
      | some t => if t.saving.isSome || !s.nodeRuns t then .next s else .next (s.modCopy core e.id fun e => { e with started := true })

/-- The command ends without a further write, and its cause is delivered K (R168). -/
def State.copyFail (s : State) (core : Nat) (t : Team) (e : CopyEnt) (code : Nat) : State :=
  ((s.dropCopy core e.id).killNode t.node code).returnWays core { team := t.id, grp := 0 }

/-- The command pauses at this byte: a fault entry is posted (R168, R305). -/
def State.copyPause (s : State) (core : Nat) (t : Team) (e : CopyEnt) (code kind : Nat) (va : BitVec 56) : State :=
  (s.modCopy core e.id fun e => { e with paused := true }).postFault t.part
    (agentFault code kind t.lid va (locByte (clusterOf core)) t.node (.copy core e.id))

/-- Where one side of a write lies: an offset in scratch or a place in memory. -/
inductive Side where
  | scr (off : Nat)
  | mem (p : Spot)
  | zero
  deriving DecidableEq, Repr

/-- Bytes up to the end of a line. -/
def lineLeft (a n : Nat) : Nat := min n (128 - a % 128)

/-- The bytes of a source that lies in one line; memory is read at the slices, at a replica of the core's own sector first
(R163, R215). -/
def State.sideBytes (s : State) (core cmd : Nat) (t : Team) (src : Option Side) (pad : Byte) (n : Nat) : State × Got × List Byte :=
  match src with
  | none => (s, .line 0, List.replicate n pad)
  | some .zero => (s, .line 0, List.replicate n 0)
  | some (.scr off) => (s, .line 0, (s.core core).scratch.bytes (t.scrBase + off) n)
  | some (.mem p) =>
    match s.engineLine (.copy core cmd) (clusterOf core) (p.pa / 128) p.cls p.arena with
    | (s, .line d) => (s, .line d, (List.range n).map fun i => lineByte d (p.pa % 128 + i))
    | (s, g) => (s, g, [])

/-- Where source and destination overlap ahead, a byte is read after the earlier ones are written (R167): fewer at a time. -/
def overlapLeft (src : Option Side) (dst : Side) (n : Nat) : Nat :=
  match src, dst with
  | some (.scr a), .scr b => if a < b ∧ b < a + n then b - a else n
  | some (.mem a), .mem b => if a.pa < b.pa ∧ b.pa < a.pa + n then b.pa - a.pa else n
  | _, _ => n

/-- The write of `n` bytes of a command, its two sides being known. -/
def State.copyPut (s : State) (core : Nat) (t : Team) (e : CopyEnt) (src : Option Side) (dst : Side) (n : Nat) : State :=
  let n := overlapLeft src dst n
  match s.sideBytes core e.id t src e.cmd.pad n with
  | (s, .kill code, _) => s.copyFail core t e code
  | (s, .busy, _) => s
  | (s, .line _, bs) =>
    let step (s : State) : State := s.modCopy core e.id fun e => { e with pos := e.pos + n }
    match dst with
    | .zero => step s
    | .scr off =>
      let code := t.slotCause off n
      if code ≠ 0 then s.copyFail core t e code
      else
        let s := s.modCore core fun c => { c with scratch := c.scratch.writeBytes (t.scrBase + off) bs }
        (step s).slotFill t off n
    | .mem p =>
      match s.tryWriteN (.copy core e.id) p.pa n (leNat bs) p.cls with
      | (s, true) => step s
      | (s, false) => s

/-- The write of a run of `n` bytes: the source is translated, then the destination (R168). -/
def State.copyRun (s : State) (core : Nat) (t : Team) (e : CopyEnt) (src : Option Nat) (dst n : Nat) : State :=
  let c := e.cmd
  let f : From := { core := none, cluster := clusterOf core, part := t.part, lid := t.lid }
  let toDst (s : State) (sd : Option Side) (n : Nat) : State :=
    if c.dk then s.copyPut core t e sd (.scr dst) (t.clear dst n)
    else
      let va := BitVec.ofNat 56 dst
      match s.reachOwn f va true with
      | (s, .spot p) => s.copyPut core t e sd (.mem p) (lineLeft p.pa n)
      | (s, .zero) => s.copyPut core t e sd .zero n
      | (s, .pause code) => s.copyPause core t e code kindEngineWrite va
      | (s, .kill code) => s.copyFail core t e code
      | (s, .busy) => s
  match src with
  | none => toDst s none n
  | some a =>
    if c.sk then toDst s (some (.scr a)) n
    else
      let va := BitVec.ofNat 56 a
      match s.reachOwn f va false with
      | (s, .spot p) => toDst s (some (.mem p)) (lineLeft p.pa n)
      | (s, .zero) => toDst s (some .zero) (lineLeft a n)
      | (s, .pause code) => s.copyPause core t e code kindEngineRead va
      | (s, .kill code) => s.copyFail core t e code
      | (s, .busy) => s

/-- The patch record of the box that is being copied: as it was read before the box's first write, or as it lies in scratch now
(R167). -/
def State.boxRecord (s : State) (core : Nat) (t : Team) (e : CopyEnt) : Patch :=
  let k := e.cmd.box e.pos
  match e.rec_ with
  | some (i, p) => if i = k then p else now k
  | none => now k
where
  now (k : Nat) : Patch := patchOf ((s.core core).scratch.bytes (t.scrBase + e.cmd.idx + 16 * k) 16)

/-- COPY_ENGINE_WRITE (R167, R168): at most `count` of the next bytes of a command are performed. -/
def execCopyEngineWrite (core cmd count : Nat) (s : State) : Host.Outcome State Fault Refusal :=
  match s.copyEnt core cmd with
  | none => .next s
  | some e =>
    match s.team? e.team with
    | none => .next s
    | some t =>
      let c := e.cmd
      if !e.started || e.paused || decide (c.total ≤ e.pos) || !s.nodeRuns t then .next s
      else
        let p := s.boxRecord core t e
        let s := s.modCopy core cmd fun e => { e with rec_ := some (c.box e.pos, p) }
        let n := c.run p e.pos (min count 128)
        match c.act p e.pos with
        | .bad => .next (s.copyFail core t e 0x048)
        | .skip => .next (s.modCopy core cmd fun e => { e with pos := e.pos + n })
        | .write src dst => if n = 0 then .next s else .next (s.copyRun core t e (src.map (c.src + ·)) (c.dst + dst) n)

/-- COPY_RESUME (R168): a paused command goes on at its byte once its entry holds RESUME. -/
def execCopyResume (core cmd : Nat) (s : State) : Host.Outcome State Fault Refusal :=
  match s.copyEnt core cmd with
  | none => .next s
  | some e =>
    match s.team? e.team with
    | none => .next s
    | some t =>
      let open_ := (s.part t.part).posts.any (fun x => isIt x) || (s.part t.part).watch.any fun x => isIt x.2
      if e.paused && !open_ && !t.saving.isSome then .next (s.modCopy core cmd fun e => { e with paused := false }) else .next s
where
  /-- A fault entry names the command, whatever core it was on. -/
  isIt (x : FaultEnt) : Bool :=
    match x.agent with
    | .copy _ k => k == cmd
    | _ => false

/-- COPY_COMMAND_COMPLETE (R163): the command's writes have performed, at their homes where virtual; its entry is free. A change of
ways that it held back takes place (R146). -/
def execCopyCommandComplete (core cmd : Nat) (s : State) : Host.Outcome State Fault Refusal :=
  match s.copyEnt core cmd with
  | none => .next s
  | some e =>
    if e.started && !e.paused && decide (e.cmd.total ≤ e.pos) then
      .next ((s.dropCopy core cmd).returnWays core { team := e.team, grp := 0 })
    else .next s

end Sys2Proof.Machine
end

