-- ==== Sys2Proof/Machine/QueueEngine.lean ====
section
/-!
DEFINITION. The queue engine: doorbells, the start of heads, barriers, signals, copies and completions
(spec/19_queues_nodes_arenas.md R292–R300, R367).
An event that is not enabled leaves the state unchanged.
-/

namespace Sys2Proof.Machine

/-- Where the queue engine's accesses come from: no core and no node (R367). -/
def queueFrom (part : Nat) : From := { core := none, cluster := 0, part, lid := 0 }

/-- The abort value (R299). -/
def abortValue : DWord := 0x8000000000000000

/-! ### Packets -/

/-- Fields of a packet's bytes (R296, R297). -/
def pktType (b : List Byte) : Nat := blockField b 0 1
def pktBar (b : List Byte) : Bool := (blockField b 0 4).testBit 8
def pktIrq (b : List Byte) : Bool := (blockField b 0 4).testBit 9
def pktDom (b : List Byte) : Byte := BitVec.ofNat 8 (blockField b 2 1)
def pktCdec (b : List Byte) : Word := BitVec.ofNat 32 (blockField b 4 4)
def pktCsig (b : List Byte) : Nat := blockField b 8 8
/-- The 64-bit word i of bytes 0x10 to 0x3F. -/
def pktWord (b : List Byte) (i : Nat) : Nat := blockField b (16 + 8 * i) 8

/-- Every word from i on is zero. -/
def pktZeroFrom (b : List Byte) (i : Nat) : Bool := ((List.range 6).drop i).all fun k => pktWord b k == 0

/-- A packet that breaks R296 or R297. -/
def pktMalformed (b : List Byte) : Bool :=
  let h := blockField b 0 4
  let t := pktType b
  h / 2 ^ 24 != 0 || h / 2 ^ 10 % 2 ^ 6 != 0 || (t != 2 && pktDom b != 0) || pktCsig b % 8 != 0
  || (match t with
    | 1 => !pktZeroFrom b 0
    | 2 => pktWord b 1 % 16 != 0 || !pktZeroFrom b 2
    | 3 => (List.range 6).any fun i => pktWord b i % 8 != 0
    | 4 => pktWord b 0 % 8 != 0 || decide (1 < pktWord b 2) || !pktZeroFrom b 3
    | 5 => decide (2 ^ 40 < pktWord b 2) || !pktZeroFrom b 3
    | _ => true)

/-- The packet at a queue's RIDX as read. -/
inductive Head where
  /-- No packet, or one whose read is paused. -/
  | none
  /-- Its read has not performed yet. -/
  | busy
  | packet (b : List Byte)
  /-- Its read has ended with a cause: a malformed packet (R367). -/
  | unreadable
  | pause (code : Nat) (va : BitVec 56)
  deriving DecidableEq, Repr

/-- The queue engine as the agent that acts for a queue's head. -/
def headAgent (p q : Nat) : Agent := .head (64 * p + q)

/-- The packet at RIDX, read once (R292, R367). -/
def State.readHead (s : State) (p q : Nat) : State × Head :=
  let k := s.queue p q
  if k.count = 0 ∨ k.paused = true then (s, .none)
  else
    match k.got with
    | some b => (s, .packet b)
    | none =>
      match s.agentRead (headAgent p q) (queueFrom p) (k.slotVa k.ridx).toNat 64 with
      | (s, .bytes b) => (s.modQueue p q fun k => { k with got := some b }, .packet b)
      | (s, .pause c va) => (s, .pause c va)
      | (s, .kill _) => (s, .unreadable)
      | (s, .busy) => (s, .busy)

/-- An access of a queue's head pauses: an entry of kind 7 is posted (R305, R367). -/
def State.pauseHead (s : State) (p q code : Nat) (va : BitVec 56) : State :=
  (s.modQueue p q fun k => { k with paused := true }).postFault p (agentFault code 7 0 va 0 0 (.head (64 * p + q)))

/-- RIDX advances, and the next packet is the head. -/
def Queue.advance (k : Queue) : Queue :=
  { k with ridx := k.ridx + 1, since := none, age := 0, got := none, read := [], eval := none, armed := none, paused := false
           posted := k.posted.erase k.ridx.toNat }

def State.advance (s : State) (p q : Nat) : State :=
  (s.modQueue p q Queue.advance).withdrawMons fun w => w == .queue p q

/-- A packet starts, with what it has to do next; its queue advances. -/
def State.startPkt (s : State) (p q : Nat) (b : List Byte) (st : PktSt) : State × Nat :=
  let (id, s) := s.fresh
  let k := s.queue p q
  let pk : Pkt := { id, part := p, queue := q, index := k.ridx, bytes := b, st, poster := k.posted.get? k.ridx.toNat }
  ({ s.advance p q with pkts := s.pkts.set id pk }, id)

/-! ### Doorbells -/

/-- QUEUE_DOORBELL (R293). -/
def execQueueDoorbell (part queue : Nat) (w : Word) (s : State) : Host.Outcome State Fault Refusal :=
  let k := s.queue part queue
  if part < 8 ∧ queue < 64 ∧ serialLt k.widx w = true ∧ (w - k.ridx).toNat ≤ 2 ^ k.lsz then
    .next (s.modQueue part queue fun k => { k with widx := w })
  else .next s

/-- QUEUE_CLR (R295): an ABORTING queue is ACTIVE again. -/
def execQueueClr (part queue : Nat) (s : State) : Host.Outcome State Fault Refusal :=
  if (s.queue part queue).aborting then
    .next (s.modQueue part queue fun k => { k with ctl := k.ctl &&& ~~~0x20000#32 })
  else .next s

/-! ### Heads -/

/-- An earlier packet of the queue with BAR set is incomplete (R294). -/
def State.barred (s : State) (p q : Nat) : Bool :=
  s.pkts.any fun e => e.2.part == p && e.2.queue == q && pktBar e.2.bytes

/-- A started packet of the queue, or the starting node of one, waits for a fault entry: the queue starts no later packet meanwhile
(R367). DESIGN CHOICE, log 62: RIDX has advanced with the start, and stays. -/
def State.keeps (s : State) (p q : Nat) : Bool :=
  s.pkts.any fun e => e.2.part == p && e.2.queue == q
    && (e.2.paused || s.nodes.any fun n => n.2.pkt == e.1 && n.2.paused)

/-- The head's own start condition (R298). -/
def State.mayStart (s : State) (p q : Nat) (h : Head) : Bool :=
  match h with
  | .none | .busy | .pause _ _ => false
  | .unreadable => true
  | .packet b =>
    pktMalformed b
    || (match pktType b with
      | 2 => decide ((s.part p).matcher.length < 256)
      | 3 => (s.queue p q).eval.isSome
      | _ => true)

/-- The effective priority of a queue's head (R294). -/
def Queue.effective (k : Queue) : Nat := min 7 (k.prio + k.age)

/-- The head waits as startable from this cycle on, unless it has waited as such already; or it is not startable. -/
def Queue.startableAt (k : Queue) (clk : Nat) : Queue := { k with since := k.since.or (some clk) }
def Queue.unstartable (k : Queue) : Queue := { k with since := none, age := 0 }

/-- A head that may not start for another reason than those of R294 (EN is clear, the queue is ABORTING, an access of the head or of an
earlier packet waits for a fault entry): as far as it has been read, it counts as startable all the same. -/
def State.ageHead (s : State) (p q : Nat) : State :=
  match (s.queue p q).got with
  | some b => s.modQueue p q fun k => if s.mayStart p q (.packet b) then k.startableAt s.clk else k.unstartable
  | none => s

/-- A queue is looked at: its head, with the cycle since which it has been startable (R294). -/
def State.lookHead (s : State) (p q : Nat) : State × Option Head :=
  let k := s.queue p q
  if k.count = 0 ∨ s.barred p q = true then (s.modQueue p q Queue.unstartable, none)
  else if !k.enabled || k.aborting || k.paused || s.keeps p q then (s.ageHead p q, none)
  else
    match s.readHead p q with
    | (s, .pause c va) => (s.pauseHead p q c va, none)
    | (s, .busy) => (s, none)
    | (s, h) =>
      if s.mayStart p q h then (s.modQueue p q fun k => k.startableAt s.clk, some h)
      else (s.modQueue p q Queue.unstartable, none)

/-- The queues of the package, as 64p + q, that hold a packet. -/
def State.busyQueues (s : State) : List Nat :=
  s.parts.flatMap fun e => (e.2.queues.filter fun k => k.2.count != 0).map fun k => 64 * e.1 + k.1

/-- Every queue is looked at, and the startable heads are collected. -/
def State.startable (s : State) : List Nat → State × List (Nat × Head)
  | [] => (s, [])
  | n :: r =>
    let (s, h) := s.lookHead (n / 64) (n % 64)
    let (s, hs) := s.startable r
    match h with
    | some h => (s, (n, h) :: hs)
    | none => (s, hs)

/-- The round-robin distance of a queue after the last one served at its priority (R294). -/
def State.rrKey (s : State) (n : Nat) : Nat :=
  let e := (s.queue (n / 64) (n % 64)).effective
  let d := match s.rr.get? e with | some l => (n + 511 - l) % 512 | none => n
  (7 - e) * 512 + d

/-- The choice among startable heads (R294). -/
def State.bestHead (s : State) (hs : List (Nat × Head)) : Option (Nat × Head) :=
  hs.foldl (fun acc x =>
    match acc with
    | none => some x
    | some b => if s.rrKey x.1 < s.rrKey b.1 then some x else some b) none

/-- The ranges of a range block: reads and writes as (base, length) (R297). -/
def rangesOf (b : List Byte) : List (Nat × Nat) × List (Nat × Nat) :=
  let e (i : Nat) : Nat × Nat := (blockField b (16 * i) 8, blockField b (16 * i + 8) 8)
  let used (is : List Nat) := (is.map e).filter fun x => x.2 != 0
  (used [0, 1, 2, 3], used [4, 5, 6, 7])

/-- A LAUNCH enters the range matcher with its ranges and domain (R302). -/
def State.enterMatcher (s : State) (p q : Nat) (b : List Byte) (rs : List (Nat × Nat) × List (Nat × Nat)) : State :=
  let (s, pkt) := s.startPkt p q b .launch
  let (id, s) := s.fresh
  let n : Node := { id, part := p, pkt, dom := pktDom b, reads := rs.1, writes := rs.2, ldesc := pktWord b 0 }
  { s with nodes := s.nodes.set id n }.modPart p fun pt => { pt with matcher := pt.matcher ++ [id] }

/-- The start of a LAUNCH: its range block is read first (R297, R367). The flag says that the head has started. -/
def State.startLaunch (s : State) (p q : Nat) (b : List Byte) : State × Bool :=
  if pktWord b 1 = 0 then (s.enterMatcher p q b ([], []), true)
  else
    match s.agentRead (headAgent p q) (queueFrom p) (pktWord b 1) 128 with
    | (s, .bytes rb) => (s.enterMatcher p q b (rangesOf rb), true)
    | (s, .pause c va) => (s.pauseHead p q c va, false)
    | (s, .kill _) => ((s.startPkt p q b (.completing 4 0)).1, true)
    | (s, .busy) => (s, false)

/-- The start of a SIGNAL: while its target cannot be written, it stays the head (R367). -/
def State.startSignal (s : State) (p q : Nat) (b : List Byte) : State × Bool :=
  let va := BitVec.ofNat 56 (pktWord b 0)
  match s.reach (queueFrom p) va true with
  | (s, .pause c) => (s.pauseHead p q c va, false)
  | (s, .busy) => (s, false)
  | (s, _) => ((s.startPkt p q b .signal).1, true)

/-- The start of a BARRIER that has been evaluated: it passes, or aborts and its queue with it (R295, R300). -/
def State.startBarrier (s : State) (p q : Nat) (b : List Byte) : State :=
  if (s.queue p q).eval = some true then (s.startPkt p q b (.completing 1 0)).1
  else (s.startPkt p q b (.completing 2 0)).1.modQueue p q fun k => { k with ctl := k.ctl ||| 0x20000#32 }

/-- A head starts (R297, R298), unless an access that its start needs pauses or has not performed. -/
def State.startHead (s : State) (n : Nat) (h : Head) : State × Bool :=
  let p := n / 64
  let q := n % 64
  match h with
  | .none | .busy | .pause _ _ => (s, false)
  | .unreadable => (s.advance p q, true)
  | .packet b =>
    if pktMalformed b then ((s.startPkt p q b (.completing 4 0)).1, true)
    else
      match pktType b with
      | 1 => ((s.startPkt p q b (.completing 1 0)).1, true)
      | 2 => s.startLaunch p q b
      | 3 => (s.startBarrier p q b, true)
      | 4 => s.startSignal p q b
      | _ => ((s.startPkt p q b (.copy 0)).1, true)

/-- The startable heads are tried, the best first, until one starts: it is the one that its priority has served (R294). -/
def State.startBest (s : State) (hs : List (Nat × Head)) : Nat → State
  | 0 => s
  | fuel + 1 =>
    match s.bestHead hs with
    | none => s
    | some (n, h) =>
      let e := (s.queue (n / 64) (n % 64)).effective
      match s.startHead n h with
      | (s, true) => { s with rr := s.rr.set e n, qeNext := s.clk + 1 }
      | (s, false) => s.startBest (hs.filter fun x => x.1 != n) fuel

/-- QUEUE_HEAD_START (R294): the startable head of highest effective priority starts, at most one a cycle. -/
def execQueueHeadStart (s : State) : Host.Outcome State Fault Refusal :=
  if s.clk < s.qeNext ∨ s.rdy.getLsbD 4 = false then .next s
  else
    let (s, hs) := s.startable s.busyQueues
    .next (s.startBest hs hs.length)

/-- PRIORITY_AGING (R294): another full 65,536 cycles as startable raise the head's effective priority by 1. -/
def execPriorityAging (part queue : Nat) (s : State) : Host.Outcome State Fault Refusal :=
  let k := s.queue part queue
  match k.since with
  | some t =>
    if t + 65536 * (k.age + 1) ≤ s.clk then .next (s.modQueue part queue fun k => { k with age := k.age + 1 }) else .next s
  | none => .next s

/-- ABORTED_PACKET_DRAIN (R295): the packet at RIDX of an ABORTING queue completes with STS 2. -/
def execAbortedPacketDrain (part queue : Nat) (s : State) : Host.Outcome State Fault Refusal :=
  if !(s.queue part queue).aborting || s.keeps part queue then .next s
  else
    match s.readHead part queue with
    | (s, .none) | (s, .busy) => .next s
    | (s, .pause c va) => .next (s.pauseHead part queue c va)
    | (s, .unreadable) => .next (s.advance part queue)
    | (s, .packet b) => .next (s.startPkt part queue b (.completing 2 0)).1

/-! ### Barriers -/

/-- Arm a monitor on every word of a list: the number of monitors, and whether one found no free entry (R300). -/
def State.armWords (s : State) (p q : Nat) : List (Nat × Word) → State × Nat × Bool
  | [] => (s, 0, false)
  | x :: r =>
    let (s, ok) := s.armAgent x.1 x.2 1 (.queue p q)
    let (s, n, poll) := s.armWords p q r
    if ok then (s, n + 1, poll) else (s, n, true)

/-- The words to watch: both of each nonzero signal of this package (R300). -/
def watchWords (read : List (Nat × Option Spot × DWord)) : List (Nat × Word) :=
  read.flatMap fun x =>
    match x.2.1 with
    | some { pa, peer := none, .. } =>
      if x.2.2 = 0 then [] else [(pa, x.2.2.setWidth 32), (pa + 4, (x.2.2 >>> 32).setWidth 32)]
    | _ => []

/-- A nonzero signal lies in another package, where no monitor can be armed (log 33). -/
def watchesFar (read : List (Nat × Option Spot × DWord)) : Bool :=
  read.any fun x => x.2.2 != 0 && (match x.2.1 with | some { peer := some _, .. } => true | _ => false)

/-- All signals have been read: the BARRIER passes, aborts or waits (R300). A word that has changed since it was read is read
again. -/
def State.barrierDecide (s : State) (p q : Nat) (read : List (Nat × Option Spot × DWord)) : State :=
  if read.any fun x => x.2.2.msb then s.modQueue p q fun k => { k with eval := some false, read := [] }
  else if read.all fun x => x.2.2 == 0 then s.modQueue p q fun k => { k with eval := some true, read := [] }
  else
    let ws := watchWords read
    if ws.any fun x => s.readCause (x.1 / 128) != 0 || s.homeWord x.1 != x.2 then s.modQueue p q fun k => { k with read := [] }
    else
      let (s, n, poll) := s.armWords p q ws
      s.modQueue p q fun k => { k with read := [], armed := some (n, poll || watchesFar read), nextRead := s.clk + 1024 }

/-- The next used signal of a BARRIER from number i on. -/
def nextSig (b : List Byte) (i : Nat) : Option Nat := ((List.range 6).drop i).find? fun k => pktWord b k != 0

/-- One signal is read, as one 64-bit slice read; a cause other than a pause counts as negative (R300, R367). -/
def State.barrierRead (s : State) (p q : Nat) (b : List Byte) (i : Nat) : State :=
  let got (s : State) (at_ : Option Spot) (v : DWord) : State :=
    let read := (s.queue p q).read ++ [(i, at_, v)]
    match nextSig b (i + 1) with
    | none => s.barrierDecide p q read
    | some _ => s.modQueue p q fun k => { k with read }
  let va := BitVec.ofNat 56 (pktWord b i)
  match s.reach (queueFrom p) va false with
  | (s, .zero) => got s none 0
  | (s, .pause c) => s.pauseHead p q c va
  | (s, .kill _) => got s none abortValue
  | (s, .busy) => s
  | (s, .spot x) =>
    match s.spotLine (headAgent p q) x with
    | (s, .line d) => got s (some x) (BitVec.ofNat 64 (lineGet d (x.pa % 128) 8))
    | (s, .kill _) => got s none abortValue
    | (s, .busy) => s

/-- One of the monitors of a waiting BARRIER has fired, or the cycle has come in which its signals are read again (R300). -/
def State.barrierFired (s : State) (p q : Nat) (k : Queue) : Bool :=
  match k.armed with
  | none => false
  | some (n, poll) =>
    let live := (s.slices.map fun e => (e.2.mons.filter fun m => m.2.who == .queue p q).length).sum
    decide (live < n) || (poll && decide (k.nextRead ≤ s.clk))

/-- PACKET_BARRIER_EVALUATE (R300): the next signal of the head BARRIER is read; with all read, it passes, aborts, or waits. -/
def execPacketBarrierEvaluate (part queue : Nat) (s : State) : Host.Outcome State Fault Refusal :=
  let k := s.queue part queue
  if !k.enabled || k.aborting || k.eval.isSome then .next s
  else if k.armed.isSome && !s.barrierFired part queue k then .next s
  else
    let s := (s.withdrawMons fun w => w == .queue part queue).modQueue part queue fun k => { k with armed := none }
    match s.readHead part queue with
    | (s, .packet b) =>
      if pktMalformed b || pktType b != 3 then .next s
      else
        let from_ := match (s.queue part queue).read.getLast? with | some x => x.1 + 1 | none => 0
        match nextSig b from_ with
        | none => .next (s.barrierDecide part queue (s.queue part queue).read)
        | some i => .next (s.barrierRead part queue b i)
    | (s, .pause c va) => .next (s.pauseHead part queue c va)
    | (s, _) => .next s

/-! ### Packets in progress -/

def State.modPkt (s : State) (id : Nat) (f : Pkt → Pkt) : State := { s with pkts := s.pkts.modify id f }

/-- A packet goes on to its completion with an STS. -/
def State.complete (s : State) (id sts : Nat) : State := s.modPkt id fun p => { p with st := .completing sts 0 }

/-- The launch id in an entry for a packet: its node's, or 0 (R367). -/
def State.pktLid (s : State) (id : Nat) : Word := match s.nodes.find? fun n => n.2.pkt == id with | some n => n.2.lid | none => 0

/-- An access of a started packet pauses (R367). -/
def State.pausePkt (s : State) (pk : Pkt) (code : Nat) (va : BitVec 56) : State :=
  (s.modPkt pk.id fun p => { p with paused := true }).postFault pk.part
    (agentFault code 7 (s.pktLid pk.id) va 0 0 (.packet pk.id))

/-- The handlers of the queue engine's operations on signals (R240): ADD.U64 and SWAP.B64. -/
def hndAdd : Nat := 1
def hndSwap : Nat := 19

/-- PACKET_SIGNAL (R298): SWAP or ADD of VAL at the target's home. -/
def execPacketSignal (pkt : Nat) (s : State) : Host.Outcome State Fault Refusal :=
  match s.pkts.get? pkt with
  | none => .next s
  | some pk =>
    if pk.st ≠ .signal ∨ pk.paused = true then .next s
    else
      let va := BitVec.ofNat 56 (pktWord pk.bytes 0)
      let hnd := if pktWord pk.bytes 2 % 2 ^ 32 = 0 then hndSwap else hndAdd
      match s.agentRmw (.packet pkt) (queueFrom pk.part) va hnd (BitVec.ofNat 64 (pktWord pk.bytes 1)) with
      | (s, .done) => .next (s.complete pkt 1)
      | (s, .pause c va) => .next (s.pausePkt pk c va)
      | (s, .kill _) => .next (s.complete pkt 3)
      | (s, .busy) => .next s

/-- The next run of a COPY is `n` bytes long at most: none of them in a second line, or written by an earlier one of them. -/
def runLength (from_ to_ : Reach) (src dst n : Nat) : Nat :=
  let n := lineLeft dst (lineLeft src n)
  match from_, to_ with
  | .spot a, .spot b => if a.peer = b.peer ∧ a.pa < b.pa ∧ b.pa < a.pa + n then b.pa - a.pa else n
  | _, _ => n

/-- One run of bytes of a COPY, in one line on either side (R298, R334). -/
def State.pktRun (s : State) (pk : Pkt) (pos n : Nat) : State :=
  let f := queueFrom pk.part
  let src := BitVec.ofNat 56 (pktWord pk.bytes 0 + pos)
  let dst := BitVec.ofNat 56 (pktWord pk.bytes 1 + pos)
  match s.reachOwn f src false with
  | (s, .pause c) => s.pausePkt pk c src
  | (s, .kill _) => s.complete pk.id 3
  | (s, .busy) => s
  | (s, from_) =>
    match s.reachOwn f dst true with
    | (s, .pause c) => s.pausePkt pk c dst
    | (s, .kill _) => s.complete pk.id 3
    | (s, .busy) => s
    | (s, to_) =>
      let n := runLength from_ to_ src.toNat dst.toNat n
      match s.agentPart (.packet pk.id) f src n with
      | (s, .bytes bs) =>
        match s.agentWrite (.packet pk.id) f dst bs with
        | (s, .done) => s.modPkt pk.id fun p => { p with st := .copy (pos + n) }
        | (s, .kill _) => s.complete pk.id 3
        | (s, _) => s
      | (s, .kill _) => s.complete pk.id 3
      | (s, _) => s

/-- The node that has posted the packet has been killed: a COPY of it stops (R311). -/
def State.posterKilled (s : State) (pk : Pkt) : Bool :=
  match pk.poster with
  | some n => match s.node? n with | some nd => nd.cause.isSome | none => false
  | none => false

/-- PACKET_COPY (R298): at most `count` of the next bytes are copied; the COPY completes with its last write, or is stopped with the
node that posted it (R311). -/
def execPacketCopy (pkt count : Nat) (s : State) : Host.Outcome State Fault Refusal :=
  match s.pkts.get? pkt with
  | none => .next s
  | some pk =>
    match pk.st with
    | .copy pos =>
      let len := pktWord pk.bytes 2
      if s.posterKilled pk then .next ((s.modPkt pkt fun p => { p with paused := false }).complete pkt 3)
      else if pk.paused then .next s
      else if len ≤ pos then .next (s.complete pkt 1)
      else
        let n := min (min count 128) (len - pos)
        if n = 0 then .next s
        else
          let s := s.pktRun pk pos n
          match s.pkts.get? pkt with
          | some p => if p.st = .copy len then .next (s.complete pkt 1) else .next s
          | none => .next s
    | _ => .next s

/-- The signal of a completion: ADD of −CDEC, or the abort value (R299). -/
def State.signalWrite (s : State) (pk : Pkt) (sts : Nat) : State :=
  let next (s : State) (sts : Nat) : State := s.modPkt pk.id fun p => { p with st := .completing sts 1 }
  let va := pktCsig pk.bytes / 8 * 8
  if pktCsig pk.bytes = 0 then next s sts
  else
    let (hnd, v) := if sts = 1 then (hndAdd, 0 - (pktCdec pk.bytes).signExtend 64) else (hndSwap, abortValue)
    match s.agentRmw (.packet pk.id) (queueFrom pk.part) (BitVec.ofNat 56 va) hnd v with
    | (s, .done) => next s sts
    | (s, .pause c va) => s.pausePkt pk c va
    | (s, .kill _) => next s 3
    | (s, .busy) => s

/-- STS is written into the packet's header at its home (R299). -/
def State.stsWrite (s : State) (pk : Pkt) (sts : Nat) : State :=
  let next (s : State) : State := s.modPkt pk.id fun p => { p with st := .completing sts 2 }
  let va := (s.queue pk.part pk.queue).slotVa pk.index + 3
  match s.agentWrite (.packet pk.id) (queueFrom pk.part) va [BitVec.ofNat 8 sts] with
  | (s, .done) => next s
  | (s, .pause c va) => s.pausePkt pk c va
  | (s, .kill _) => next s
  | (s, .busy) => s

/-- PACKET_COMPLETION (R299): the signal, then STS, then the vector. -/
def execPacketCompletion (pkt : Nat) (s : State) : Host.Outcome State Fault Refusal :=
  match s.pkts.get? pkt with
  | none => .next s
  | some pk =>
    if pk.paused then .next s
    else
      match pk.st with
      | .completing sts 0 => .next (s.signalWrite pk sts)
      | .completing sts 1 => .next (s.stsWrite pk sts)
      | .completing _ _ =>
        let s := { s with pkts := s.pkts.erase pkt }
        .next (if pktIrq pk.bytes then s.sendPart pk.part (s.queue pk.part pk.queue).vec else s)
      | _ => .next s

/-- QUEUE_ENGINE_ACCESS_PAUSE (R367): the paused accesses of a queue whose entries hold RESUME are made again. -/
def execQueueEngineAccessPause (part queue : Nat) (s : State) : Host.Outcome State Fault Refusal :=
  let s := if (s.queue part queue).paused && !s.faultOpen part (.head (64 * part + queue)) then
      s.modQueue part queue fun k => { k with paused := false }
    else s
  let own : Nat → Bool := fun id =>
    match s.pkts.get? id with
    | some p => p.part == part && p.queue == queue
    | none => false
  .next { s with
    pkts := s.pkts.map fun e =>
      if own e.1 && e.2.paused && !s.faultOpen part (.packet e.1) then (e.1, { e.2 with paused := false }) else e
    nodes := s.nodes.map fun e =>
      if own e.2.pkt && e.2.paused && !s.faultOpen part (.node e.1) then (e.1, { e.2 with paused := false }) else e }

end Sys2Proof.Machine
end

