-- ==== Sys2Proof/Machine/TeamEvents.lean ====
section
/-!
DEFINITION. The residency of teams: admission by a cluster's dispatcher, saving, restoring and retirement
(spec/08_core.md R135–R138, R152; spec/12_cluster.md R195, R196; spec/16_tensor_launch.md R267;
spec/19_queues_nodes_arenas.md R304, R316).
-/

namespace Sys2Proof.Machine

/-! ### Fitting -/

/-- What a quarter holds: resident groups, and ranges of 1 KiB units as (first, count). -/
structure QuarterUse where
  groups : Nat
  used : List (Nat × Nat)
  deriving DecidableEq, Repr

/-- Units of 1 KiB of a group's registers: 128 × N bytes (R14, R137). -/
def unitsOf (g : Group) : Nat := (g.n + 7) / 8

def emptyQuarters : List QuarterUse := [⟨0, []⟩, ⟨0, []⟩, ⟨0, []⟩, ⟨0, []⟩]

/-- What the quarters of a core hold. -/
def State.quarterUse (s : State) (core : Nat) : List QuarterUse :=
  let gs := (s.residents core).flatMap Team.groups
  [0, 1, 2, 3].map fun q =>
    let mine := gs.filter fun g => g.quarter == q
    { groups := mine.length, used := mine.map fun g => (g.unit, unitsOf g) }

def QuarterUse.free (q : QuarterUse) : Nat := 64 - (q.used.map (·.2)).sum

/-- The lowest free range of `n` units of a quarter with a free resident place (R135, R137). -/
def QuarterUse.fit (q : QuarterUse) (n : Nat) : Option Nat := if q.groups < 16 then scrFit q.used n 64 else none

/-- The quarter for a group: among those that fit it, the one with the most free bytes, then the lowest (R137). -/
def bestQuarter (qs : List QuarterUse) (n : Nat) : Option (Nat × Nat) :=
  (qs.zipIdx).foldl (fun acc x =>
    match x.1.fit n with
    | none => acc
    | some u =>
      match acc with
      | none => some (x.2, u)
      | some (b, _) => if (qs.getD b ⟨0, []⟩).free < x.1.free then some (x.2, u) else acc) none

/-- Places for a team's groups in order: quarter and first unit of each (R137). -/
def placeGroups : List Group → List QuarterUse → Option (List (Nat × Nat))
  | [], _ => some []
  | g :: r, qs =>
    let n := unitsOf g
    match bestQuarter qs n with
    | none => none
    | some (q, u) =>
      let qs := qs.modify q fun k => { groups := k.groups + 1, used := k.used ++ [(u, n)] }
      match placeGroups r qs with
      | none => none
      | some ps => some ((q, u) :: ps)

/-- Where a team would lie on a core. -/
structure Fit where
  places : List (Nat × Nat)
  base : Nat
  ways : Nat
  deriving DecidableEq, Repr

/-- The firmware core of a die, which is never given a team (R195). -/
def firmwareCore (core : Nat) : Bool := core % 8 == 0 && clusterOf core % 21 == 0

def Team.hasMatrix (t : Team) : Bool := t.groups.any fun g => g.role == .matrix

/-- The team fits on the core (R136, R195). -/
def State.fits (s : State) (core : Nat) (t : Team) : Option Fit :=
  if firmwareCore core || (t.hasMatrix && (s.core core).mx.owner.isSome) then none
  else
    match placeGroups t.groups (s.quarterUse core), s.scrPlace core t.scr with
    | some ps, some (o, k) => some { places := ps, base := o, ways := k }
    | _, _ => none

/-- The team's demands exceed one empty core (R195). -/
def tooLarge (t : Team) : Bool := (placeGroups t.groups emptyQuarters).isNone || decide (8 * wayBytes < t.scr)

/-! ### Frame space -/

/-- Bytes of 4 KiB pages. -/
def pages (n : Nat) : Nat := (n + 4095) / 4096 * 4096

/-- The team has copy groups, the only ones that enter copy commands (R139). -/
def Team.hasCopies (t : Team) : Bool := t.groups.any fun g => g.role == .copy

/-- The largest size of a team's context frame, which is what it reserves: a section of hoops and copy commands only for a team with
hoops or copy groups, a matrix section only for one with matrix groups (R153, R316). -/
def frameSize (t : Team) : Nat :=
  0x11000 + pages ((t.groups.map fun g => 128 * g.n).sum) + t.scr
  + (if t.hoops.isEmpty && !t.hasCopies then 0 else 4096) + (if t.hasMatrix then 308 * 1024 else 0)

/-- The cluster in whose vault a team has reserved frame space, if it has been admitted (R316). -/
def Team.reservedAt (t : Team) : Option Nat :=
  match t.place with
  | .resident c | .restoring c => some (clusterOf c)
  | .saved c => some c
  | .queued c => if t.frame.isSome then some c else none
  | .retired => none

/-- Space remains in the shadow region of the cluster's vault for the team's frame, or it holds a reservation (R316). -/
def State.frameRoom (s : State) (cluster : Nat) (t : Team) : Bool :=
  t.reservedAt == some cluster
  || decide ((s.teams.foldl (fun n x => if x.2.reservedAt = some cluster then n + frameSize x.2 else n) 0) + frameSize t
      ≤ (s.cluster cluster).vshad.toNat % 128 * 2 ^ 24)

/-! ### Admission -/

/-- The cores of a cluster on which a team fits, with the key by which R196 chooses. -/
def State.coresFor (s : State) (cluster : Nat) (t : Team) : List (Nat × Fit) :=
  (List.range 8).filterMap fun i => (s.fits (8 * cluster + i) t).map fun f => (8 * cluster + i, f)

/-- The fewest resident groups, then the most free main-file bytes, then the lowest core (R196). -/
def State.coreKey (s : State) (core : Nat) : Nat :=
  let qs := s.quarterUse core
  (qs.map QuarterUse.groups).sum * 2 ^ 10 + (256 - (qs.map QuarterUse.free).sum)

def State.bestCore (s : State) (cs : List (Nat × Fit)) : Option (Nat × Fit) :=
  cs.foldl (fun acc x =>
    match acc with
    | none => some x
    | some b => if s.coreKey x.1 < s.coreKey b.1 then some x else some b) none

/-- The stochastic-rounding state of a group at its release (R80). -/
def srSeed (srbase : Word) (tlin : Nat) (role : Role) (grp : Nat) : Word :=
  let st := srbase ^^^ (BitVec.ofNat 32 tlin * 0x9E3779B1) ^^^ BitVec.ofNat 32
    ((match role with | .copy => 0 | .matrix => 1 | .vector => 2) * 16 + grp)
  if st = 0 then 1 else st

/-- The groups with their places; a released group waits for the writes of the boundary (R137, R304). -/
def seatGroups (gs : List Group) (ps : List (Nat × Nat)) (clk : Nat) : List Group :=
  (gs.zip ps).map fun x => { x.1 with quarter := x.2.1, unit := x.2.2, place := none, readySince := clk, atEnd := true }

/-- The matrix unit that a new team takes over, cleared (R138). -/
def clearMx (team : Nat) : MxUnit := { owner := some team }

/-- The boundary at a release: every later event of the team's lanes waits for the core's write-backs (R229, R304). -/
def State.releaseBoundary (s : State) (core team : Nat) : State :=
  let s := s.flushL1 core { team, grp := 0 }
  let ids := s.coreWrites core
  s.modTeam team fun t => { t with groups := t.groups.map fun g => { g with hold := ids, stale := true } }

/-- A team with matrix groups claims the core's unit, cleared; the restore of a saved team then fills it (R136, R138, R192). -/
def State.claimMx (s : State) (core : Nat) (t : Team) : State :=
  if t.hasMatrix then s.modCore core fun c => { c with mx := clearMx t.id } else s

/-- A team takes its places on a core: a new one is cleared for, set up and released; a saved one is read back next
(R137, R138, R152, R304). -/
def State.seat (s : State) (core : Nat) (t : Team) (f : Fit) : State :=
  let s := if (s.core core).scrWays < f.ways then s.setWays core { team := t.id, grp := 0 } f.ways else s
  let sr := match s.node? t.node with | some n => n.srbase | none => 0
  let s := s.modTeam t.id fun t => { t with groups := seatGroups t.groups f.places s.clk, scrBase := f.base }
  let s := s.claimMx core t
  if t.frame.isSome then
    let s := (s.modTeam t.id fun t => { t with place := .restoring core }).trimVictims core
    let s := s.flushL1 core { team := t.id, grp := 0 }
    s.modTeam t.id fun t => { t with boundary := some (s.coreWrites core) }
  else
    let s := s.modCore core fun c => { c with scratch := c.scratch.clear f.base t.scr }
    let s := s.modTeam t.id fun t =>
      { t with place := .resident core, groups := t.groups.map fun g => { g with srstate := srSeed sr t.tlin g.role g.grp } }
    (s.trimVictims core).releaseBoundary core t.id

/-- Take a team out of its cluster's queue; a new head starts to wait (R196). -/
def State.unqueue (s : State) (cluster team : Nat) : State :=
  s.modCluster cluster fun c =>
    let dq := c.links.dq.filter (· != team)
    { c with links :=
        if dq.head? = c.links.dq.head? then { c.links with dq }
        else { c.links with dq, headSince := s.clk, alone := false } }

/-- The first team of a list that fits, with its core. -/
def State.firstFit (s : State) (cluster : Nat) : List Nat → Option (Team × Nat × Fit)
  | [] => none
  | t :: r =>
    match s.team? t with
    | none => s.firstFit cluster r
    | some tm =>
      if !s.frameRoom cluster tm then s.firstFit cluster r
      else
        match s.bestCore (s.coresFor cluster tm) with
        | some (c, f) => some (tm, c, f)
        | none => s.firstFit cluster r

/-- A dispatcher admits while its cluster has a partition and does not switch (R290, R315). -/
def State.admits (s : State) (cluster : Nat) : Bool :=
  let c := s.cluster cluster
  c.part.isSome && c.switching.isNone

/-- DISPATCHER_ADMIT (R195, R196): a head too large for a core kills its node; otherwise at most one team is admitted. -/
def execDispatcherAdmit (cluster : Nat) (s : State) : Host.Outcome State Fault Refusal :=
  if !s.admits cluster then .next s
  else
    let l := (s.cluster cluster).links
    match l.dq with
    | [] => .next s
    | h :: _ =>
      match s.team? h with
      | none => .next (s.unqueue cluster h)
      | some tm =>
        if tooLarge tm then .next (s.killNode tm.node 0x084)
        else
          let cands := if l.alone || decide (l.headSince + 4096 ≤ s.clk) then [h] else l.dq
          match s.firstFit cluster cands with
          | none => .next s
          | some (t, c, f) => .next ((s.unqueue cluster t.id).seat c t f)

/-- DISPATCHER_HEAD_TIMEOUT (R196): after 4,096 cycles at the head no team overtakes it. -/
def execDispatcherHeadTimeout (cluster : Nat) (s : State) : Host.Outcome State Fault Refusal :=
  let l := (s.cluster cluster).links
  if !l.dq.isEmpty && decide (l.headSince + 4096 ≤ s.clk) then
    .next (s.modCluster cluster fun c => { c with links := { c.links with alone := true } })
  else .next s

/-! ### Saving -/

/-- Every operation of a team's groups has ended. -/
def State.quiet (s : State) (team : Nat) : Bool := s.outst.all fun o => o.2.g.team != team

/-- Every operation of a team's groups has performed, and none counts in a slot: stores to other packages may still be on their way,
which only a boundary of scope POD waits for (R45, R152, R338). -/
def State.settled (s : State) (team : Nat) : Bool :=
  s.outst.all fun o => o.2.g.team != team || (o.2.kind == .effect && o.2.sb.isNone && o.2.local_)

/-- Accumulator instructions of a killed node's team perform no more; an ACCRD among them leaves no result (R303). -/
def State.stopAcc (s : State) (t : Team) : State :=
  match t.core? with
  | none => s
  | some core =>
    if (s.core core).mx.owner ≠ some t.id then s
    else
      let loads := (s.core core).mx.accq.filterMap fun a => match a.op with | .read _ _ _ _ _ _ _ _ l => some l | _ => none
      let s := s.modCore core fun c => { c with mx := { c.mx with accq := [], entries := [], steps := [] } }
      loads.foldl (fun s l => s.forcePiece l 0) s

/-- The save may write the frame: every group at a run end, every slot clear, no started copy in progress, the matrix unit at
a step boundary with no accumulator instruction left (R45, R152); the engines of a node that no longer runs have stopped (R303). -/
def State.saveReady (s : State) (core : Nat) (t : Team) : Bool :=
  let c := s.core core
  t.groups.all (fun g => g.atEnd && s.released g) && s.settled t.id
  && (!s.nodeRuns t || c.cq.all fun e => e.team != t.id || !e.started || e.paused)
  && (c.mx.owner != some t.id || (c.mx.steps.isEmpty && c.mx.accq.isEmpty))

/-- A WAITC or COLLW that a save withdraws is executed again after the restore, a WAITC with its remaining timeout
(R223, R353). -/
def withdrawn (swap : Bool) (sp : Split) : Split :=
  match sp.wait, sp.out with
  | some w, none =>
    match w.on with
    | .waitc _ _ _ _ sw => if sw && !swap then sp else redo w sp
    | .collw _ _ => { redo w sp with wait := none }
    | _ => sp
  | _, _ => sp
where
  /-- The split goes on at the waiting instruction. -/
  redo (w : Wait) (sp : Split) : Split :=
    match sp.st with
    | .waiting => { sp with st := .runnable, pc := w.ipc }
    | .held => { sp with pre := .runnable, pc := w.ipc }
    | _ => sp

/-- A group as the frame holds it: results landed, no reservation, no place (R36, R152, R153, R281).
DEDUCED, log 69: a save lands every port result, whether or not its time has come, and a restored group has no stall count left. -/
def frameGroup (g : Group) : Group :=
  let g := g.landAll
  { g with rsv := none, place := none, lastPage := [], hold := [], holdFar := [], stale := false, want := none, waited := 0
           waitMark := 0, banked := none, tried := 0, nextIssue := 0
           splits := g.splits.map fun e => (e.1, withdrawn false e.2) }

/-- Reservations of a team's groups are cleared (R221). -/
def State.clearTeamResv (s : State) (team : Nat) : State :=
  { s with slices := s.slices.map fun e => (e.1, { e.2 with resv := e.2.resv.filter fun r => r.1.team != team }) }

/-- The core's resources return: the scratch range, the matrix unit, and ways that hold no scratch any more (R137, R146). -/
def State.release (s : State) (core team : Nat) : State :=
  (s.modCore core fun c => { c with mx := if c.mx.owner = some team then {} else c.mx }).returnWays core { team, grp := 0 }

/-- A swap entry of the team is armed, or still on its way to its slice. -/
def State.swapArmed (s : State) (team : Nat) : Bool :=
  s.slices.any fun e =>
    (e.2.mons.any fun m => isSwap m.2.who) || (e.2.overflow.any fun m => isSwap m.who)
where
  isSwap (w : MonWho) : Bool := match w with | .team g _ => g.team == team | _ => false

/-- Write the frame and give the core's resources back (R152). -/
def State.writeFrame (s : State) (core : Nat) (t : Team) (why : SaveWhy) : State :=
  let c := s.core core
  let fr : Frame :=
    { scratch := (c.scratch.slice t.scrBase t.scr).map fun x => (x.1 - t.scrBase, x.2)
      copies := (c.cq.filter fun e => e.team == t.id).map fun e => { e with started := false }
      mx := if c.mx.owner = some t.id then some { c.mx with ocache := [], fills := [], fillFree := 0 } else none
      why }
  let s := s.modCore core fun c => { c with cq := c.cq.filter fun e => e.team != t.id, scratch := c.scratch.clear t.scrBase t.scr }
  let s := s.withdrawMons fun w => match w with | .group g _ => g.team == t.id | _ => false
  let s := s.clearTeamResv t.id
  let s := s.modTeam t.id fun t =>
    { t with place := .saved (clusterOf core), saving := none, boundary := none, frame := some fr
             groups := t.groups.map frameGroup }
  let s := s.release core t.id
  if s.faultsOpen t || s.swapArmed t.id then s else s.appendQueue t.id

/-- The split of a WAITC that has registered nowhere goes on at the WAITC again (R224). -/
def State.redoRefused (s : State) (r : Req) : State :=
  match r.body with
  | .waitc _ _ _ _ _ slot => s.modGroup r.g fun g => g.modSplit slot fun sp =>
      match sp.wait with
      | some w => { sp with pc := w.ipc }
      | none => sp
  | _ => s

/-- A WAITC of the team that a full overflow list has refused is sent no more; it executes again after the restore (R224). -/
def State.dropRefused (s : State) (team : Nat) : State :=
  let rs := s.slices.flatMap fun e => (e.2.refused.filter fun r => r.1.g.team == team).map (·.1)
  let s := rs.foldl (fun s r => (s.redoRefused r).forcePiece r.op r.piece) s
  { s with slices := s.slices.map fun e => (e.1, { e.2 with refused := e.2.refused.filter fun r => r.1.g.team != team }) }

/-- TEAM_SAVE (R152): the PKG actions on the whole core first (R229), then the frame. -/
def execTeamSave (team : Nat) (s : State) : Host.Outcome State Fault Refusal :=
  match s.team? team with
  | none => .next s
  | some t =>
    match t.core?, t.saving with
    | some core, some why =>
      let s := if s.nodeRuns t then s.dropRefused team else (s.dropRefused team).stopAcc t
      if !s.saveReady core t then .next s
      else
        match t.boundary with
        | none =>
          let s := s.flushL1 core { team, grp := 0 }
          .next (s.modTeam team fun t => { t with boundary := some (s.coreWrites core) })
        | some ids => if ids.any fun i => (s.outst.get? i).isSome then .next s else .next (s.writeFrame core t why)
    | _, _ => .next s

/-! ### Restoring -/

/-- A group as it is released again: waits that other swap entries of the team withdrew are executed again (R223, R244). -/
def backGroup (g : Group) : Group := { g with splits := g.splits.map fun e => (e.1, withdrawn true e.2) }

/-- Outcomes recorded while the team was saved take effect (R22). -/
def applyOuts (g : Group) : Group :=
  let g := [0, 1, 2, 3].foldl (fun g i => if (g.split i).st = .waiting then g.applyOut i else g) g
  if (g.split g.cur).st = .runnable then g else { g with cur := g.nextSplit }

/-- TEAM_RESTORE (R152): once the boundary has completed and the copy queue has room, the frame is read back and the groups
are released at a run end. -/
def execTeamRestore (team : Nat) (s : State) : Host.Outcome State Fault Refusal :=
  match s.team? team with
  | none => .next s
  | some t =>
    match t.place, t.frame, t.boundary with
    | .restoring core, some fr, some ids =>
      if ids.any (fun i => (s.outst.get? i).isSome) || decide (32 < (s.core core).cq.length + fr.copies.length) then .next s
      else
        let s := s.withdrawMons fun w => match w with | .group g _ | .team g _ => g.team == team | _ => false
        let s := s.modCore core fun c =>
          { c.dropClean with
            scratch := fr.scratch.foldl (fun m x => Mem.write m (t.scrBase + x.1) x.2) (c.scratch.clear t.scrBase t.scr)
            cq := c.cq ++ fr.copies
            mx := match fr.mx with | some m => { m with owner := some team } | none => c.mx }
        let s := s.modTeam team fun t =>
          { t with place := .resident core, frame := none, boundary := none
                   groups := t.groups.map fun g => { applyOuts (backGroup g) with readySince := s.clk } }
        .next (s.bumpGens team)
    | _, _, _ => .next s

/-! ### Retirement -/

/-- Every group has retired, and every copy command and matrix entry of the team has completed (R30, R267). -/
def State.retireReady (s : State) (core : Nat) (t : Team) : Bool :=
  let c := s.core core
  t.groups.all (fun g => g.live == 0 && g.sb.all fun x => x.2 == 0) && s.quiet t.id
  && c.cq.all (fun e => e.team != t.id)
  && (c.mx.owner != some t.id || (c.mx.entries.isEmpty && c.mx.accq.isEmpty))

/-- The team is counted as retired in the claim of its record (R267). -/
def Node.countRetired (n : Node) (k : Nat) : Node :=
  { n with weavers := n.weavers.map fun w =>
      (w.1, { w.2 with claims := w.2.claims.map fun c => if c.1 = k then (c.1, c.2.1, c.2.2 + 1) else c }) }

/-- Where the team's record lies: as its weaver read it, or translated again after a shootdown, unless the access to it is on its way
(R267, R285). -/
def State.teamRecord (s : State) (n : Node) (t : Team) (core : Nat) : State × Reach :=
  if t.recStale && !(s.far.any fun x => x.who == .team t.id) then
    match s.reach { core := none, cluster := clusterOf core, part := n.part, lid := n.lid } (BitVec.ofNat 56 (n.tensor.recs + 32 * t.record)) true with
    | (s, .spot p) => (s.modTeam t.id fun t => { t with recAt := p, recStale := false }, .spot p)
    | x => x
  else (s, .spot t.recAt)

/-- The team has retired: it is counted in its claim, and its places return. -/
def State.teamGone (s : State) (t : Team) (core : Nat) : State :=
  let s := (s.clearTeamResv t.id).modNode t.node fun n => n.countRetired t.record
  ({ s with teams := s.teams.erase t.id } : State).release core t.id

/-- 1 is subtracted from LIVE of the team's record at its home, and the team is gone (R267). -/
def State.subtractLive (s : State) (n : Node) (t : Team) (core : Nat) : State :=
  match s.teamRecord n t core with
  | (s, .kill code) => s.killNode t.node code
  | (s, .spot p) =>
    match s.spotRmw (.team t.id) { p with pa := p.pa + 0x18 } 0 4 0xFFFFFFFF with
    | (s, .busy) => s
    | (s, .kill code) => s.killNode t.node code
    | (s, .old _) => s.teamGone t core
  | (s, _) => s

/-- TEAM_RETIRE (R267): a PKG boundary, then 1 is subtracted from LIVE of the team's record at its home.
DESIGN CHOICE, log 79: while the record cannot be translated, the retirement waits. -/
def execTeamRetire (team : Nat) (s : State) : Host.Outcome State Fault Refusal :=
  match s.team? team with
  | none => .next s
  | some t =>
    match t.core?, s.node? t.node with
    | some core, some n =>
      if !s.retireReady core t || n.st != .running then .next s
      else
        match t.boundary with
        | none =>
          let s := s.flushL1 core { team, grp := 0 }
          .next (s.modTeam team fun t => { t with boundary := some (s.coreWrites core) })
        | some ids =>
          if ids.any fun i => (s.outst.get? i).isSome then .next s else .next (s.subtractLive n t core)
    | _, _ => .next s

end Sys2Proof.Machine
end

