-- ==== Sys2Proof/Machine/Weave.lean ====
section
/-!
DEFINITION. The weavers (spec/16_tensor_launch.md R253–R266; spec/01_lanes_groups_splits.md R24).
An event that is not enabled leaves the state unchanged.
-/

namespace Sys2Proof.Machine

/-! ### Records -/

/-- The record of 32 bytes (R253). -/
def recOf (b : List Byte) : Rec :=
  let f (i : Nat) : Word := BitVec.ofNat 32 (blockField b (4 * i) 4)
  { first := f 0, count := f 1, loc := f 2, migt := f 3, state := f 4, stamp := f 5, live := f 6, rsvd := f 7 }

/-- Location byte i of LOC: 0 HOME, 1 to 3 REP0 to REP2 (R253). -/
def Rec.locAt (r : Rec) (i : Nat) : Nat := r.loc.toNat / 2 ^ (8 * i) % 256

/-- ST and RES of the state word (R254). -/
def stOf (w : Word) : Nat := w.toNat % 4
def isFar (w : Word) : Bool := w.getLsbD 2

/-- The cluster that a location byte names, numbered over the package (R254). -/
def locCluster (b : Nat) : Nat := 21 * (b / 32 % 4) + b % 32

/-- A location byte is valid and in range, or zero (R255). -/
def locOk (b : Nat) : Bool := if b / 128 = 1 then decide (b % 32 ≤ 20) else b == 0

/-- The record is well formed (R255). -/
def Rec.wellFormed (r : Rec) : Bool :=
  r.migt.toNat / 256 == 0 && r.state.toNat / 8 % 2 ^ 13 == 0 && r.rsvd == 0
  && decide (1 ≤ r.count.toNat) && decide (r.count.toNat ≤ 2 ^ 24) && stOf r.state != 3
  && (if isFar r.state then r.locAt 0 == 0 else decide (128 ≤ r.locAt 0))
  && [0, 1, 2, 3].all (fun i => locOk (r.locAt i)) && locOk (r.migt.toNat % 256)
  && (if stOf r.state = 1 then decide (128 ≤ r.migt.toNat % 256) else r.migt == 0)

/-- The record is well formed, or would be but for a migration target that the migrating software has already cleared: step 3 of
R263 rewrites LOC and MIGT while STATE still says MIGRATING.
DEDUCED, log 60: R268 lets such a record raise nothing, whatever the order of the weaver's read and the software's writes. -/
def Rec.usable (r : Rec) : Bool :=
  r.wellFormed || (stOf r.state == 1 && r.migt == 0 && Rec.wellFormed { r with migt := 0x80 })

/-- The record covers in place (R255). -/
def Rec.covers (r : Rec) (k tf : Nat) (t : Tensor) : Bool :=
  r.first.toNat == tf && (k + 1 != t.nrec || r.first.toNat + r.count.toNat == t.ntiles)

/-- Teams of the record, in the 32-bit arithmetic of the walk (R257). -/
def Rec.teams (r : Rec) (tpt : Nat) : Nat := ((r.count.toNat + tpt - 1) % 2 ^ 32) / tpt

/-- The owner of a record as first read (R256). -/
def Rec.owner (r : Rec) (k tf : Nat) (t : Tensor) : Nat :=
  if r.usable && r.covers k tf t && !isFar r.state then r.locAt 0 / 32 % 4 else k % 4

/-! ### The walk's place -/

/-- Record, first tile and first team in hand: of the walk, or of the first deferred record (R257). -/
def Weaver.here (w : Weaver) : Nat × Nat × Nat :=
  match w.deferring, w.defer with
  | true, d :: _ => (d.k, d.tf, d.tm)
  | _, _ => (w.k, w.tf, w.tm)

def State.modWeaver (s : State) (node die : Nat) (f : Weaver → Weaver) : State :=
  s.modNode node fun n => { n with weavers := n.weavers.modify die f }

/-- The weaver is inside a step: an access that it has made to another package has not been taken. -/
def State.inStep (s : State) (node die : Nat) : Bool := s.far.any fun x => x.who == .weaver node die

/-- A weaver that walks: its node runs, and its partition is resident (R290); a step that it has begun it ends all the same, since a
heat switch falls between steps, never inside one (R265). -/
def State.weaver? (s : State) (node die : Nat) : Option (Node × Weaver) :=
  match s.node? node with
  | none => none
  | some n =>
    match n.weavers.get? die with
    | none => none
    | some w => if n.st = .running && ((s.part n.part).resident || s.inStep node die) then some (n, w) else none

/-- Where a weaver's accesses come from (R280). -/
def weaverFrom (n : Node) (die : Nat) : From := { core := none, cluster := 21 * die, part := n.part, lid := n.lid }

/-- The virtual address of a record of a node's launch (R251). -/
def Node.recVa (n : Node) (k : Nat) : BitVec 56 := BitVec.ofNat 56 (n.tensor.recs + 32 * k)

/-- Where the record in hand lies: as read, or translated again after a shootdown, unless an access to it is on its way (R285). -/
def State.recReach (s : State) (n : Node) (die : Nat) (w : Weaver) : State × Reach :=
  if w.recStale && !s.inStep n.id die then
    match s.reach (weaverFrom n die) (n.recVa w.here.1) true with
    | (s, .spot p) => (s.modWeaver n.id die fun w => { w with recAt := p, recStale := false }, .spot p)
    | x => x
  else (s, .spot w.recAt)

/-- The place of a field of the record in hand. -/
def Weaver.spot (w : Weaver) (off : Nat) : Spot := { w.recAt with pa := w.recAt.pa + off }

/-- What a look at the STATE word of a record finds. -/
inductive Look where
  | same
  | differs
  | kill (code : Nat)
  | busy
  deriving DecidableEq, Repr

/-- The STATE word of the record at a place is read at its home and compared with a word (R263, R264). -/
def State.lookState (s : State) (node die : Nat) (p : Spot) (w : Word) : State × Look :=
  match s.spotLine (.weaver node die) { p with pa := p.pa + 0x10 } with
  | (s, .line d) => (s, if BitVec.ofNat 32 (lineGet d ((p.pa + 0x10) % 128) 4) = w then .same else .differs)
  | (s, .kill c) => (s, .kill c)
  | (s, .busy) => (s, .busy)

/-- The weaver's wait for STATE to differ from a word goes on by a monitor of its own, or, when the entries for agents are taken or
the record lies in another package, by a read every 1,024 cycles (R222, R263, R264). -/
def State.armState (s : State) (node die : Nat) (p : Spot) (w : Word) : State × Option Nat :=
  if p.peer.isSome then (s, some (s.clk + 1024))
  else
    match s.armAgent (p.pa + 0x10) w 1 (.weaver node die) with
    | (s, true) => (s, none)
    | (s, false) => (s, some (s.clk + 1024))

/-- The weaver waits for STATE of the first deferred record to differ from the word read (R257). -/
def State.waitDefer (s : State) (node die : Nat) : State := s.modWeaver node die fun w => { w with st := .deferWait (some s.clk) }

/-- The walk goes on: with the next record, the next deferred record, or to its end (R257). -/
def State.goOn (s : State) (node die : Nat) : State :=
  match s.node? node with
  | none => s
  | some n =>
    let w := n.weavers.getD die {}
    if w.deferring then
      match w.defer with
      | [] => s.modWeaver node die fun w => { w with st := .done }
      | _ :: _ => s.waitDefer node die
    else if w.k < n.tensor.nrec then s.modWeaver node die fun w => { w with st := .read }
    else if w.defer.isEmpty then s.modWeaver node die fun w => { w with deferring := true, st := .done }
    else (s.modWeaver node die fun w => { w with deferring := true }).waitDefer node die

/-- The record in hand is dealt with. -/
def State.passed (s : State) (node die count nt : Nat) : State :=
  (s.modWeaver node die fun w =>
    if w.deferring then { w with defer := w.defer.tail }
    else { w with k := w.k + 1, tf := (w.tf + count) % 2 ^ 32, tm := (w.tm + nt) % 2 ^ 32 }).goOn node die

/-! ### Faults -/

/-- Post a weaver's entry (R264, R305). -/
def State.weaverPost (s : State) (n : Node) (die k reason : Nat) (va : BitVec 56) : State :=
  s.postFault n.part
    { agentFault 0x0C0 6 n.lid va (BitVec.ofNat 8 (0x80 + 32 * die)) n.id (.weaver n.id die) with
      record := BitVec.ofNat 32 k, reason := BitVec.ofNat 32 reason }

/-- The fault procedure for a mapped record (R264): FAULTED by compare and swap; if that fails, the record is read again. The monitor is
armed once the entry has been posted. -/
def State.weaverFault (s : State) (n : Node) (die k reason : Nat) (p : Spot) (w : Word) (va : BitVec 56) : State :=
  let f := (w &&& ~~~3#32) ||| 2#32
  match s.spotRmw (.weaver n.id die) { p with pa := p.pa + 0x10 } 20 4 (w.toNat + 2 ^ 32 * f.toNat) with
  | (s, .busy) => s
  | (s, .kill c) => s.killNode n.id c
  | (s, .old old) =>
    if old ≠ w.toNat then s.modWeaver n.id die fun w => { w with st := .read }
    else (s.weaverPost n die k reason va).modWeaver n.id die fun w => { w with st := .repair f (some s.clk), recAt := p, recStale := false }

/-- A record that is unmapped, reason 4, or does not cover in place, reason 2, is reported by the weaver of die k mod 4, and in
the deferral loop by the weaver that has deferred it; another waits 1,024 cycles (R256, R257). -/
def State.weaverBad (s : State) (n : Node) (w : Weaver) (die k : Nat) (mapped : Option (Spot × Word)) (va : BitVec 56) : State :=
  if !w.deferring && k % 4 != die then s.modWeaver n.id die fun w => { w with st := .nonowner (s.clk + 1024) }
  else
    match mapped with
    | some (p, word) => s.weaverFault n die k 2 p word va
    | none => (s.weaverPost n die k 4 va).modWeaver n.id die fun w => { w with st := .resume }

/-- Ownership of a record is fixed at the first read of it (R256).
DEDUCED, log 78: the first read by any weaver of the launch, so that all four agree and every tile has one team (R266). -/
def State.fixOwner (s : State) (node k owner : Nat) : State :=
  s.modNode node fun n => if (n.owners.get? k).isSome then n else { n with owners := n.owners.set k owner }

/-! ### Reading and claiming -/

/-- A record as read is branched on (R257). -/
def State.weaverGot (s : State) (n : Node) (w : Weaver) (die : Nat) (p : Spot) (r : Rec) (va : BitVec 56) : State :=
  let (k, tf, _) := w.here
  let owner := n.owners.getD k (r.owner k tf n.tensor)
  let s := s.fixOwner n.id k owner
  if !r.covers k tf n.tensor then s.weaverBad n w die k (some (p, r.state)) va
  else if !w.deferring && owner != die then s.passed n.id die r.count.toNat (r.teams n.desc.tpt)
  else s.modWeaver n.id die fun w =>
    { w with
      st := .claim 0, rec_ := some r, recAt := p, recStale := false
      defer := if w.deferring then (match w.defer with | d :: l => { d with w := r.state } :: l | [] => []) else w.defer }

/-- WEAVER_RECORD_READ (R257): the record in hand is read at its home and branched on. -/
def execWeaverRecordRead (node die : Nat) (s : State) : Host.Outcome State Fault Refusal :=
  match s.weaver? node die with
  | none => .next s
  | some (n, w) =>
    if w.st ≠ .read then .next s
    else if !w.deferring && decide (n.tensor.nrec ≤ w.k) then .next (s.goOn node die)
    else
      let k := w.here.1
      let va := n.recVa k
      match s.reach (weaverFrom n die) va true with
      | (s, .pause _) | (s, .zero) => .next ((s.fixOwner node k (k % 4)).weaverBad n w die k none va)
      | (s, .kill c) => .next (s.killNode node c)
      | (s, .busy) => .next s
      | (s, .spot p) =>
        match s.spotLine (.weaver node die) p with
        | (s, .kill c) => .next (s.killNode node c)
        | (s, .busy) => .next s
        | (s, .line d) =>
          .next (s.weaverGot n w die p (recOf ((List.range 32).map fun i => lineByte d (p.pa % 128 + i))) va)

/-- The pair (STATE, STAMP) as a number (R253). -/
def pairOf (state stamp : Word) : Nat := state.toNat + 2 ^ 32 * stamp.toNat

/-- The first step of a claim (R258 steps 1 and 2). -/
def State.claimAdd (s : State) (n : Node) (w : Weaver) (die : Nat) (r : Rec) : State :=
  let (k, tf, tm) := w.here
  let nt := r.teams n.desc.tpt
  let va := n.recVa k
  if !r.usable then s.weaverFault n die k 1 w.recAt r.state va
  else if stOf r.state = 2 then s.weaverFault n die k 3 w.recAt r.state va
  else if stOf r.state = 1 then
    if w.deferring then s.waitDefer n.id die
    else
      (s.modWeaver n.id die fun w => { w with defer := w.defer ++ [{ k, tf, tm, w := r.state }] }).passed n.id die
        r.count.toNat nt
  else
    match s.spotRmw (.weaver n.id die) (w.spot 0x18) 0 4 nt with
    | (s, .busy) => s
    | (s, .kill c) => s.killNode n.id c
    | (s, .old _) => s.modWeaver n.id die fun w => { w with st := .claim 1, claims := w.claims ++ [(k, nt, 0)] }

/-- A claim has succeeded: its teams are created next. -/
def State.claimed (s : State) (node die : Nat) : State := s.modWeaver node die fun w => { w with st := .create 0 }

/-- The claim made last has failed and is no more (R258). -/
def Weaver.unclaim (w : Weaver) : Weaver := { w with st := .read, claims := w.claims.dropLast }

/-- The next step of a claim, with the record's place at hand (R258). -/
def State.claimStep (s : State) (n : Node) (w : Weaver) (die : Nat) (r : Rec) : State :=
  let rmw (off hnd size b : Nat) : State × Rmw := s.spotRmw (.weaver n.id die) (w.spot off) hnd size b
  match w.st with
  | .claim 0 => s.claimAdd n w die r
  | .claim 1 =>
    let want := pairOf r.state r.stamp
    match rmw 0x10 21 8 (want + 2 ^ 64 * pairOf r.state n.lid) with
    | (s, .busy) => s
    | (s, .kill c) => s.killNode n.id c
    | (s, .old v) =>
      if v ≠ want then s.modWeaver n.id die fun w => { w with st := .claim 2 }
      else if n.desc.rw then s.modWeaver n.id die fun w => { w with st := .claim 3 }
      else s.claimed n.id die
  | .claim 2 =>
    match rmw 0x18 0 4 (2 ^ 32 - r.teams n.desc.tpt) with
    | (s, .busy) => s
    | (s, .kill c) => s.killNode n.id c
    | (s, .old _) => s.modWeaver n.id die Weaver.unclaim
  | .claim 3 =>
    match rmw 0x08 12 4 0x7F7F7FFF with
    | (s, .busy) => s
    | (s, .kill c) => s.killNode n.id c
    | (s, .old _) => s.claimed n.id die
  | _ => s

/-- WEAVER_CLAIM (R258): the next step of a claim, each a slice operation at the record's home.
DESIGN CHOICE, log 79: while the record cannot be translated, the step waits. -/
def execWeaverClaim (node die : Nat) (s : State) : Host.Outcome State Fault Refusal :=
  match s.weaver? node die with
  | none => .next s
  | some (n, w) =>
    match w.st, w.rec_ with
    | .claim _, some r =>
      match s.recReach n die w with
      | (s, .spot p) => .next (s.claimStep n { w with recAt := p } die r)
      | (s, .kill c) => .next (s.killNode node c)
      | (s, _) => .next s
    | _, _ => .next s

/-! ### Teams -/

/-- Unplaced teams in a cluster's queue of a partition (R195, R260). -/
def State.unplaced (s : State) (part cluster : Nat) : Nat := (s.links cluster part).dq.length

/-- The member of a list with the smallest key; the first among equals. -/
def least (key : Nat × Nat → Nat) (xs : List (Nat × Nat)) : Option (Nat × Nat) :=
  xs.foldl (fun acc x =>
    match acc with
    | none => some x
    | some b => if key x < key b then some x else some b) none

/-- The target cluster and copy index of a team (R260, R262). -/
def State.target (s : State) (n : Node) (die : Nat) (r : Rec) : Nat × Nat :=
  let inPart (c : Nat) : Bool := (s.part n.part).pclus.getLsbD c
  let key (x : Nat × Nat) : Nat := s.unplaced n.part x.1 * 2 ^ 16 + x.1 * 8 + x.2
  let own :=
    if isFar r.state then
      (least key (((List.range 21).map fun i => (21 * die + i, 0)).filter fun x => inPart x.1)).toList
    else [(locCluster (r.locAt 0), 0)]
  let reps :=
    if n.desc.rw || n.tensor.norep then []
    else ([0, 1, 2].filter fun m => decide (128 ≤ r.locAt (m + 1))).map fun m => (locCluster (r.locAt (m + 1)), m + 1)
  match least key ((own ++ reps).filter fun x => inPart x.1) with
  | some x => x
  | none => (if isFar r.state then 21 * die else locCluster (r.locAt 0), 0)

/-- The spill order from a cluster (R261). -/
def spillOrder (c : Nat) : List Nat :=
  let e := c / 21
  let s := c / 7 % 3
  let j := c % 7
  let sector (die sec : Nat) : List Nat := (List.range 7).map fun q => 21 * die + 7 * (sec % 3) + (j + q) % 7
  ([0, 1, 2].flatMap fun r => sector e (s + r)) ++ [1, 2, 3].flatMap fun x => [0, 1, 2].flatMap fun r => sector (e ^^^ x) (s + r)

/-- The cluster to which a team goes (R261, R262). -/
def State.spillTo (s : State) (n : Node) (c0 : Nat) : Option Nat :=
  (spillOrder c0).find? fun c =>
    (s.part n.part).pclus.getLsbD c && (n.desc.sd == 0 || decide (s.unplaced n.part c < n.desc.sd))

/-- The coordinates of a tile (R252). -/
def coordsFrom : List Nat → Nat → List Nat → List Nat
  | [], _, acc => acc
  | n :: r, t, acc => coordsFrom r (t / n) (t % n :: acc)

/-- %tc0 to %tc3 of a tile (R252): coordinates beyond RANK are 0. -/
def Tensor.coords (t : Tensor) (tile : Nat) : List Nat :=
  let cs := coordsFrom t.dims.reverse tile []
  cs ++ List.replicate (4 - cs.length) 0

/-- A 64-bit value in two uniform registers, low word first. -/
def pairRegs (n : Nat) (x : DWord) : NMap Word := [(n, x.setWidth 32), (n + 1, (x >>> 32).setWidth 32)]

/-- A group of a team at its entry (R24). -/
def entryGroup (d : LDesc) (role : Role) (grp : Nat) (regs : NMap Word) : Group :=
  let (cnt, n, off) :=
    match role with
    | .copy => (d.gcnt.1, d.regs.1, d.entry.1)
    | .matrix => (d.gcnt.2.1, d.regs.2.1, d.entry.2.1)
    | .vector => (d.gcnt.2.2, d.regs.2.2, d.entry.2.2)
  { role, grp, n := 8 * n, s := regs.set 6 (BitVec.ofNat 32 cnt)
    splits := [(0, { st := .runnable, pc := BitVec.ofNat 56 (d.code + off), mask := 0xFFFFFFFF })] }

/-- The groups of a team in the order of R137. -/
def entryGroups (d : LDesc) (regs : NMap Word) : List Group :=
  ((List.range d.gcnt.1).map fun i => entryGroup d .copy i regs)
    ++ ((List.range d.gcnt.2.1).map fun i => entryGroup d .matrix i regs)
    ++ (List.range d.gcnt.2.2).map fun i => entryGroup d .vector i regs

/-- A hoop as a hoop word configures it (R150, R250). -/
def hoopOfWord (w : DWord) : Option Hoop :=
  if w.getLsbD 44 then
    some { off := w.toNat % 2 ^ 20, ssz := w.toNat / 2 ^ 20 % 2 ^ 20, nslot := w.toNat / 2 ^ 40 % 16 + 1 }
  else none

/-- The hoops of a launch. -/
def hoopsOf (ws : List DWord) : NMap Hoop := ws.zipIdx.filterMap fun x => (hoopOfWord x.1).map fun h => (x.2, h)

/-- Team j of a claimed record, for a cluster's queue (R259). -/
def newTeam (n : Node) (r : Rec) (k tm j copy : Nat) (at_ : Spot) (cluster id : Nat) : Team :=
  let d := n.desc
  let t := r.first.toNat + j * d.tpt
  let tiles := min d.tpt (r.count.toNat - j * d.tpt)
  let addr : DWord := BitVec.ofNat 64 (n.tensor.base + t * n.tensor.tstr + copy * n.tensor.repstr * 2 ^ 16)
  let regs : NMap Word := pairRegs 0 addr ++ [(2, BitVec.ofNat 32 n.tensor.tb)] ++ pairRegs 3 d.args ++ [(5, BitVec.ofNat 32 tiles)]
  { id, node := n.id, part := n.part, lid := n.lid, num := (tm + j) % 2 ^ 32, tlin := t, tc := n.tensor.coords t, tiles, addr, record := k
    recAt := at_, gcnt := d.gcnt, groups := entryGroups d regs, scr := roundScr d.scr, hoops := hoopsOf d.hoops
    place := .queued cluster }

/-- Append a new team to a cluster's queue (R195). -/
def State.enqueue (s : State) (t : Team) (cluster : Nat) : State :=
  let s := { s with teams := s.teams.set t.id t }
  s.modLinks cluster t.part fun l =>
    { l with dq := l.dq ++ [t.id], headSince := if l.dq.isEmpty then s.clk else l.headSince
             alone := if l.dq.isEmpty then false else l.alone }

/-- Team j of the record in hand is placed from cluster c0 on, or waits for room (R261). -/
def State.putTeam (s : State) (n : Node) (w : Weaver) (die : Nat) (r : Rec) (j c0 copy : Nat) : State :=
  match s.spillTo n c0 with
  | none => s.modWeaver n.id die fun w => { w with st := .spill j c0 copy }
  | some c =>
    let (k, _, tm) := w.here
    let (id, s) := s.fresh
    let t := newTeam n r k tm j (if (s.part n.part).pclus.getLsbD c0 then copy else 0) w.recAt c id
    let s := s.enqueue { t with recStale := w.recStale } c
    let nt := r.teams n.desc.tpt
    if j + 1 < nt then s.modWeaver n.id die fun w => { w with st := .create (j + 1) }
    else s.passed n.id die r.count.toNat nt

/-- TEAM_CREATE (R259): the next team of a claimed record is created, its target chosen, and appended to a cluster's queue. -/
def execTeamCreate (node die : Nat) (s : State) : Host.Outcome State Fault Refusal :=
  match s.weaver? node die with
  | none => .next s
  | some (n, w) =>
    match w.st, w.rec_ with
    | .create j, some r =>
      let (c0, copy) := s.target n die r
      .next (s.putTeam n w die r j c0 copy)
    | _, _ => .next s

/-- WEAVER_SPILL_RESCAN (R261): the weaver scans again from c0. -/
def execWeaverSpillRescan (node die : Nat) (s : State) : Host.Outcome State Fault Refusal :=
  match s.weaver? node die with
  | none => .next s
  | some (n, w) =>
    match w.st, w.rec_ with
    | .spill j c0 copy, some r => .next (s.putTeam n w die r j c0 copy)
    | _, _ => .next s

/-! ### Wakes -/

/-- A read of the STATE word is due. -/
def due (clk : Nat) (at_ : Option Nat) : Bool := match at_ with | some t => decide (t ≤ clk) | none => false

/-- The wait on the STATE word of a record ends, or goes on (R263, R264). -/
def State.stillWaits (s : State) (node die : Nat) (p : Spot) (w : Word) (wait : Option Nat → WSt) : State :=
  match s.lookState node die p w with
  | (s, .busy) => s
  | (s, .kill c) => s.killNode node c
  | (s, .differs) => s.modWeaver node die fun x => { x with st := .read }
  | (s, .same) =>
    let (s, at_) := s.armState node die p w
    s.modWeaver node die fun x => { x with st := wait at_, recAt := p, recStale := false }

/-- A weaver's monitor is given up, and it looks at the record again. -/
def State.lookAgain (s : State) (node die : Nat) (st : WSt) : State :=
  (s.withdrawMons fun m => m == .weaver node die).modWeaver node die fun w => { w with st }

/-- WEAVER_DEFER_WAKE (R263): the monitor of a weaver that waits on a deferred record has fired, or the read that is due finds STATE
changed, and the record is read again. While the record's page cannot be read, the wait goes on. -/
def execWeaverDeferWake (node die : Nat) (s : State) : Host.Outcome State Fault Refusal :=
  match s.weaver? node die with
  | none => .next s
  | some (n, w) =>
    match w.st, w.defer with
    | .deferWait none, _ =>
      .next (if s.monArmed (.weaver node die) && !w.recStale then s else s.lookAgain node die .read)
    | .deferWait at_, d :: _ =>
      if !due s.clk at_ then .next s
      else
        match s.reach (weaverFrom n die) (n.recVa d.k) true with
        | (s, .spot p) => .next (s.stillWaits node die p d.w .deferWait)
        | (s, .kill c) => .next (s.killNode node c)
        | (s, .busy) => .next s
        | (s, .zero) | (s, .pause _) => .next (s.modWeaver node die fun w => { w with st := .deferWait (some (s.clk + 1024)) })
    | _, _ => .next s

/-- WEAVER_NONOWNER_WAIT (R257): after 1,024 cycles the record is read again. -/
def execWeaverNonownerWait (node die : Nat) (s : State) : Host.Outcome State Fault Refusal :=
  match s.weaver? node die with
  | none => .next s
  | some (_, w) =>
    match w.st with
    | .nonowner at_ => if at_ ≤ s.clk then .next (s.modWeaver node die fun w => { w with st := .read }) else .next s
    | _ => .next s

/-- The weaver's entry has not been posted yet (R264, R305). -/
def State.unposted (s : State) (p : Nat) (agent : FAgent) : Bool := (s.part p).posts.any fun e => e.agent == agent

/-- WEAVER_REPAIR_WAKE (R264): the entry has been posted, and software has rewritten STATE, or has resolved the entry of an unmapped
record. -/
def execWeaverRepairWake (node die : Nat) (s : State) : Host.Outcome State Fault Refusal :=
  match s.weaver? node die with
  | none => .next s
  | some (n, w) =>
    match w.st with
    | .repair f none =>
      .next (if !s.monArmed (.weaver node die) then s.modWeaver node die fun w => { w with st := .read }
        else if w.recStale then s.lookAgain node die (.repair f (some s.clk)) else s)
    | .repair f at_ =>
      if s.unposted n.part (.weaver node die) || !due s.clk at_ then .next s
      else
        match s.recReach n die w with
        | (s, .spot p) => .next (s.stillWaits node die p f (.repair f))
        | (s, .kill c) => .next (s.killNode node c)
        | (s, _) => .next s
    | .resume =>
      if s.faultOpen n.part (.weaver node die) then .next s else .next (s.modWeaver node die fun w => { w with st := .read })
    | _ => .next s

end Sys2Proof.Machine
end

