-- ==== Sys2Proof/Machine/NodeOps.lean ====
section
/-!
DEFINITION. Nodes and arenas: start, birth, kill, shakeout and retirement (spec/16_tensor_launch.md R249–R252, R267;
spec/19_queues_nodes_arenas.md R302, R303, R308–R311; spec/24_appendix_grammar.md R361; spec/22_fabric.md R350).
An event that is not enabled leaves the state unchanged.
-/

namespace Sys2Proof.Machine

/-! ### Descriptors -/

/-- Three bytes of a word, as the fields of the copy, matrix and vector roles. -/
def byRole (x : Nat) : Nat × Nat × Nat := (x % 256, x / 2 ^ 8 % 256, x / 2 ^ 16 % 256)

/-- The launch descriptor of 192 bytes (R249). -/
def ldescOf (b : List Byte) : LDesc :=
  let mode := blockField b 0x28 4
  { code := blockField b 0 8, entry := (blockField b 8 4, blockField b 0xC 4, blockField b 0x10 4), psz := blockField b 0x14 4
    gcnt := byRole (blockField b 0x18 4), regs := byRole (blockField b 0x1C 4), scr := blockField b 0x20 4
    tpt := blockField b 0x24 4, sd := mode % 256, rw := mode.testBit 8, arsz := blockField b 0x2C 4, tens := blockField b 0x30 8
    args := BitVec.ofNat 64 (blockField b 0x38 8), opds := (List.range 6).map fun i => blockField b (0x40 + 8 * i) 8
    hoops := (List.range 8).map fun i => BitVec.ofNat 64 (blockField b (0x70 + 8 * i) 8), priv := blockField b 0xB0 8 }

/-- The entry point and the allotment of a role fit its group count (R249). -/
def roleOk (cnt entry n : Nat) : Bool :=
  decide (cnt ≤ 16) && (if cnt = 0 then n == 0 else entry % 4 == 0 && decide (1 ≤ n) && decide (n ≤ 32))

/-- A hoop word keeps R250 by itself. -/
def hoopWordOk (w : DWord) (scr : Nat) : Bool :=
  let x := w.toNat
  let off := x % 2 ^ 20
  let ssz := x / 2 ^ 20 % 2 ^ 20
  if w.getLsbD 44 then
    x / 2 ^ 45 == 0 && off % 16 == 0 && ssz != 0 && ssz % 16 == 0 && decide (off + ssz * (x / 2 ^ 40 % 16 + 1) ≤ scr)
  else x == 0

/-- The slots of no two hoops overlap (R250). -/
def hoopsApart : List Hoop → Bool
  | [] => true
  | h :: r =>
    r.all (fun k => decide (h.off + h.ssz * h.nslot ≤ k.off) || decide (k.off + k.ssz * k.nslot ≤ h.off)) && hoopsApart r

/-- The launch descriptor keeps every rule of R249 and R250. -/
def ldescOk (b : List Byte) : Bool :=
  let d := ldescOf b
  let total := d.gcnt.1 + d.gcnt.2.1 + d.gcnt.2.2
  d.code % 128 == 0 && d.psz % 4 == 0
  && (blockField b 0x18 4 &&& 0xFFE0E0E0) == 0 && blockField b 0x1C 4 / 2 ^ 24 == 0
  && roleOk d.gcnt.1 d.entry.1 d.regs.1 && roleOk d.gcnt.2.1 d.entry.2.1 d.regs.2.1 && roleOk d.gcnt.2.2 d.entry.2.2 d.regs.2.2
  && decide (1 ≤ total) && decide (total ≤ 16) && decide (d.scr ≤ 0x100000) && decide (1 ≤ d.tpt) && decide (d.tpt ≤ 65536)
  && blockField b 0x28 4 / 2 ^ 9 == 0 && decide (d.arsz ≤ 32768) && d.tens % 64 == 0 && d.opds.all (fun o => o % 64 == 0)
  && d.hoops.all (fun w => hoopWordOk w d.scr) && hoopsApart ((hoopsOf d.hoops).map (·.2))
  && d.priv % 128 == 0 && decide (d.priv < 2 ^ 55) && (d.psz != 0 || d.priv == 0) && blockField b 0xB8 8 == 0

/-- Extents of a tensor descriptor: EXTd and TEXTd (R251). -/
def tensorExt (b : List Byte) (d : Nat) : Nat × Nat := (blockField b (0x10 + 4 * d) 4, blockField b (0x20 + 4 * d) 4)

/-- The tensor descriptor of 64 bytes (R251, R252). -/
def tensorOf (b : List Byte) : Tensor :=
  let ctl := blockField b 8 4
  let rank := ctl / 2 ^ 8 % 8
  let es := (List.range rank).map (tensorExt b)
  let bits := match Fmt.ofCode (ctl % 32) with | some f => f.bits | none => 0
  let tb := (es.map (·.2)).foldl (· * ·) 1 * bits / 8
  let dims := es.map fun e => e.1 / e.2
  let tstr := blockField b 0xC 4
  { base := blockField b 0 8, fmt := ctl % 32, rank, norep := ctl.testBit 16, tb, tstr := if tstr = 0 then tb else tstr, dims
    ntiles := dims.foldl (· * ·) 1, recs := blockField b 0x30 8, nrec := blockField b 0x38 4, repstr := blockField b 0x3C 4 }

/-- The tensor descriptor keeps every rule of R251 and R252. -/
def tensorOk (b : List Byte) : Bool :=
  let ctl := blockField b 8 4
  let t := tensorOf b
  let bits := match Fmt.ofCode t.fmt with | some f => f.bits | none => 0
  let tbits := (((List.range t.rank).map (tensorExt b)).map (·.2)).foldl (· * ·) 1 * bits
  t.base % 128 == 0 && decide (t.base < 2 ^ 56) && (ctl &&& 0xFFFEF8E0) == 0 && decide (1 ≤ t.rank) && decide (t.rank ≤ 4)
  && decide (t.fmt ≤ 0x14)
  && (List.range 4).all (fun d =>
    let (e, x) := tensorExt b d
    if d < t.rank then e != 0 && x != 0 && e % x == 0 else e == 0 && x == 0)
  && tbits % 1024 == 0 && decide (t.ntiles < 2 ^ 32) && t.tstr % 128 == 0 && decide (t.tb ≤ t.tstr)
  && t.recs % 32 == 0 && decide (1 ≤ t.nrec)

/-- The window table of 128 bytes keeps R361. -/
def windowsOk (b : List Byte) : Bool :=
  (List.range 8).all fun i =>
    let base := blockField b (16 * i) 8
    base / 2 ^ 56 % 2 ^ 7 == 0 && base % 4 == 0 && blockField b (16 * i + 12) 4 == 0

/-- Base and length of the windows (R361). -/
def windowsOf (b : List Byte) (code : Nat) : NMap (Nat × Nat) :=
  (List.range 8).map fun i =>
    let base := blockField b (16 * i) 8
    let addr := base % 2 ^ 56
    (i, ((if base.testBit 63 then (code + addr) % 2 ^ 56 else addr), blockField b (16 * i + 8) 4))

/-- What the reads of a starting node give. -/
inductive NodeRead where
  | ok (d : LDesc) (t : Tensor) (w : NMap (Nat × Nat))
  /-- Cause 0x120. -/
  | bad
  | pause (code : Nat) (va : BitVec 56)
  | busy
  deriving DecidableEq, Repr

/-- Go on with the bytes of a read, or end with what ended it. -/
def andThen (x : State × Fetched) (k : State → List Byte → State × NodeRead) : State × NodeRead :=
  match x with
  | (s, .bytes b) => k s b
  | (s, .pause c va) => (s, .pause c va)
  | (s, .kill _) => (s, .bad)
  | (s, .busy) => (s, .busy)

/-- Where the reads of a starting node come from (R367). -/
def Node.readFrom (n : Node) : From := { core := none, cluster := 0, part := n.part, lid := n.lid }

/-- The bytes of a descriptor that a starting node has read already. -/
def State.nodeGot (s : State) (id : Nat) (k : Nat × Nat) : Option (List Byte) :=
  (s.node? id).bind fun n => (n.got.find? fun x => x.1 == k).map (·.2)

/-- One part of a descriptor within a line, read once: a part that pauses is read again alone (R249, R367). -/
def State.nodePart (s : State) (n : Node) (k : Nat × Nat) : State × Fetched :=
  match s.nodeGot n.id k with
  | some b => (s, .bytes b)
  | none =>
    match s.agentPart (.node n.id) n.readFrom (BitVec.ofNat 56 k.1) k.2 with
    | (s, .bytes b) => (s.modNode n.id fun m => { m with got := (k, b) :: m.got }, .bytes b)
    | x => x

/-- The parts of a descriptor in order. -/
def State.nodeParts (s : State) (n : Node) : List (Nat × Nat) → List Byte → State × Fetched
  | [], acc => (s, .bytes acc)
  | k :: r, acc =>
    match s.nodePart n k with
    | (s, .bytes b) => s.nodeParts n r (acc ++ b)
    | x => x

/-- A descriptor of a starting node. -/
def State.nodeBytes (s : State) (n : Node) (va len : Nat) : State × Fetched := s.nodeParts n (partsOf va len) []

/-- The operand tensors are read and checked (R249). -/
def State.readOperands (s : State) (n : Node) (d : LDesc) (t : Tensor) (w : NMap (Nat × Nat)) : List Nat → State × NodeRead
  | [] => (s, .ok d t w)
  | o :: r =>
    if o = 0 then s.readOperands n d t w r
    else
      match s.nodeBytes n o 64 with
      | (s, .bytes b) => if tensorOk b then s.readOperands n d t w r else (s, .bad)
      | (s, .pause c va) => (s, .pause c va)
      | (s, .kill _) => (s, .bad)
      | (s, .busy) => (s, .busy)

/-- The reads of a starting node: descriptor, window table, launch tensor, operand tensors (R249, R361, R367). -/
def State.readNode (s : State) (n : Node) : State × NodeRead :=
  if n.ldesc % 64 ≠ 0 then (s, .bad)
  else
    andThen (s.nodeBytes n n.ldesc 192) fun s b =>
      if !ldescOk b then (s, .bad)
      else
        let d := ldescOf b
        andThen (s.nodeBytes n ((d.code + 2 ^ 56 - 128) % 2 ^ 56) 128) fun s wb =>
          if !windowsOk wb then (s, .bad)
          else
            andThen (s.nodeBytes n d.tens 64) fun s tb =>
              if tensorOk tb then s.readOperands n d (tensorOf tb) (windowsOf wb d.code) d.opds else (s, .bad)

/-! ### Start -/

/-- Two byte intervals overlap. -/
def overlaps (a b : Nat × Nat) : Bool := decide (a.1 < b.1 + b.2) && decide (b.1 < a.1 + a.2)

/-- Node N conflicts with an earlier node E (R302). -/
def conflicts (e n : Node) : Bool :=
  e.dom == n.dom
  && (e.writes.any (fun a => n.reads.any (overlaps a)) || e.reads.any (fun a => n.writes.any (overlaps a))
    || e.writes.any fun a => n.writes.any (overlaps a))

/-- Nodes that entered the matcher before a node. -/
def State.earlier (s : State) (n : Node) : List Node := ((s.part n.part).matcher.takeWhile (· != n.id)).filterMap s.node?

/-- The PA[51:21] that entry g of a partition's pool list holds (R308). -/
def State.poolEntry (s : State) (p g : Nat) : Nat := (s.homeWord ((s.part p).plBase.toNat % 2 ^ 52 + 4 * g)).toNat % 2 ^ 31

/-- What a read of a partition's pool list meets, or 0 (R212, R218, R308). -/
def State.poolCause (s : State) (p : Nat) : Nat :=
  (((spanLines ((s.part p).plBase.toNat % 2 ^ 52) (4 * (s.part p).plCnt.toNat)).map fun x => s.readCause x.1).find? (· != 0)).getD 0

/-- The memory and die behind a granule are ready: its vault, or its far channels, over which its lines are spread (R209, R324). -/
def State.granuleReady (s : State) (g : Nat) : Bool :=
  let pa := g * 2 ^ 21
  if pa < vaultEnd then s.vrdy.getLsbD (pa / 2 ^ 31) && s.rdy.getLsbD (pa / 2 ^ 31 / 21)
  else s.frdy.toNat % 2 ^ 48 == 2 ^ 48 - 1 && s.rdy.toNat % 16 == 15

/-- Every die, vault and channel that backs a partition's clusters and its arena pool is ready, and the queue engine (R324); of a pool list
that cannot be read, the node that starts gets the cause. -/
def State.backed (s : State) (p : Nat) : Bool :=
  s.rdy.getLsbD 4
  && (List.range 84).all (fun c => !(s.part p).pclus.getLsbD c || (s.rdy.getLsbD (dieOf c) && s.vrdy.getLsbD c))
  && (s.poolCause p != 0 || (List.range (s.part p).plCnt.toNat).all fun g => s.granuleReady (s.poolEntry p g))

/-- FQCTL admits nodes (R306). -/
def Part.fqOn (p : Part) : Bool := p.fqCtl.getLsbD 7 && decide (4 ≤ p.fqCtl.toNat % 16) && decide (p.fqCtl.toNat % 16 ≤ 12)

/-- A partition that admits nodes (R262, R279, R290, R306, R324). -/
def State.admitsNodes (s : State) (p : Nat) : Bool :=
  let pt := s.part p
  pt.resident && pt.ptroot.getLsbD 0 && pt.fqOn && pt.pclus.toNat % 2 ^ 84 != 0 && s.backed p

/-- The next launch id, skipping 0 (R303). -/
def nextLid (l : Word) : Word := if l + 1 = 0 then 1 else l + 1

/-- The four weavers begin (R257, R303). -/
def State.runNode (s : State) (n : Nat) : State :=
  s.modNode n fun n => { n with st := .running, weavers := (List.range 4).map fun d => (d, {}) }

/-- Constant caches lose lines, and what has been read of them for an LDC brings them back no more (R131, R310). -/
def State.dropConst (s : State) (p : Nat → Bool) : State :=
  { s with
    cores := s.cores.map fun c => (c.1, { c.2 with ccache := c.2.ccache.filter fun x => !p x.1 })
    outst := s.outst.map fun e =>
      if e.2.kind = .ldc then
        (e.1, { e.2 with pieces := e.2.pieces.map fun x => if p x.line then { x with data := none } else x })
      else e }

/-- A node without conflicts enters STARTING: launch id, PCFG latched, constant caches invalidated (R131, R303). -/
def State.enterStarting (s : State) (n : Node) : State :=
  let lid := nextLid s.lastLid
  let cfg := (s.part n.part).pcfg
  ({ s with lastLid := lid } : State).dropConst (fun _ => true) |>.modNode n.id fun n =>
    { n with st := .starting, lid, srbase := (cfg >>> 32).setWidth 32, chksb := cfg.getLsbD 0 }

/-- A STARTING node reads its descriptors; without an arena it runs at once (R303, R367). -/
def State.startReads (s : State) (n : Node) : State :=
  match s.readNode n with
  | (s, .busy) => s
  | (s, .bad) => s.killNode n.id 0x120
  | (s, .pause c va) =>
    (s.modNode n.id fun n => { n with paused := true }).postFault n.part (agentFault c 7 n.lid va 0 n.id (.node n.id))
  | (s, .ok d t w) =>
    let s := s.modNode n.id fun n => { n with desc := d, tensor := t, windows := w, ready := true }
    if d.arsz = 0 then s.runNode n.id else s

/-- NODE_START (R303): a node without conflicts gets its launch id and latches PCFG; a STARTING node reads its descriptors. -/
def execNodeStart (node : Nat) (s : State) : Host.Outcome State Fault Refusal :=
  match s.node? node with
  | none => .next s
  | some n =>
    match n.st with
    | .waiting =>
      if !s.admitsNodes n.part || (s.earlier n).any fun e => conflicts e n then .next s
      else if s.poolCause n.part ≠ 0 then .next (s.killNode node (s.poolCause n.part))
      else .next (s.enterStarting n)
    | .starting => if n.ready || n.paused || !(s.part n.part).resident then .next s else .next (s.startReads n)
    | _ => .next s

/-! ### Arenas -/

/-- The free arena index that has been free longest (R308). -/
def Part.freeIndex (p : Part) : Option Nat :=
  match (List.range 256).find? fun i => !p.used.contains i with
  | some i => some i
  | none => p.freed.head?

/-- The first free entries of the pool list (R308). -/
def Part.freeGranules (p : Part) (n : Nat) : List Nat :=
  (((List.range p.plCnt.toNat).filter fun g => !p.taken.any fun t => t.1 == g)).take n

/-- Lines of a list of granules. -/
def inGranules (gs : List Nat) (line : Nat) : Bool := gs.contains (line / 2 ^ 14)

/-- A slice without some of the requests that wait there, and without some lines. -/
def Slice.without (sl : Slice) (r : Req → Bool) (p : Nat → Bool) : Slice :=
  let keep (rs : List Req) : List Req := rs.filter fun x => !r x
  { sl with
    sets := sl.sets.map fun x => (x.1, x.2.filter fun l => !p l.line)
    holders := sl.holders.filter fun x => !p x.1
    queues := sl.queues.map fun q => (q.1, keep q.2)
    xbar := sl.xbar.map fun q => (q.1, keep q.2)
    arrivals := sl.arrivals.filter fun x => !p x.2.line
    blocked := sl.blocked.map fun b => { b with first := b.first.filter fun x => !r x, chain := keep b.chain }
    held := sl.held.map fun x => { x with reqs := keep x.reqs } }

/-- Drop lines unwritten from every L1, slice and replica, with the write-backs of them, wherever those are (R285, R311). One that
crosses between dies ends when it arrives. -/
def State.dropLines (s : State) (p : Nat → Bool) : State :=
  let lost (r : Req) : Bool := r.body.isWb && p r.line
  let ops := (s.outst.filter fun e => e.2.kind == .wb && e.2.pieces.any fun x => p x.line).map (·.1)
  let s : State := { s with
    net := s.net.filter fun x => !lost x.2
    cores := s.cores.map fun e => (e.1, { e.2 with l1 := e.2.l1.map fun x => (x.1, x.2.filter fun l => !p l.line) })
    slices := s.slices.map fun e => (e.1, e.2.without lost p) }
  ops.foldl (fun s id => s.forcePiece id 0) s

/-- Granules are scrubbed to zero at their homes, and no cache holds a line of them (R310): as by any write, reservations on
their lines end and their monitors are evaluated. -/
def State.scrub (s : State) (gs : List Nat) : State :=
  let s := (s.dropLines (inGranules gs)).dropConst (inGranules gs)
  let s : State := { s with
    cores := s.cores.map fun c => (c.1, { c.2 with icache := c.2.icache.filter fun x => !inGranules gs x.1 })
    mem := s.mem.filter fun c => !inGranules gs (c.1 / 128)
    poison := s.poison.filter fun l => !inGranules gs l
    slices := s.slices.map fun e => (e.1, { e.2 with resv := e.2.resv.filter fun r => !inGranules gs r.2 }) }
  let watched := s.slices.flatMap fun e =>
    ((e.2.mons.filter fun m => inGranules gs (m.2.word / 128)).map fun m => (e.1, m.2.word / 128)).eraseDups
  watched.foldl (fun s x => s.evalMons x.1 x.2) s

/-- The granule map as one number of u32 entries (R310). -/
def mapWord (gs : List Nat) : Nat := (gs.zipIdx).foldl (fun n x => n + x.1 * 2 ^ (32 * x.2)) 0

/-- What the reads of pool entries give (R308). -/
inductive PoolRead where
  | granules (gs : List Nat)
  | kill (code : Nat)
  | busy
  deriving DecidableEq, Repr

/-- The entries of the pool list are read at their homes (R308). -/
def State.readPool (s : State) (n : Node) : List Nat → State × PoolRead
  | [] => (s, .granules [])
  | g :: r =>
    let pa := (s.part n.part).plBase.toNat % 2 ^ 52 + 4 * g
    match s.agentLine (.node n.id) (pa / 128) .other with
    | (s, .kill c) => (s, .kill c)
    | (s, .busy) => (s, .busy)
    | (s, .line d) =>
      match s.readPool n r with
      | (s, .granules gs) => (s, .granules (lineGet d (pa % 128) 4 % 2 ^ 31 :: gs))
      | x => x

/-- The arena of a node takes its index and its granules, and the node runs (R310). -/
def State.arenaLive (s : State) (n : Node) (idx : Nat) (es gs : List Nat) : State :=
  let (w0, w1) := (s.part n.part).arena.getD idx (0, 0)
  let gen := w0.toNat / 2 ^ 48 % 256
  let word := BitVec.ofNat 64 (2 ^ 63 + gen * 2 ^ 48 + gs.length * 2 ^ 32 + n.lid.toNat)
  let s := s.modPart n.part fun p =>
    { p with arena := p.arena.set idx (word, w1), granules := p.granules.set idx gs
             taken := p.taken ++ es.map fun g => (g, idx)
             used := if p.used.contains idx then p.used else idx :: p.used, freed := p.freed.filter (· != idx) }
  (s.modNode n.id fun n => { n with arena := some idx }).runNode n.id

/-- The arena of a node is born with an index and pool entries (R310): the granules are scrubbed, the map is written, and the
table entry is then live. A map in a shadow region ends the node (R218). -/
def State.birth (s : State) (n : Node) (idx : Nat) (es : List Nat) : State :=
  let map := ((s.part n.part).arena.getD idx (0, 0)).2.toNat % 2 ^ 52
  match s.readPool n es with
  | (s, .kill c) => s.killNode n.id c
  | (s, .busy) => s
  | (s, .granules gs) =>
    if s.inShadow map || s.inShadow (map + 4 * gs.length - 1) then s.killNode n.id 0x0C2
    else
      match s.tryWriteN (.node n.id) map (4 * gs.length) (mapWord gs) .other with
      | (s, false) => s
      | (s, true) => (s.scrub gs).arenaLive n idx es gs

/-- ARENA_BIRTH (R303, R308, R310): a STARTING node takes its granules, or waits for them. -/
def execArenaBirth (node : Nat) (s : State) : Host.Outcome State Fault Refusal :=
  match s.node? node with
  | none => .next s
  | some n =>
    let p := s.part n.part
    if n.st ≠ .starting ∨ n.ready = false ∨ n.desc.arsz = 0 ∨ p.resident = false then .next s
    else if p.plCnt.toNat < n.desc.arsz then .next (s.killNode node 0x122)
    else
      let es := p.freeGranules n.desc.arsz
      match p.freeIndex with
      | some idx => if es.length < n.desc.arsz then .next s else .next (s.birth n idx es)
      | none => .next s

/-! ### Kill -/

def State.teamsOf (s : State) (node : Nat) : List Team := (s.teams.filter fun t => t.2.node == node).map (·.2)

/-- A team of a killed node can be discarded: its groups are at run ends and none of its operations is under way (R303). -/
def State.teamDown (s : State) (t : Team) : Bool :=
  match t.core? with
  | some core => t.groups.all Group.atEnd && s.quiet t.id && (s.core core).mx.accq.all fun _ => (s.core core).mx.owner != some t.id
  | none => s.quiet t.id

/-- Waiters of a team leave the FIFOs and barriers of a partition's links. -/
def LinkSt.without (l : LinkSt) (team : Nat) : LinkSt :=
  { l with waiters := l.waiters.map fun e => (e.1, e.2.filter fun w => w.g.team != team)
           bars := l.bars.map fun e => (e.1, { e.2 with waiters := e.2.waiters.filter fun w => w.g.team != team }) }

/-- A team is discarded with its frame, its commands and its entries (R303). -/
def State.discard (s : State) (t : Team) : State :=
  let s := match t.place with
    | .queued c => s.unqueue c t.id
    | _ => s
  let s : State := { s with clusters := s.clusters.map fun e =>
      (e.1, { e.2 with links := e.2.links.without t.id
                       out := e.2.out.map fun o => (o.1, { o.2.without t.id with dq := o.2.dq.filter (· != t.id) }) }) }
  let s := s.withdrawMons fun w => match w with | .group g _ | .team g _ => g.team == t.id | _ => false
  let s := s.clearTeamResv t.id
  let s := { s with teams := s.teams.erase t.id }
  let core := match t.place with | .resident c | .restoring c => some c | _ => none
  match core with
  | some c => (s.modCore c fun k => { k with cq := k.cq.filter fun e => e.team != t.id }).release c t.id
  | none => s

/-- The post slots of a killed node (R350). -/
def State.killSlots (s : State) (n : Node) : State :=
  let mine := (s.part n.part).slots.filter fun e => e.2.node == n.id && e.2.st != .free && !e.2.orphan
  mine.foldl (fun s e =>
    if e.2.st.terminal then s.modSlot n.part e.1 fun _ => {}
    else
      let s := s.modSlot n.part e.1 fun p => { p with orphan := true }
      if e.2.st = .started then s else s.tellPrim (.cancel e.2.comm e.2.tag)) s

/-- Entries of a killed node are watched no more, and those that wait to be posted are dropped (R307). -/
def State.dropEntries (s : State) (n : Node) : State :=
  let keep (e : FaultEnt) : Bool := e.node != n.id || (match e.agent with | .coll _ | .head _ | .packet _ => true | _ => false)
  let gone := ((s.part n.part).watch.filter fun e => !keep e.2).map (·.1)
  let s := s.withdrawMons fun w => match w with | .fault p i => p == n.part && gone.contains i | _ => false
  s.modPart n.part fun p =>
    { p with posts := p.posts.filter keep, watch := p.watch.filter (fun e => keep e.2)
             polls := p.polls.filter fun e => !gone.any fun i => i.toNat == e.1 }

/-- The first claim of a killed node whose LIVE has not been adjusted: weaver, record, teams not retired (R267). -/
def Node.openClaim (n : Node) : Option (Nat × Nat × Nat) :=
  n.weavers.findSome? fun w => w.2.claims.head?.map fun c => (w.1, c.1, c.2.1 - c.2.2)

/-- A claim is closed. -/
def State.closeClaim (s : State) (n : Node) (w : Nat) : State :=
  s.modNode n.id fun n => { n with weavers := n.weavers.modify w fun w => { w with claims := w.claims.tail } }

/-- LIVE of a claimed record returns to the value it would hold without the claim's unretired teams (R267). A record that can no
longer be reached is left as it is. -/
def State.adjustLive (s : State) (n : Node) (w rec_ k : Nat) : State :=
  if k = 0 then s.closeClaim n w
  else
    match s.reach (weaverFrom n w) (n.recVa rec_) true with
    | (s, .spot p) =>
      match s.spotRmw (.node n.id) { p with pa := p.pa + 0x18 } 0 4 (2 ^ 32 - k) with
      | (s, .busy) => s
      | (s, _) => s.closeClaim n w
    | (s, .busy) => s
    | (s, _) => s.closeClaim n w

/-- A node has retired, and its shakeout begins: messages to its launch at the heads of FIFOs are dropped (R199, R267, R311). -/
def State.toShakeout (s : State) (node part : Nat) : State :=
  (s.modNode node fun n => { n with st := .shakeout }).settleLinks part

/-- NODE_KILL (R303): a KILLING node's weavers, engines and teams stop; its teams are discarded at their run ends; LIVE is
adjusted, claim by claim; then it enters SHAKEOUT. -/
def execNodeKill (node : Nat) (s : State) : Host.Outcome State Fault Refusal :=
  match s.node? node with
  | none => .next s
  | some n =>
    if n.st ≠ .killing ∨ (s.part n.part).resident = false then .next s
    else
      let ts := s.teamsOf node
      let s := ts.foldl (fun s t => (s.dropRefused t.id).stopAcc t) s
      let s := (s.killSlots n).dropEntries n
      let s := s.withdrawMons fun w => match w with | .weaver k _ => k == node | _ => false
      match ts.filter s.teamDown with
      | t :: _ => .next (s.discard t)
      | [] =>
        if !ts.isEmpty then .next s
        else
          match n.openClaim with
          | some (w, at_, k) => .next (s.adjustLive n w at_ k)
          | none => .next (s.toShakeout node n.part)

/-! ### Retirement -/

/-- NODE_RETIRE (R303): all four weavers are done and every team has retired. -/
def execNodeRetire (node : Nat) (s : State) : Host.Outcome State Fault Refusal :=
  match s.node? node with
  | none => .next s
  | some n =>
    if n.st = .running && (s.part n.part).resident && n.weavers.all (fun w => w.2.st == .done) && (s.teamsOf node).isEmpty then
      .next (s.toShakeout node n.part)
    else .next s

/-- The arena of a node goes (R311 steps 2 to 4). -/
def State.dropArena (s : State) (n : Node) (idx : Nat) : State :=
  let s := s.dropLines (inGranules ((s.part n.part).granules.getD idx []))
  s.modPart n.part fun p =>
    let (w0, w1) := p.arena.getD idx (0, 0)
    let gen := (w0.toNat / 2 ^ 48 + 1) % 256
    { p with arena := p.arena.set idx (BitVec.ofNat 64 (gen * 2 ^ 48 + w0.toNat % 2 ^ 48), w1), granules := p.granules.erase idx
             taken := p.taken.filter (fun t => t.2 != idx), freed := p.freed ++ [idx] }

/-- A COPY packet that the node has posted by QPOST has not completed: one that has started, or one that has not, unless the node has
been killed, so that it is stopped when it starts (R311 step 1).
DEDUCED, log 77: the shakeout waits for a packet that has not started. -/
def State.copiesOpen (s : State) (node : Nat) (n : Node) : Bool :=
  (s.pkts.any fun e => e.2.poster == some node && (match e.2.st with | .copy _ => true | _ => false))
  || (n.cause.isNone && (s.part n.part).queues.any fun q => q.2.posted.any fun e => e.2 == node)

/-- SHAKEOUT (R311): once the node's copies have ended, the arena's lines are dropped unwritten, GEN advances and LIVE clears, the
granules return, the node leaves the matcher, and its packet completes. -/
def execShakeout (node : Nat) (s : State) : Host.Outcome State Fault Refusal :=
  match s.node? node with
  | none => .next s
  | some n =>
    if n.st ≠ .shakeout ∨ (s.teamsOf node).isEmpty = false ∨ (s.part n.part).resident = false ∨ s.copiesOpen node n = true then .next s
    else
      let s := match n.arena with
        | some i => s.dropArena n i
        | none => s
      let s := s.modPart n.part fun p => { p with matcher := p.matcher.filter (· != node) }
      .next ((s.modNode node fun n => { n with st := .retired, arena := none }).complete n.pkt n.sts)

end Sys2Proof.Machine
end

