-- ==== Sys2Proof/Machine/Shootdown.lean ====
section
/-!
DEFINITION. The page walker and the retirement of a mapping (spec/18_package_memory_translation.md R277–R286).
An event that is not enabled leaves the state unchanged.
-/

namespace Sys2Proof.Machine

/-- PAGE_WALK (R280): the walker of a die reads the table entries that its walk cache does not hold at their homes, and a leaf
enters the die TLB. A leaf with V clear, or a malformed one, is not cached. -/
def execPageWalk (die part : Nat) (va : BitVec 56) (s : State) : Host.Outcome State Fault Refusal :=
  if 4 ≤ die || 8 ≤ part || !(s.part part).ptroot.getLsbD 0 || decide (9 ≤ va.toNat / 2 ^ 52)
      || (tlbFind (s.die die).tlb part va).isSome then .next s
  else
    let (w, seen) := s.walk die part va
    let s := s.noteWalk die part seen
    match w with
    | .leaf e => .next (s.modDie die fun d => { d with tlb := tlbAdd 16384 d.tlb e })
    | .busy line => .next (s.startFill line .other)
    | .err _ => .next s

/-! ### Shootdown -/

/-- A field of the shootdown block breaks the table of R284: VA and LEN are multiples of 64 KiB, SIG is 4-byte aligned, CTL's
reserved bits are zero, and the addresses are addresses of their spaces. -/
def Part.sdBad (p : Part) (ctl : Word) : Bool :=
  p.sdVa.toNat % 2 ^ 16 != 0 || decide (2 ^ 56 ≤ p.sdVa.toNat) || p.sdLen.toNat % 2 ^ 16 != 0 || p.sdSig.toNat % 4 != 0
  || decide (2 ^ 52 ≤ p.sdSig.toNat) || (p.sdOld != BitVec.allOnes 64 && decide (2 ^ 52 ≤ p.sdOld.toNat))
  || decide (4 ≤ ctl.toNat)

/-- A line of an L1 lies in the old range; with LEN zero the range is the partition's lines (R284, R285).
DEDUCED, log 40. -/
def Part.sdLine (p : Part) (part : Nat) (l : L1Line) : Bool :=
  p.sdOld != BitVec.allOnes 64
  && (if p.sdLen = 0 then l.part == part
      else decide (p.sdOld.toNat < 128 * l.line + 128) && decide (128 * l.line < p.sdOld.toNat + p.sdLen.toNat))

/-- Step 3 of R285 on the L1s: lines of the old range are written back, in the name of the partition, and invalidated. -/
def State.flushRange (s : State) (part : Nat) (drop : Bool) : State :=
  let p := s.part part
  s.cores.foldl (fun s e =>
    let ls := ((s.core e.1).l1.flatMap (·.2)).filter (p.sdLine part)
    let s := if drop then s else ls.foldl (fun s l => s.writeback e.1 noGroup { l with part }) s
    let s := ls.foldl (fun s l => s.modCore e.1 fun c => c.l1Drop l.line) s
    s.noInstall e.1 fun line => p.sdLine part { line, way := 0, data := 0, valid := 0, dirty := 0, cls := .other, part }) s

/-- The places of records that weavers and teams of a partition keep are translated again before their next use (R285 step 1). -/
def State.staleRecords (s : State) (part : Nat) : State :=
  { s with
    nodes := s.nodes.map fun n =>
      (n.1, if n.2.part = part then { n.2 with weavers := n.2.weavers.map fun w => (w.1, { w.2 with recStale := true }) } else n.2)
    teams := s.teams.map fun t => (t.1, if t.2.part = part then { t.2 with recStale := true } else t.2) }

/-- Steps 1 to 3 of R285, and the epoch's advance: what was translated before carries the old epoch. -/
def State.shootdown (s : State) (part : Nat) (drop : Bool) : State :=
  let p := s.part part
  let s := s.flushRange part drop
  let s :=
    if drop ∧ p.sdOld ≠ BitVec.allOnes 64 then
      s.dropLines fun line =>
        decide (p.sdOld.toNat < 128 * line + 128) && decide (128 * line < p.sdOld.toNat + p.sdLen.toNat)
    else s
  let hi := if p.sdLen = 0 then 2 ^ 64 else p.sdVa.toNat + p.sdLen.toNat
  let lo := if p.sdLen = 0 then 0 else p.sdVa.toNat
  ((s.dropTranslations part lo hi).staleRecords part).modPart part fun p => { p with epoch := p.epoch + 1 }

/-- A write of CTL of a partition's shootdown block (R284). -/
def State.writeSdCtl (s : State) (part : Nat) (ctl : Word) : State :=
  let p := s.part part
  if ctl.getLsbD 0 then
    if p.sdBusy then s
    else if p.sdBad ctl then s.modPart part fun p => { p with sdErr := true, sdBusy := false }
    else
      let s := s.modPart part fun p => { p with sdErr := false, sdBusy := true, sdDrop := ctl.getLsbD 1 }
      s.shootdown part (ctl.getLsbD 1)
  else s.modPart part fun p => { p with sdDrop := ctl.getLsbD 1 }

/-- SHOOTDOWN_GO (R284, R285): GO is written, with DROP or without. -/
def execShootdownGo (_port : Port) (part : Nat) (drop : Bool) (s : State) : Host.Outcome State Fault Refusal :=
  if part < 8 then .next (s.writeSdCtl part (if drop then 3 else 1)) else .next s

/-- An operation of the partition translated in an epoch before the present one has not performed: one of a lane or of an L1, or an
agent's access to another package (R285 steps 2 and 4). -/
def State.oldPending (s : State) (part : Nat) : Bool :=
  let old (epoch : Nat) : Bool := decide (epoch < (s.part part).epoch)
  (s.outst.any fun e =>
    e.2.part == part && old e.2.epoch && e.2.kind != .scratch && e.2.kind != .accrd && e.2.pieces.any fun p => !p.bound)
  || s.far.any fun x => x.part == some part && old x.epoch && x.done.isNone

/-- SHOOTDOWN_COMPLETE (R285 step 5): once no request of an old epoch remains, BUSY clears and the completion word rises by 1,
as a slice operation that writes; a word that is poisoned or lies in a shadow region stays as it is (R212, R218). -/
def execShootdownComplete (part : Nat) (s : State) : Host.Outcome State Fault Refusal :=
  let p := s.part part
  if !p.sdBusy || s.oldPending part then .next s
  else
    let done (s : State) : State := s.modPart part fun p => { p with sdBusy := false }
    let pa := p.sdSig.toNat
    if pa = 0 then .next (done s)
    else
      match s.paRmw (.shootdown part) pa 4 .other fun v => some ((v + 1) % 2 ^ 32) with
      | (s, .busy) => .next s
      | (s, _) => .next (done s)

end Sys2Proof.Machine
end

