-- ==== Sys2Proof/Machine/ControlSpace.lean ====
section
/-!
DEFINITION. Control space as the host ports and firmware write it (spec/18_package_memory_translation.md R270–R272, R279, R284;
spec/19_queues_nodes_arenas.md R289, R291, R292, R306, R308, R309, R313; spec/21_package_links_control.md R323, R327;
spec/22_fabric.md R330, R333, R340; spec/13_die_memory_system.md R211, R214, R218).
A write is taken byte by byte; a register keeps its reserved bits at zero.
-/

namespace Sys2Proof.Machine

/-- A request for global control that has no register (R323): a firmware image for slot A or B, or the reset of a die. -/
inductive MailReq where
  | update (slotB : Bool) (f : FwImage)
  | dieReset (die : Nat)
  deriving DecidableEq, Repr

end Sys2Proof.Machine

namespace Sys2Proof.Config

/-- The request for global control that the bytes of the mailbox hold, if any (R272, R323): the spec gives its form no layout.
A free value, log 32. -/
opaque mailRequest : List (Nat × Byte) → Option Machine.MailReq

end Sys2Proof.Config

namespace Sys2Proof.Machine

/-! ### CSEM and the fuse counter -/

/-- A write of CSEM by port 0. -/
def csemOf0 (e : Instr) : Bool :=
  match e with
  | .csemWrite .host0 _ => true
  | _ => false

/-- An event occurs behind the last write of CSEM by port 0 that still occurs in the cycle. -/
def behind0 (e : Instr) : List Instr → List Instr
  | [] => [e]
  | x :: r => if csemOf0 x && !r.any csemOf0 then x :: e :: r else x :: behind0 e r

/-- CSEM takes a write of a port (R323): OWNER in [1:0]; 1 in [2] clears the port's CERR. -/
def State.writeCsem (s : State) (port : Port) (i : Nat) (val : Word) : State :=
  let s := if val.getLsbD 2 then { s with cerr := s.cerr.filter (· != port) } else s
  let own := val.toNat % 4
  if own = i ∧ s.csem = 0 then { s with csem := i } else if own = 0 ∧ s.csem = i then { s with csem := 0 } else s

/-- CSEM_WRITE (R323): of two writes in one cycle that of port 0 is taken first. -/
def execCsemWrite (port : Port) (val : Word) (s : State) : Host.Outcome State Fault Refusal :=
  match semId port with
  | none => .next s
  | some i =>
    if port = .host1 ∧ s.agenda.any csemOf0 = true then .next { s with agenda := behind0 (.csemWrite port val) s.agenda }
    else .next (s.writeCsem port i val)

/-- PORT_RESET_RELEASE (R323): a hot reset, link-down or function-level reset of the owning port releases CSEM. -/
def execPortResetRelease (port : Port) (s : State) : Host.Outcome State Fault Refusal :=
  if semId port = some s.csem then .next { s with csem := 0 } else .next s

/-- FUSE_COUNTER_WRITE (R323, R327): the counter only rises, to at most 64. -/
def execFuseCounterWrite (port : Port) (val : Word) (s : State) : Host.Outcome State Fault Refusal :=
  if !s.mayGlobal port then .next (s.setCerr port)
  else if s.fuse < val.toNat ∧ val.toNat ≤ 64 then .next { s with fuse := val.toNat }
  else .next s

/-! ### Bytes of registers -/

/-- A register with byte i replaced, and its reserved bits, those outside the mask, at zero. -/
def byteSet {n : Nat} (w : BitVec n) (i : Nat) (b : Byte) (mask : BitVec n) : BitVec n :=
  ((w &&& ~~~(BitVec.ofNat n (255 * 2 ^ (8 * i)))) ||| BitVec.ofNat n (b.toNat * 2 ^ (8 * i))) &&& mask

def ones64 : DWord := BitVec.allOnes 64
def ones32 : Word := BitVec.allOnes 32

/-- A write of global control by a port (R323). -/
def State.global (s : State) (port : Port) (f : State → State) : State := if s.mayGlobal port then f s else s.setCerr port

/-! ### The partition block -/

/-- A byte of a queue descriptor (R292): RIDX is read only; CLR and WIDX have events of their own. The head is read anew. -/
def Queue.byte (q : Queue) (off : Nat) (b : Byte) : Queue :=
  if off < 8 then { q with base := byteSet q.base off b ones64, got := none }
  else if off < 10 then { q with ctl := byteSet q.ctl (off - 8) b 0x2FFFF#32, got := none }
  else q

/-- A byte of a partition block (R291). -/
def State.partByte (s : State) (port : Port) (p off : Nat) (b : Byte) : State :=
  let put := s.modPart p
  if off < 0x8 then put fun k => { k with ptroot := byteSet k.ptroot off b 0x000FFFFFFFFF8001#64 }
  else if off < 0x10 then put fun k => { k with pcfg := byteSet k.pcfg (off - 0x8) b 0xFFFFFFFF00000001#64 }
  else if off < 0x20 then
    s.global port fun s => s.modPart p fun k => { k with pclus := byteSet k.pclus (off - 0x10) b (BitVec.ofNat 128 (2 ^ 84 - 1)) }
  else if off < 0x40 then s
  else if off < 0x48 then put fun k => { k with sdVa := byteSet k.sdVa (off - 0x40) b ones64 }
  else if off < 0x50 then put fun k => { k with sdLen := byteSet k.sdLen (off - 0x48) b ones64 }
  else if off < 0x58 then put fun k => { k with sdOld := byteSet k.sdOld (off - 0x50) b ones64 }
  else if off = 0x58 then (if b.getLsbD 0 then s else put fun k => { k with sdDrop := b.getLsbD 1 })
  else if off < 0x60 then s
  else if off < 0x68 then put fun k => { k with sdSig := byteSet k.sdSig (off - 0x60) b ones64 }
  else if off < 0x80 then s
  else if off < 0x88 then put fun k => { k with fqBase := byteSet k.fqBase (off - 0x80) b ones64 }
  else if off < 0x8C then put fun k => { k with fqCtl := byteSet k.fqCtl (off - 0x88) b 0xFF8F#32 }
  else if off < 0xC0 then s
  else if off < 0xC8 then s.global port fun s => s.modPart p fun k => { k with plBase := byteSet k.plBase (off - 0xC0) b ones64 }
  else if off < 0xCC then s.global port fun s => s.modPart p fun k => { k with plCnt := byteSet k.plCnt (off - 0xC8) b ones32 }
  else if off < 0x1000 then s
  else if off < 0x1800 then put fun k => { k with queues := k.queues.update ((off - 0x1000) / 32) {} fun q => q.byte (off % 32) b }
  else if off < 0x2000 then s
  else if off < 0x3000 ∧ 8 ≤ off % 16 then
    put fun k => { k with arena := k.arena.update ((off - 0x2000) / 16) (0, 0) fun e =>
      (e.1, byteSet e.2 (off % 16 - 8) b 0x000FFFFFFFFFFFFF#64) }
  else s

/-! ### The package block -/

/-- A byte of FABEV (R333): FVEC is written, WDN clears where 1 is written, UP is read only. -/
def fabevByte (w : DWord) (i : Nat) (b : Byte) : DWord :=
  if i = 4 then byteSet w 4 b ones64
  else if i = 2 ∨ i = 3 then w &&& ~~~(BitVec.ofNat 64 (b.toNat * 2 ^ (8 * i)))
  else w

/-- A byte of a communicator's entry (R340); its creation sets its next tap number to 0, and nothing of an earlier communicator is left. -/
def State.commByte (s : State) (c off : Nat) (b : Byte) : State :=
  let (w0, w1) := s.comms.getD c (0, 0)
  let w0' := if off < 8 then byteSet w0 off b 0xF0000000_01FF03FF#64 else w0
  let w1' := if off < 8 then w1 else byteSet w1 (off - 8) b 0x000FFFFFFFFFFFFF#64
  let s := { s with comms := s.comms.set c (w0', w1') }
  if w0'.getLsbD 63 && !w0.getLsbD 63 then
    { s with seq := { s.seq with next := s.seq.next.set c 0 }, collIn := s.collIn.filter fun x => x.1.1 != c
             collFailed := s.collFailed.filter fun x => x.1 != c }
  else s

/-- A byte of a heat table entry: START, then RUN (R313). The word at offset 12 reads as zero and refuses no table.
DEDUCED, log 56: R313 does not say which of R7's two kinds of reserved field it is. -/
def HeatTable.byte (t : HeatTable) (i off : Nat) (b : Byte) : HeatTable :=
  let (st, run) := t.entry i
  if off < 8 then { t with ents := t.ents.set i (byteSet st off b ones64, run) }
  else if off < 12 then { t with ents := t.ents.set i (st, byteSet run (off - 8) b ones32) }
  else t

/-- A byte of the MSI-X tables; only the mask bit of vector control is kept. -/
def State.msixWrite (s : State) (off : Nat) (b : Byte) : State :=
  let v := if off % 16 < 12 then b else if off % 16 = 12 then b &&& 1 else 0
  { s with msix := NMap.set s.msix off v }.sendPending

/-- A byte of the package block (R272). -/
def State.packByte (s : State) (port : Port) (off : Nat) (b : Byte) : State :=
  if off < 0x28 then s
  else if off < 0x30 then
    s.global port fun s => { s with podcfg := (byteSet s.podcfg (off - 0x28) b 0x0000003FFFF803FF#64)
                                              ||| (s.podcfg &&& 0xFF00000000000000#64) }
  else if off < 0x38 then { s with fabev := fabevByte s.fabev (off - 0x30) b }
  else if off < 0x40 then s
  else if off < 0x48 then
    s.global port fun s => { s with staged := { s.staged with epoch := byteSet s.staged.epoch (off - 0x40) b ones64 } }
  else if off < 0x50 then
    s.global port fun s => { s with staged := { s.staged with period := byteSet s.staged.period (off - 0x48) b ones64 } }
  else if off < 0x400 then s
  else if off < 0x800 then s.global port fun s => { s with staged := s.staged.byte ((off - 0x400) / 16) (off % 16) b }
  else if off < 0x1000 then s
  else if off < 0x2000 then
    (if off % 8 < 2 then
      let n := (off - 0x1000) / 8
      s.setPmask n (byteSet (s.pmask.getD n 0) (off % 8) b (BitVec.allOnes 16))
    else s)
  else if off < 0x3000 then s.global port fun s => s.commByte ((off - 0x2000) / 16) (off % 16) b
  else if off < 0x8000 then s
  else if off < 0xC000 then s.msixWrite (off - 0x8000) b
  else s

/-! ### The die blocks -/

/-- A field of CLQUOTA above 16 is stored as 16 (R214). -/
def clampQuota (w : Word) : Word :=
  BitVec.ofNat 32 (((List.range 5).map fun i => min 16 (w.toNat / 2 ^ (5 * i) % 32) * 2 ^ (5 * i)).sum)

/-- SECMAP as the identity, which an absent register holds (log 6). -/
def identityMap : BitVec 128 := BitVec.ofNat 128 ((List.range 22).map fun i => i * 2 ^ (5 * i)).sum

/-- A byte of the die page: SECDIV and SECMAP, which firmware writes before the die reports ready (R211). -/
def State.diePage (s : State) (port : Port) (d off : Nat) (b : Byte) : State :=
  if port ≠ .firmware ∨ s.rdy.getLsbD d = true then s
  else if off < 4 then s.modDie d fun k => { k with secdiv := byteSet k.secdiv off b 0x7FFF#32 }
  else if off < 0x10 ∨ 0x40 ≤ off then s
  else
    s.modDie d fun k =>
      { k with secmap := k.secmap.update (off / 16 - 1) identityMap fun m => byteSet m (off % 16) b (BitVec.ofNat 128 (2 ^ 110 - 1)) }

/-- A die of which the ROM refused both images exposes only the recovery mailbox to the host (R326). -/
def State.hidden (s : State) (port : Port) (d : Nat) : Bool := port != .firmware && s.refused.contains d

/-- A byte of a die block (R272); the fields of CLQUOTA are cut when the whole write is there. -/
def State.dieByte (s : State) (port : Port) (d off : Nat) (b : Byte) : State :=
  if s.hidden port d then s
  else if off < 0x1000000 then s.diePage port d off b
  else if off < 0x2000000 then
    let i := (off - 0x1000000) / 2 ^ 16
    (if i < 66 ∧ off % 2 ^ 16 < 4 then
      s.modSlice (66 * d + i) fun sl => { sl with clquota := byteSet sl.clquota (off % 2 ^ 16) b 0x01FFFFFF#32 }
    else s)
  else if off < 0x3000000 then
    let j := (off - 0x2000000) / 2 ^ 16
    (if j < 21 ∧ off % 2 ^ 16 < 4 then
      s.modCluster (21 * d + j) fun c => { c with vshad := byteSet c.vshad (off % 2 ^ 16) b 0x7F#32 }
    else s)
  else s

/-! ### Writes -/

/-- A byte of control space, by offset from its base (R272); a byte that no table names is ignored. -/
def State.controlByte (s : State) (port : Port) (off : Nat) (b : Byte) : State :=
  if off < 0x80000 then s.partByte port (off / 2 ^ 16) (off % 2 ^ 16) b
  else if off < 0x100000 then s
  else if off < 0x110000 then s.packByte port (off - 0x100000) b
  else if off < 0x200000 then s
  else if off < 0x201000 then { s with mailbox := NMap.set s.mailbox (off - 0x200000) b }
  else if off < 2 ^ 32 then s
  else if off < 5 * 2 ^ 32 then s.dieByte port (off / 2 ^ 32 - 1) (off % 2 ^ 32) b
  else s

/-- Bytes are written from an offset. -/
def State.controlBytes (s : State) (port : Port) : Nat → List Byte → State
  | _, [] => s
  | off, b :: r => (s.controlByte port off b).controlBytes port (off + 1) r

/-- After a write the fields of CLQUOTA that are above 16 are stored as 16 (R214). -/
def State.cutQuotas (s : State) : State :=
  { s with slices := s.slices.map fun e => (e.1, { e.2 with clquota := clampQuota e.2.clquota }) }

/-- A write of bytes from an offset. -/
def State.controlWrite (s : State) (port : Port) (off : Nat) (bytes : List Byte) : State := (s.controlBytes port off bytes).cutQuotas

/-- A firmware update: an image is put into slot A or B of the flash, by the owner of CSEM (R323, R326).
DESIGN CHOICE, log 32: the spec gives it no register, and the model takes it from the mailbox. -/
def State.updateFlash (s : State) (port : Port) (slotB : Bool) (f : FwImage) : State :=
  s.global port fun s => if slotB then { s with flashB := some f } else { s with flashA := some f }

/-- A die alone is reset (R323): it is no longer ready, its ROM has loaded nothing, and its measurements are gone (R324, R326, R328).
DESIGN CHOICE, log 32: the spec gives the reset of a die no effect of its own. -/
def State.resetDie (s : State) (d : Nat) : State :=
  { s with
    rdy := s.rdy &&& ~~~((1#64 <<< d) ||| 0xC0#64)
    fwSvn := s.fwSvn.filter fun e => e.1 != d
    refused := s.refused.filter (· != d)
    mr := s.mr.filter fun e => e.1 / 8 != d }

/-- A request in the mailbox for global control, if it holds one: the owner of CSEM has it done, and any other port gets CERR (R323). -/
def State.mailRequest (s : State) (port : Port) : State :=
  match Config.mailRequest s.mailbox with
  | some (.update slotB f) => s.updateFlash port slotB f
  | some (.dieReset d) => if d < 4 then s.global port fun s => s.resetDie d else s
  | none => s

/-- Bytes of a write lie in the request of the mailbox (R272). -/
def inMailbox (offset : Nat) (bytes : List Byte) : Bool :=
  decide (offset < 0x201000) && decide (0x200000 < offset + bytes.length)

/-- A write of bytes as it stands, with the request that it may complete in the mailbox. -/
def State.writeOut (s : State) (port : Port) (offset : Nat) (bytes : List Byte) : State :=
  let s := s.controlWrite port offset bytes
  if inMailbox offset bytes then s.mailRequest port else s

/-- The word of a shootdown block's CTL that a write of four bytes gives, with its partition. -/
def sdCtlOf (off : Nat) (bytes : List Byte) : Option (Nat × Word) :=
  if off < 0x80000 ∧ off % 2 ^ 16 = 0x58 then
    match bytes with
    | [a, b, c, d] => some (off / 2 ^ 16, d ++ c ++ b ++ a)
    | _ => none
  else none

/-- REGISTER_WRITE (R272, R291): the bytes are written from an offset of control space. The registers that have events of their
own are not written here: CSEM, NENT, the fuse counter, GO, CLR, WIDX and FQR; but a write of CTL that sets GO together with
reserved bits sets ERR (R284). -/
def execRegisterWrite (port : Port) (offset : Nat) (bytes : List Byte) (s : State) : Host.Outcome State Fault Refusal :=
  match sdCtlOf offset bytes with
  | some (p, w) =>
    if w.getLsbD 0 && decide (4 ≤ w.toNat) then .next (s.writeSdCtl p w) else .next (s.writeOut port offset bytes)
  | none => .next (s.writeOut port offset bytes)

end Sys2Proof.Machine
end

