-- ==== Sys2Proof/Machine/Convert.lean ====
section
/-!
DEFINITION. Conversions, opcodes 0x70 to 0x74 (spec/05_arithmetic_conversion.md R104–R108), with the stochastic-rounding
state of R79.
-/

namespace Sys2Proof.Machine

/-- RND and SAT of a conversion. -/
def cvRnd (w : ExtA) : Rnd := Rnd.ofField (w.mod % 8)
def cvSat (w : ExtA) : Bool := w.mod / 8 % 2 == 1

/-- The instruction names SR. -/
def cvSr (w : ExtA) : Bool := w.mod % 8 == 4

/-- The group's stochastic-rounding state as the instruction uses it: advanced once when it names SR (R79). -/
def Ctx.sr (x : Ctx) (sr : Bool) : Word := if sr then lfsrNext x.g.srstate else x.g.srstate

/-- The state after the instruction's advance. -/
def Ctx.advance (x : Ctx) (sr : Bool) (s : State) : State :=
  if sr then s.modGroup x.ref fun g => { g with srstate := lfsrNext g.srstate } else s

/-- A format of a field; a reserved code never passes decode. -/
def fmtOf (code : Nat) : Fmt := (Fmt.ofCode code).getD .s8

/-- Element j of a register value in a format (R71). -/
def elemCode (f : Fmt) (r j : Nat) : Nat := r / 2 ^ (f.pitch * j) % 2 ^ f.bits

/-- A register with element j replaced; the upper bits of an L6 element become zero (R71, R105). -/
def setElem (f : Fmt) (r j code : Nat) : Nat :=
  let p := 2 ^ (f.pitch * j)
  r / (p * 2 ^ f.pitch) * (p * 2 ^ f.pitch) + code % 2 ^ f.bits * p + r % p

/-! ### CVT -/

/-- One element converted (R104): FS [13:9], FD [18:14], J [21:19]. -/
def cvtCode (w : ExtA) (u : Word) (a : Nat) : Nat :=
  (fmtOf (w.f 18 14)).convert (cvRnd w) (cvSat w) u
    ((fmtOf (w.f 13 9)).val (elemCode (fmtOf (w.f 13 9)) a (w.f 21 19)))

/-- The source of CVT in a lane: a pair for a 64-bit format. DEDUCED, log 53: a source of a format other than FP32 is read as a 32-bit
integer, a small immediate for FS of FP16 or BF16 too, since the instruction takes one element of its register. -/
def cvtSrc (x : Ctx) (w : ExtA) (l : Nat) : Nat :=
  let fs := fmtOf (w.f 13 9)
  if fs.bits = 64 then (x.src64 w.a l).toNat
  else (LVec.at (x.src (if fs = .f32 then .f32 else .int) w.a) l).toNat

/-- CVT (R104). -/
def execCvt (w : ExtA) (s : State) :=
  runGroup (.cvt w) { lat := some 6 } (fun x s =>
    let st := x.sr (cvSr w)
    let s := x.advance (cvSr w) s
    let d (l : Nat) : DWord := BitVec.ofNat 64 (cvtCode w (srWord st l 0) (cvtSrc x w l))
    .done (if (fmtOf (w.f 18 14)).bits = 64 then x.put64 .b 6 d s
      else x.put .b 6 (LVec.tab fun l => (d l).setWidth 32) s)) s

/-! ### PACK -/

/-- The format of PACK's sources (R105). -/
def packSrc (fd : Fmt) : Fmt :=
  match fd with
  | .s16 | .s8 => .s32
  | .u16 | .u8 => .u32
  | _ => .f32

/-- PACK in a lane (R105): FD [13:9], Q [15:14]. -/
def packW (w : ExtA) (st : Word) (l : Nat) (a b c : Word) : Word :=
  let fd := fmtOf (w.f 13 9)
  let q := w.f 15 14
  let cv (j : Nat) (v : Word) := fd.convert (cvRnd w) (cvSat w) (srWord st l j) ((packSrc fd).val v.toNat)
  BitVec.ofNat 32 (setElem fd (setElem fd c.toNat (2 * q) (cv (2 * q) a)) (2 * q + 1) (cv (2 * q + 1) b))

/-- PACK (R105). -/
def execPack (w : ExtA) (s : State) :=
  runGroup (.pack w) { lat := some 6 } (fun x s =>
    let st := x.sr (cvSr w)
    let s := x.advance (cvSr w) s
    let k : Kind := if packSrc (fmtOf (w.f 13 9)) = .f32 then .f32 else .int
    let a := x.src k w.a
    let b := x.src k w.b
    let c := x.src .int w.c
    .done (x.put .b 6 (LVec.tab fun l => packW w st l (LVec.at a l) (LVec.at b l) (LVec.at c l)) s)) s

/-! ### UNPACK -/

/-- Result k of UNPACK (R106): FS [13:9], Q [15:14]; a block format takes its scale from b[7:0]. -/
def unpackCode (w : ExtA) (a b : Word) (k : Nat) : Word :=
  let fs := fmtOf (w.f 13 9)
  let v := fs.val (elemCode fs a.toNat (2 * w.f 15 14 + k))
  match fs with
  | .s8 | .u8 | .s16 | .u16 => BitVec.ofInt 32 (v.roundInt .rne 0 (-2147483648) 4294967295)
  | _ =>
    let v := if fs.block then (match e8m0Exp b.toNat with | some e => v.scale e | none => .nan) else v
    BitVec.ofNat 32 (fp32.round (cvRnd w) (cvSat w) 0 v)

/-- UNPACK (R106). DEDUCED, log 53: A is read as a 32-bit integer, for FS of FP16 and BF16 too. -/
def execUnpack (w : ExtA) (s : State) :=
  runGroup (.unpack w) { lat := some 6 } (fun x s =>
    let a := x.src .int w.a
    let b := x.src .int w.b
    .done (x.put64 .b 6 (fun l =>
      pair (unpackCode w (LVec.at a l) (LVec.at b l) 0) (unpackCode w (LVec.at a l) (LVec.at b l) 1)) s)) s

/-! ### MXSCALE -/

/-- emax of a block format (R107). -/
def emaxOf (f : Fmt) : Int :=
  match f with
  | .mxf8e4m3 => 8
  | .mxf8e5m2 => 15
  | .mxf4 => 2
  | .mxl6 => 3
  | _ => 0

/-- The block scale of the FP32 values (R107). -/
def mxscaleOf (fd : Fmt) (vs : List Val) : Nat :=
  if vs.any (fun v => match v with | .num _ _ _ => false | _ => true) then 0xFF
  else
    match maxFl2 vs with
    | none => 0x7F
    | some e => (min (max (e - emaxOf fd) (-127)) 127 + 127).toNat

/-- MXSCALE (R107). DEDUCED, log 54: with no executing lane it is latch B, the latch of its port (R32, R90), that becomes valid; the
comment of R107's pseudocode names latch A. -/
def execMxscale (w : ExtA) :=
  aluB (.mxscale w) 6 fun x =>
    let a := x.src .f32 w.a
    LVec.splat (BitVec.ofNat 32
      (mxscaleOf (fmtOf (w.f 13 9)) ((Mask.list x.ex).map fun l => fp32.val (LVec.at a l).toNat)))

/-! ### QNT -/

/-- The element code of NaN (R108). -/
def qntNan (fd : Fmt) : Nat :=
  match fd with
  | .mxf8e4m3 => 0x7F
  | .mxf8e5m2 => 0x7E
  | .mxl6 => 0x20
  | _ => 0

/-- The element code of a value under a scale byte (R108). -/
def qntCode (fd : Fmt) (mode : Rnd) (u : Word) (a : Val) (scale : Nat) : Nat :=
  match a, e8m0Exp scale with
  | .nan, _ => qntNan fd
  | _, none => qntNan fd
  | v, some e =>
    let q := v.scale (-e)
    match fd with
    | .mxi8 => codeOf 8 ((q.scale 6).roundInt mode u (-127) 127)
    | .mxl6 => l6Round mode true u q
    | _ =>
      match fd.flt with
      | some l => l.round mode true u q
      | none => 0

/-- QNT in a lane: FD [13:9], J [16:14]. -/
def qntW (w : ExtA) (st : Word) (l : Nat) (a b c : Word) : Word :=
  let fd := fmtOf (w.f 13 9)
  let j := w.f 16 14
  BitVec.ofNat 32 (setElem fd c.toNat j (qntCode fd (cvRnd w) (srWord st l j) (fp32.val a.toNat) (b.toNat % 256)))

/-- QNT (R108). -/
def execQnt (w : ExtA) (s : State) :=
  runGroup (.qnt w) { lat := some 6 } (fun x s =>
    let st := x.sr (cvSr w)
    let s := x.advance (cvSr w) s
    let a := x.src .f32 w.a
    let b := x.src .int w.b
    let c := x.src .int w.c
    .done (x.put .b 6 (LVec.tab fun l => qntW w st l (LVec.at a l) (LVec.at b l) (LVec.at c l)) s)) s

end Sys2Proof.Machine
end

