-- ==== Sys2Proof/Machine/DieOps.lean ====
section
/-!
DEFINITION. Slice operations, PHASE and the line instructions, opcodes 0xE8 to 0xEF (spec/15_die_instructions.md R238–R247).
-/

namespace Sys2Proof.Machine

/-! ### Checks of R239 -/

/-- The address lies in the scratch window, or, for an instruction that does not go to the fabric, in the peer window
(R239 step 3, R274, R334). Bits beyond the scratch window's field are a translation cause (R282). -/
def notLocal (fabric : Bool) (va : BitVec 56) : Bool :=
  (va.toNat / 2 ^ 52 == 9 && va.toNat / 2 ^ 20 % 2 ^ 32 == 0) || (isPeer va && !fabric)

/-- What translating every access gives: the translations, those with a page cause included, or the first other cause. -/
inductive Gathered where
  | all (ts : List (VAcc × Tr))
  | err (a : VAcc) (code : Nat)
  | busy
  deriving DecidableEq, Repr

/-- Step 2 of R239: every executing lane's address is translated, in lane order; page causes wait for steps 4 and 5. -/
def Ctx.gather (x : Ctx) (write : Bool) : List VAcc → List (VAcc × Tr) → State → State × Gathered
  | [], acc, s => (s, .all acc)
  | a :: r, acc, s =>
    match s.translateLane x.from x.ref a.lane a.va write with
    | (s, .err c) =>
      if c = 0x100 ∨ c = 0x101 ∨ c = 0x102 then x.gather write r (acc ++ [(a, .err c)]) s else (s, .err a c)
    | (s, .busy) => (s, .busy)
    | (s, t) => x.gather write r (acc ++ [(a, t)]) s

/-- The first access that met one of some page causes. -/
def firstPage (codes : List Nat) (ts : List (VAcc × Tr)) : Option (VAcc × Nat) :=
  ts.findSome? fun y => match y.2 with | .err c => if codes.contains c then some (y.1, c) else none | _ => none

/-- What the translated accesses reach. -/
def targetsOf (ts : List (VAcc × Tr)) : List (VAcc × Tgt) :=
  ts.filterMap fun y =>
    match y.2 with
    | .ok pa e => some (y.1, if isPeer y.1.va then .remote e.peer.toNat pa e.cls else .mem pa e.cls e.arena.isSome)
    | .discarded _ => some (y.1, .zero)
    | _ => none

/-- The checks of R239 from step 2 on, over all executing lanes, then the instruction with its translated accesses; `skip`
are the page causes whose lanes do nothing. The instruction waits for the group's loads of its lines, which read nothing later
(timing only; DEDUCED, log 30).
DEDUCED, log 44: an address that step 3 refuses for its window alone is not translated. -/
def Ctx.sliceChecks (x : Ctx) (low : DWord) (accs : List VAcc) (fabric write : Bool) (skip : List Nat) (kind : Nat) (s : State)
    (k : State → List (VAcc × Tgt) → Res) : Res :=
  match x.gather write (accs.filter fun a => !notLocal fabric a.va) [] s with
  | (s, .busy) => .retry s
  | (s, .err a c) => accessRes s c kind a.va 0
  | (s, .all ts) =>
    if accs.any fun a => notLocal fabric a.va then .cause 0x0C3 low
    else if fabric && (accs.any fun a => isPeer a.va) && !s.inPod then .cause 0x140 0
    else
      match firstPage [0x100] ts, firstPage ([0x101, 0x102].filter fun c => !skip.contains c) ts with
      | some (a, c), _ => accessRes s c kind a.va 0
      | none, some (a, c) => accessRes s c kind a.va 0
      | none, none =>
        let ts := targetsOf ts
        if (linesOf ts).any fun l => s.unread x.ref l fun _ => true then .retry s else k s ts

/-- The checks of R239 over all executing lanes, then the instruction with its translated accesses. -/
def Ctx.sliceOp (x : Ctx) (w : ExtM) (aligned fabric write : Bool) (kind : Nat) (s : State)
    (k : State → List (VAcc × Tgt) → Res) : Res :=
  let accs := x.vaccs w (Mask.list x.ex)
  let low : DWord := (x.ea w.a w.offset (Mask.lowest x.ex)).setWidth 64
  match (if aligned then misaligned accs else none) with
  | some a => .cause 0x008 (a.va.setWidth 64)
  | none => if x.ex = 0 then .done s else x.sliceChecks low accs fabric write [] kind s k

/-- A request of the issuing group to a line. -/
def Ctx.req (x : Ctx) (s : State) (id piece line : Nat) (cls : Cls × Bool) (body : ReqOp) : Req :=
  { op := id, piece, src := .core x.core, line, cls := cls.1, arena := cls.2, g := x.ref, part := x.team.part
    epoch := s.epochOf x.team.part, body }

/-- An outstanding operation of the issuing group that allocates nothing in L1. -/
def Ctx.outOp (x : Ctx) (s : State) (id : Nat) (kind : OutKind) (sb : Option Nat) (dst : Operand) (regs size : Nat)
    (pieces : List Piece) : Outst :=
  { id, g := x.ref, core := x.core, kind, sb, dst, regs, size, sx := false, lanes := x.ex
    from_ := match kind with | .lr | .sc => some (Mask.lowest x.ex) | _ => none
    pieces, part := x.team.part, epoch := s.epochOf x.team.part, l1pos := none, cls := .other, slot := x.slot, iss := x.clk }

/-! ### ATOM and RED -/

/-- The operations of lanes on a line, in ascending lane order (R241). -/
def Ctx.laneOps (x : Ctx) (w : ExtM) (accs : List Acc) : List LaneOp :=
  let n := match hndB w.hnd with | some u => u.n | none => 0
  accs.map fun a => { lane := a.lane, off := a.off, b := BitVec.ofNat 128 (x.hndSrc w.hnd n w.b a.lane) }

/-- The accesses whose results are written: those of the lowest executing lane for a uniform destination (R126). -/
def Ctx.resultAccs (x : Ctx) (dst : Operand) (accs : List Acc) : List Acc :=
  match dst with
  | .s _ => accs.filter fun a => a.lane == Mask.lowest x.ex
  | _ => accs

/-- One request for each line, in the order of its lowest lane (R241). -/
def Ctx.atomLines (x : Ctx) (w : ExtM) (id : Nat) (ts : List (VAcc × Tgt)) : List Nat → Nat → State → State × List Piece
  | [], _, s => (s, [])
  | l :: r, k, s =>
    let accs := accsIn ts none l
    let s := s.leaveL1 x.core x.ref l
    let s := s.send (x.req s id k l (clsIn ts l) (.atom w.hnd (sizeBytes w.size) (x.laneOps w accs)))
    let (s, ps) := x.atomLines w id ts r (k + 1) s
    (s, { line := l, accs := x.resultAccs w.dst accs } :: ps)

/-- One packet for each line of another package (R335). -/
def Ctx.atomRemotes (x : Ctx) (w : ExtM) (id : Nat) (ts : List (VAcc × Tgt)) :
    List (Nat × Nat) → Nat → State → State × List Piece
  | [], _, s => (s, [])
  | (p, l) :: r, k, s =>
    let accs := accsIn ts (some p) l
    let s := s.remSend p l (remCls ts p l) (.atom w.hnd (sizeBytes w.size) (x.laneOps w accs)) id k
    let (s, ps) := x.atomRemotes w id ts r (k + 1) s
    (s, { line := l, accs := x.resultAccs w.dst accs, remote := true } :: ps)

/-- The lanes of FETCH on a discarded page, which read zero (R283). -/
def Ctx.zeroPiece (x : Ctx) (w : ExtM) (ts : List (VAcc × Tgt)) : List Piece :=
  let zs := ts.filterMap fun y =>
    match y.2 with
    | .zero => some ({ lane := y.1.lane, off := 0, len := y.1.len, pos := 0 } : Acc)
    | _ => none
  let zs := x.resultAccs w.dst zs
  if zs.isEmpty then [] else [{ line := 0, accs := zs, vals := some (zs.map fun a => (a.lane, 0)) }]

/-- ATOM and RED after the checks (R241). -/
def Ctx.startAtom (x : Ctx) (w : ExtM) (kind : OutKind) (sb : Option Nat) (s : State) (ts : List (VAcc × Tgt)) : State :=
  let (id, s) := s.fresh
  let zero := x.zeroPiece w ts
  let lines := linesOf ts
  let (s, ps) := x.atomLines w id ts lines zero.length s
  let (s, rs) := x.atomRemotes w id ts (remotesOf ts) (zero.length + lines.length) s
  s.addOut (x.outOp s id kind sb w.dst (sizeRegs w.size) w.size (zero ++ ps ++ rs))

/-- ATOM (R240, R241). -/
def execAtom (w : ExtM) (s : State) :=
  runGroup (.atom w) { ends := true } (fun x s =>
    x.sliceOp w true true (hndWrites w.hnd) (if hndWrites w.hnd then kindRmw else kindRead) s fun s ts =>
      .done (x.startAtom w .atom (slotOf w.h) s ts)) s

/-- RED (R240, R241). -/
def execRed (w : ExtM) (s : State) :=
  runGroup (.red w) { ends := true } (fun x s =>
    x.sliceOp w true true true kindRmw s fun s ts => .done (x.startAtom w .effect none s ts)) s

/-! ### LR and SC -/

/-- The target of the lowest executing lane. -/
def lowTgt (ts : List (VAcc × Tgt)) : Option Tgt := ts.head?.map (·.2)

/-- The group's reservation is released at its home (R221, R242). -/
def Ctx.releaseRsv (x : Ctx) (s : State) : State :=
  match (s.group? x.ref).bind Group.rsv with
  | some line =>
    (s.send (x.req s 0 0 line (.other, false) .release)).modGroup x.ref fun g => { g with rsv := none }
  | none => s

/-- LR and SC: one request on the line of the lowest executing lane (R242). -/
def Ctx.sendLow (x : Ctx) (w : ExtM) (kind : OutKind) (regs size pa : Nat) (cls : Cls × Bool) (body : ReqOp)
    (s : State) : State :=
  let (id, s) := s.fresh
  let s := s.leaveL1 x.core x.ref (pa / 128)
  let s := s.send (x.req s id 0 (pa / 128) cls body)
  s.addOut (x.outOp s id kind (slotOf w.h) w.dst regs size
    [{ line := pa / 128, accs := [{ lane := Mask.lowest x.ex, off := pa % 128, len := sizeBytes size, pos := 0 }] }])

/-- LR (R242); on a discarded page it reads zero and takes no reservation. -/
def execLr (w : ExtM) (s : State) :=
  runGroup (.lr w) { ends := true } (fun x s =>
    x.sliceOp w true false false kindRead s fun s ts =>
      let s := x.releaseRsv s
      match lowTgt ts with
      | some (.mem pa c a) =>
        let s := x.sendLow w .lr (sizeRegs w.size) w.size pa (c, a) (.lr (pa % 128) (sizeBytes w.size)) s
        .done (s.modGroup x.ref fun g => { g with rsv := some (pa / 128) })
      | _ => .done (if w.size = 3 then x.now64 (fun _ => 0) s else x.now (fun _ => 0) s)) s

/-- The group's reservation ends at an SC (R242): one of another line is released at its home (R221); the SC itself ends one of
its own line there. Whether the core held the line is what the SC takes with it. -/
def Ctx.takeRsv (x : Ctx) (line : Nat) (s : State) : State × Bool :=
  let held := ((s.group? x.ref).bind Group.rsv) == some line
  (if held then s.modGroup x.ref fun g => { g with rsv := none } else x.releaseRsv s, held)

/-- SC (R242). -/
def execSc (w : ExtM) (s : State) :=
  runGroup (.sc w) { ends := true } (fun x s =>
    x.sliceOp w true false true kindRmw s fun s ts =>
      match lowTgt ts with
      | some (.mem pa c a) =>
        let v := BitVec.ofNat 64 (x.srcData w.b (Mask.lowest x.ex) (sizeRegs w.size))
        let (s, held) := x.takeRsv (pa / 128) s
        .done (x.sendLow w .sc 1 2 pa (c, a) (.sc (pa % 128) (sizeBytes w.size) v held) s)
      | _ => .done s) s

/-! ### WAITC -/

/-- The predicate that PD names (R243). -/
def ExtM.pd (w : ExtM) : BitVec 3 := BitVec.ofNat 3 w.fld

/-- The timeout with which a WAITC runs: on its re-execution after a save, what remains of it, a deadline that has passed
being a poll (R223, R243). -/
def Ctx.timeout (x : Ctx) (t : Word) : Word :=
  match (x.g.split x.slot).wait with
  | some w =>
    match w.on with
    | .waitc _ _ _ (some dl) _ =>
      if w.ipc = x.pc then
        let left := dl - 1 - x.clk / 256
        if left = 0 then 0xFFFFFFFF else BitVec.ofNat 32 left
      else t
    | _ => t
  | none => t

/-- WAITC (R243): MODE in MOD [2:0], SWAP in MOD [3]. Its group issues nothing more until the request has performed; its split becomes
WAITING then, if a monitor registers (R22). -/
def execWaitc (w : ExtM) (s : State) :=
  runGroup (.waitc w) { ends := true, pdst := [w.fld] } (fun x s =>
    x.sliceOp w true false false kindRead s fun s ts =>
      let b := x.src64 w.b (Mask.lowest x.ex)
      let mode := BitVec.ofNat 3 w.mod
      let opnd : Word := b.setWidth 32
      let swap := w.mod / 8 == 1
      match lowTgt ts with
      | some (.mem pa c a) =>
        let (id, s) := s.fresh
        let s := s.leaveL1 x.core x.ref (pa / 128)
        let s := s.send (x.req s id 0 (pa / 128) (c, a)
          (.waitc (pa % 128) opnd mode (x.timeout ((b >>> 32).setWidth 32)) swap x.slot))
        let s := s.addOut (x.outOp s id .effect none .zero 0 2 [{ line := pa / 128, accs := [] }])
        .done (s.modGroup x.ref fun g => { g with hold := g.hold ++ [id] }.modSplit x.slot fun sp =>
          { sp with wait := some { on := .waitc pa opnd mode none swap, ipc := x.pc, dst := w.dst, wide := false
                                   pd := some (ExtM.pd w), lanes := x.ex, iss := x.clk } })
      | _ =>
        let s := s.modGroup x.ref fun g => g.modSplit x.slot fun sp => { sp with wait := none }
        .done (x.nowP w.fld (if monSat mode 0 opnd then 0xFFFFFFFF else 0) (x.now (fun _ => 0) s))) s

/-! ### PHASE -/

/-- PHASE (R245, R246): MOD 1 CORE, 2 PKG, 3 POD, in the order of the lanes that execute it. -/
def execPhase (w : ExtA) (s : State) :=
  runGroup (.phase w) { ends := true } (fun x s =>
    if x.ex = 0 then .done s
    else .done (match w.mod with
      | 1 => s.phaseCore x.ref x.ex
      | 2 => s.phasePkg x.core x.ref x.ex
      | _ => s.phasePod x.core x.ref x.ex)) s

/-! ### DISC, CWB, CINV -/

/-- The group issues nothing more until the operations started since a given identity have performed (R247). -/
def Ctx.holdSince (x : Ctx) (first : Nat) (s : State) : State :=
  let ids := (s.outst.filter fun e => decide (first ≤ e.1)).map (·.1)
  s.modGroup x.ref fun g => { g with hold := g.hold ++ ids }

/-- DISC of a line: dropped from L1 with its dirty nibbles, and at its home (R247). -/
def Ctx.discLine (x : Ctx) (ts : List (VAcc × Tgt)) (s : State) (line : Nat) : State :=
  let (id, s) := s.fresh
  let s := (s.modCore x.core fun c => c.l1Drop line).noInstall x.core (· == line)
  let s := s.send (x.req s id 0 line (clsIn ts line) .disc)
  s.addOut (x.outOp s id .effect none .zero 0 0 [{ line, accs := [] }])

/-- DISC (R247); lanes on a discarded page are left out (R239). -/
def execDisc (w : ExtM) (s : State) :=
  runGroup (.disc w) { ends := true } (fun x s =>
    if x.ex = 0 then .done s
    else
      x.sliceChecks ((x.ea w.a w.offset (Mask.lowest x.ex)).setWidth 64) (x.vaccs w (Mask.list x.ex)) false true [0x102] kindWrite s
        fun s ts =>
          let first := s.nextId
          .done (x.holdSince first ((linesOf ts).foldl (x.discLine ts) s))) s

/-- CWB of a line: its dirty nibbles are written back, and it stays clean (R247). -/
def Ctx.cwbLine (x : Ctx) (s : State) (line : Nat) : State :=
  match (s.core x.core).l1Find line with
  | some l =>
    ((s.writeback x.core x.ref l).modCore x.core fun c => c.l1Mod line fun l => { l with dirty := 0 }).noInstall x.core
      (· == line)
  | none => s

/-- CWB and CINV: lanes that translation stops are skipped (R247). -/
def Ctx.lines (x : Ctx) (w : ExtM) (f : State → Nat → State) (s : State) : Res :=
  x.translateSkip (fun s ts =>
    let first := s.nextId
    .done (x.holdSince first ((linesOf ts).foldl f s))) (x.vaccs w (Mask.list x.ex)) [] s

/-- CWB (R247). -/
def execCwb (w : ExtM) (s : State) := runGroup (.cwb w) { ends := true } (fun x s => x.lines w x.cwbLine s) s

/-- CINV (R247). -/
def execCinv (w : ExtM) (s : State) :=
  runGroup (.cinv w) { ends := true } (fun x s => x.lines w (fun s l => s.leaveL1 x.core x.ref l) s) s

end Sys2Proof.Machine
end

