-- ==== Sys2Proof/Machine/FaultQueue.lean ====
section
/-!
DEFINITION. The fault queue of a partition (spec/19_queues_nodes_arenas.md R305–R307; spec/18_package_memory_translation.md
R287, R288). An event that is not enabled leaves the state unchanged.
-/

namespace Sys2Proof.Machine

/-- Ring size in entries (R305). -/
def Part.fqLen (p : Part) : Nat := 2 ^ (p.fqCtl.toNat % 16)

/-- The physical address of entry i (R306). -/
def Part.fqAddr (p : Part) (i : Word) : Nat := p.fqBase.toNat % 2 ^ 52 + 64 * (i.toNat % p.fqLen)

/-- An entry as one number of 64 bytes (R305). -/
def FaultEnt.word (e : FaultEnt) : Nat :=
  (e.cause % 2 ^ 9 + 2 ^ 16 * (e.kind % 16)) + 2 ^ 32 * e.lid.toNat + 2 ^ 64 * e.va.toNat + 2 ^ 128 * e.team.toNat
    + 2 ^ 160 * e.loc.toNat + 2 ^ 192 * e.record.toNat + 2 ^ 224 * e.reason.toNat + 2 ^ 256 * e.frame.toNat

/-- An entry may be posted: that of a team once the team is saved (R287). -/
def State.postable (s : State) (e : FaultEnt) : Bool :=
  match e.agent with
  | .team t =>
    match s.team? t with
    | some tm => match tm.place with | .saved _ => true | _ => false
    | none => false
  | _ => true

/-- The device watches STAT of an entry, but for kind 6 with reasons 1 to 3 (R264, R307). -/
def FaultEnt.watched (e : FaultEnt) : Bool := e.kind != 6 || e.reason == 4

/-- The device begins to watch STAT of an entry: by a monitor, or, when the entries for agents are taken, by a read every 1,024
cycles (R307). -/
def State.watchStat (s : State) (part : Nat) (index : Word) (val : Word) : State :=
  let (s, armed) := s.armAgent ((s.part part).fqAddr index + 0x3C) val 1 (.fault part index)
  s.modPart part fun p =>
    { p with polls := if armed then p.polls.erase index.toNat else p.polls.set index.toNat (s.clk + 1024) }

/-- FAULT_QUEUE_POST (R305, R306): the oldest entry that may be posted is written at its home, FQW advances, and VEC is sent;
with the ring full it waits. A ring that runs into a shadow region takes no entry (R218). -/
def execFaultQueuePost (part : Nat) (s : State) : Host.Outcome State Fault Refusal :=
  let p := s.part part
  match p.posts.find? s.postable with
  | none => .next s
  | some e =>
    if p.fqOn = false ∨ p.fqLen ≤ (p.fqw - p.fqr).toNat then .next s
    else if s.inShadow (p.fqAddr p.fqw) then
      .next ((s.modPart part fun k => { k with posts := k.posts.erase e }).killNode e.node 0x0C2)
    else
      match s.tryWriteN (.faults part) (p.fqAddr p.fqw) 64 e.word .other with
      | (s, false) => .next s
      | (s, true) =>
        let s := s.modPart part fun k =>
          { k with posts := k.posts.erase e, fqw := k.fqw + 1, watch := if e.watched then k.watch ++ [(p.fqw, e)] else k.watch }
        let s := if e.watched then s.watchStat part p.fqw 0 else s
        .next (s.sendPart part (p.fqCtl.toNat / 2 ^ 8 % 256))

/-- FQR_WRITE (R306). -/
def execFqrWrite (part : Nat) (r : Word) (s : State) : Host.Outcome State Fault Refusal :=
  let p := s.part part
  if part < 8 ∧ serialLt p.fqr r = true ∧ (r - p.fqr).toNat ≤ (p.fqw - p.fqr).toNat then
    .next (s.modPart part fun p => { p with fqr := r })
  else .next s

/-- STAT of a watched entry is due to be read: its monitor has fired, or the cycle of the next read has come (R307). -/
def State.statDue (s : State) (part : Nat) (index : Word) : Bool :=
  match (s.part part).polls.get? index.toNat with
  | some t => decide (t ≤ s.clk)
  | none => !s.monArmed (.fault part index)

/-- An entry is watched no more. -/
def State.unwatch (s : State) (part : Nat) (index : Word) : State :=
  s.modPart part fun p => { p with watch := p.watch.filter fun x => x.1 != index, polls := p.polls.erase index.toNat }

/-- The watched entry at a ring index whose STAT is due, with STAT as its home holds it (R307); a poisoned line kills the node of the
entry (R212). -/
def State.statOf (s : State) (part : Nat) (index : Word) : State × Option (FaultEnt × Nat) :=
  match (s.part part).watch.find? fun x => x.1 == index with
  | none => (s, none)
  | some x =>
    if !s.statDue part index then (s, none)
    else
      let pa := (s.part part).fqAddr index + 0x3C
      match s.agentLine (.faults part) (pa / 128) .other with
      | (s, .line d) => (s, some (x.2, lineGet d (pa % 128) 4))
      | (s, .kill c) => ((s.unwatch part index).killNode x.2.node c, none)
      | (s, .busy) => (s, none)

/-- An entry holds RESUME (R288, R307): a saved team whose entries all do joins its cluster's queue; other agents go on in
their own events. -/
def State.resumeEntry (s : State) (part : Nat) (index : Word) (e : FaultEnt) : State :=
  let s := s.unwatch part index
  match e.agent with
  | .team t =>
    match s.team? t with
    | some tm => if s.faultsOpen tm then s else s.appendQueue t
    | none => s
  | _ => s

/-- An entry holds KILL (R307): its node is killed with cause 0x123. An entry of no node ignores it; that of a collective
stays, because a STARTED collective runs on (R350). -/
def State.killEntry (s : State) (part : Nat) (index : Word) (e : FaultEnt) : State :=
  match e.agent with
  | .head _ | .packet _ => s
  | .coll _ => s.killNode e.node 0x123
  | _ => (s.unwatch part index).killNode e.node 0x123

/-- FAULT_RESUME (R307). -/
def execFaultResume (part : Nat) (index : Word) (s : State) : Host.Outcome State Fault Refusal :=
  match s.statOf part index with
  | (s, some (e, 1)) => .next (s.resumeEntry part index e)
  | _ => .next s

/-- FAULT_KILL (R307). -/
def execFaultKill (part : Nat) (index : Word) (s : State) : Host.Outcome State Fault Refusal :=
  match s.statOf part index with
  | (s, some (e, 2)) => .next (s.killEntry part index e)
  | _ => .next s

/-- FAULT_STAT_POLL (R307): STAT is read; an entry that stays pending is watched again. -/
def execFaultStatPoll (part : Nat) (index : Word) (s : State) : Host.Outcome State Fault Refusal :=
  match s.statOf part index with
  | (s, none) => .next s
  | (s, some (e, 1)) => .next (s.resumeEntry part index e)
  | (s, some (e, st)) =>
    let s := if st = 2 then s.killEntry part index e else s
    if (s.part part).watch.any fun x => x.1 == index then .next (s.watchStat part index (BitVec.ofNat 32 st)) else .next s

end Sys2Proof.Machine
end

