-- ==== Sys2Proof/Machine/Firmware.lean ====
section
/-!
DEFINITION. Firmware and secure boot, attestation and the core clock (spec/21_package_links_control.md R326–R329): SHA-512 of
FIPS 180-4, and RSASSA-PSS of RFC 8017 with SHA-512, MGF1 with SHA-512 and a 64-byte salt.
An event that is not enabled leaves the state unchanged.
-/

namespace Sys2Proof.Machine

/-! ### SHA-512 -/

/-- The round constants: fractions of the cube roots of the first 80 primes. -/
def shaK : List Nat :=
  [0x428A2F98D728AE22, 0x7137449123EF65CD, 0xB5C0FBCFEC4D3B2F, 0xE9B5DBA58189DBBC, 0x3956C25BF348B538,
    0x59F111F1B605D019, 0x923F82A4AF194F9B, 0xAB1C5ED5DA6D8118, 0xD807AA98A3030242, 0x12835B0145706FBE,
    0x243185BE4EE4B28C, 0x550C7DC3D5FFB4E2, 0x72BE5D74F27B896F, 0x80DEB1FE3B1696B1, 0x9BDC06A725C71235,
    0xC19BF174CF692694, 0xE49B69C19EF14AD2, 0xEFBE4786384F25E3, 0x0FC19DC68B8CD5B5, 0x240CA1CC77AC9C65] ++
  [0x2DE92C6F592B0275, 0x4A7484AA6EA6E483, 0x5CB0A9DCBD41FBD4, 0x76F988DA831153B5, 0x983E5152EE66DFAB,
    0xA831C66D2DB43210, 0xB00327C898FB213F, 0xBF597FC7BEEF0EE4, 0xC6E00BF33DA88FC2, 0xD5A79147930AA725,
    0x06CA6351E003826F, 0x142929670A0E6E70, 0x27B70A8546D22FFC, 0x2E1B21385C26C926, 0x4D2C6DFC5AC42AED,
    0x53380D139D95B3DF, 0x650A73548BAF63DE, 0x766A0ABB3C77B2A8, 0x81C2C92E47EDAEE6, 0x92722C851482353B] ++
  [0xA2BFE8A14CF10364, 0xA81A664BBC423001, 0xC24B8B70D0F89791, 0xC76C51A30654BE30, 0xD192E819D6EF5218,
    0xD69906245565A910, 0xF40E35855771202A, 0x106AA07032BBD1B8, 0x19A4C116B8D2D0C8, 0x1E376C085141AB53,
    0x2748774CDF8EEB99, 0x34B0BCB5E19B48A8, 0x391C0CB3C5C95A63, 0x4ED8AA4AE3418ACB, 0x5B9CCA4F7763E373,
    0x682E6FF3D6B2B8A3, 0x748F82EE5DEFB2FC, 0x78A5636F43172F60, 0x84C87814A1F0AB72, 0x8CC702081A6439EC] ++
  [0x90BEFFFA23631E28, 0xA4506CEBDE82BDE9, 0xBEF9A3F7B2C67915, 0xC67178F2E372532B, 0xCA273ECEEA26619C,
    0xD186B8C721C0C207, 0xEADA7DD6CDE0EB1E, 0xF57D4F7FEE6ED178, 0x06F067AA72176FBA, 0x0A637DC5A2C898A6,
    0x113F9804BEF90DAE, 0x1B710B35131C471B, 0x28DB77F523047D84, 0x32CAAB7B40C72493, 0x3C9EBE0A15C9BEBC,
    0x431D67C49C100D4C, 0x4CC5D4BECB3E42B6, 0x597F299CFC657E2A, 0x5FCB6FAB3AD6FAEC, 0x6C44198C4A475817]

/-- The initial hash value: fractions of the square roots of the first eight primes. -/
def shaInit : List DWord :=
  [0x6A09E667F3BCC908, 0xBB67AE8584CAA73B, 0x3C6EF372FE94F82B, 0xA54FF53A5F1D36F1, 0x510E527FADE682D1,
    0x9B05688C2B3E6C1F, 0x1F83D9ABFB41BD6B, 0x5BE0CD19137E2179]

def rotr (x : DWord) (n : Nat) : DWord := x.rotateRight n

/-- The eight working variables after one round with a constant and a schedule word. -/
def shaRound (v : List DWord) (kw : Nat × DWord) : List DWord :=
  match v with
  | [a, b, c, d, e, f, g, h] =>
    let s1 := rotr e 14 ^^^ rotr e 18 ^^^ rotr e 41
    let ch := (e &&& f) ^^^ (~~~e &&& g)
    let t1 := h + s1 + ch + BitVec.ofNat 64 kw.1 + kw.2
    let s0 := rotr a 28 ^^^ rotr a 34 ^^^ rotr a 39
    let maj := (a &&& b) ^^^ (a &&& c) ^^^ (b &&& c)
    [t1 + (s0 + maj), a, b, c, d + t1, e, f, g]
  | v => v

/-- The message schedule, newest word first, extended by a number of words. -/
def shaSchedule : Nat → List DWord → List DWord
  | 0, w => w
  | n + 1, w =>
    let at_ (i : Nat) : DWord := w.getD (i - 1) 0
    let s0 := rotr (at_ 15) 1 ^^^ rotr (at_ 15) 8 ^^^ (at_ 15 >>> 7)
    let s1 := rotr (at_ 2) 19 ^^^ rotr (at_ 2) 61 ^^^ (at_ 2 >>> 6)
    shaSchedule n ((at_ 16 + s0 + at_ 7 + s1) :: w)

/-- One block of sixteen words. -/
def shaBlock (h : List DWord) (block : List DWord) : List DWord :=
  let w := (shaSchedule 64 block.reverse).reverse
  List.zipWith (· + ·) h ((shaK.zip w).foldl shaRound h)

/-- Bytes as a big-endian number. -/
def beNat (bs : List Byte) : Nat := bs.foldl (fun n b => 256 * n + b.toNat) 0

/-- A number as n big-endian bytes. -/
def beBytes (n x : Nat) : List Byte := (List.range n).map fun i => BitVec.ofNat 8 (x / 256 ^ (n - 1 - i))

/-- The blocks of a padded message. -/
def shaBlocks : Nat → List Byte → List DWord → List DWord
  | 0, _, h => h
  | n + 1, bs, h =>
    let block := (List.range 16).map fun i => BitVec.ofNat 64 (beNat ((bs.drop (8 * i)).take 8))
    shaBlocks n (bs.drop 128) (shaBlock h block)

/-- SHA-512 of a message. -/
def sha512 (m : List Byte) : List Byte :=
  let pad := (239 - m.length % 128) % 128
  let bs := m ++ [0x80] ++ List.replicate pad 0 ++ beBytes 16 (8 * m.length)
  (shaBlocks (bs.length / 128) bs shaInit).flatMap fun w => beBytes 8 w.toNat

/-! ### RSASSA-PSS -/

/-- b ^ e mod n, over the bits of e from the highest of a number of bits down. -/
def powMod (b e n : Nat) : Nat → Nat → Nat
  | 0, acc => acc
  | k + 1, acc =>
    let sq := acc * acc % n
    powMod b e n k (if e.testBit k then sq * b % n else sq)

/-- MGF1 with SHA-512: n bytes. -/
def mgf1 (seed : List Byte) (n : Nat) : List Byte :=
  ((List.range ((n + 63) / 64)).flatMap fun c => sha512 (seed ++ beBytes 4 c)).take n

/-- EMSA-PSS verification of an encoded message of 512 bytes, 4,095 bits, against a digest. -/
def pssOk (digest em : List Byte) : Bool :=
  let masked := em.take 447
  let h := (em.drop 447).take 64
  let mask := mgf1 h 447
  let db := List.zipWith (· ^^^ ·) masked mask
  let db := match db with | b :: r => (b &&& 0x7F) :: r | [] => []
  let salt := db.drop 383
  em.getLast? == some 0xBC && decide ((masked.headD 0).toNat < 128)
  && db.take 382 == List.replicate 382 0 && (db.drop 382).head? == some 1
  && sha512 (List.replicate 8 0 ++ digest ++ salt) == h

/-! ### The boot ROM -/

/-- The digest of an image's header and body. -/
def FwImage.digest (f : FwImage) : List Byte := sha512 (f.header ++ f.body)

/-- The key is a 4,096-bit key, the signature is below it, and what it encodes verifies (R326). -/
def FwImage.signed (f : FwImage) : Bool :=
  decide (2 ^ 4095 ≤ f.modulus) && decide (f.modulus < 2 ^ 4096) && decide (f.signature < f.modulus)
  && pssOk f.digest (beBytes 512 (powMod f.signature f.exponent f.modulus (Nat.log2 f.exponent + 1) 1))

/-- An image is accepted (R326): its key's hash, its signature and its version. -/
def State.accepts (s : State) (f : FwImage) : Bool :=
  sha512 (Config.keyBytes f.modulus f.exponent) == beBytes 64 Config.keyHash.toNat && f.signed && decide (s.fuse ≤ f.svn)

/-- A measurement register is extended with a digest (R328). -/
def State.extend (s : State) (die i : Nat) (digest : List Byte) : State :=
  let k := 8 * die + i
  { s with mr := s.mr.set k (BitVec.ofNat 512 (beNat (sha512 (beBytes 64 (s.mr.getD k 0).toNat ++ digest)))) }

/-- Each stage extends a register with the digest of the stage after it before running that one (R328). -/
def State.runStages (s : State) (die k : Nat) : List (List Byte) → State
  | [] => s
  | b :: r => (s.extend die (Config.stageRegister die k % 8) (sha512 b)).runStages die (k + 1) r

/-- The ROM of a die runs an accepted image: it measures it first, and each of its stages measures the next; with all four dies, FW and SEC are set (R324, R326, R328). -/
def State.runImage (s : State) (die : Nat) (f : FwImage) : State :=
  let s := s.extend die (Config.romRegister die % 8) f.digest
  let s := s.runStages die 0 f.stages
  let s := { s with fwSvn := s.fwSvn.set die f.svn }
  if (List.range 4).all fun d => (s.fwSvn.get? d).isSome then { s with rdy := s.rdy ||| 0xC0#64 } else s

/-- BOOT_ROM_LOAD (R326): slot A, then slot B; a die that refuses both exposes only the recovery mailbox. -/
def execBootRomLoad (die : Nat) (s : State) : Host.Outcome State Fault Refusal :=
  if decide (4 ≤ die) || (s.fwSvn.get? die).isSome || s.refused.contains die then .next s
  else
    match s.flashA.filter s.accepts, s.flashB.filter s.accepts with
    | some f, _ => .next (s.runImage die f)
    | none, some f => .next (s.runImage die f)
    | none, none => .next { s with refused := die :: s.refused }

/-! ### Attestation -/

/-- ATTESTATION_REQUEST (R328): the reply of a die whose firmware runs. -/
def execAttestationRequest (die : Nat) (nonce : BitVec 256) (s : State) : Host.Outcome State Fault Refusal :=
  if (s.fwSvn.get? die).isNone then .next s
  else
    let report : Report := { nonce, mrs := s.mr, svns := s.fwSvn, fuse := s.fuse, partNo := "GX-N4200" }
    .next { s with replies :=
      { die, report, signature := Config.deviceSign die s.replies.length report } :: s.replies }

/-! ### The core clock -/

/-- CLOCK_THROTTLE (R329): above the power or the temperature limit the clock falls by 100 MHz, down to 1.2 GHz; once both have
been clear for 1 ms it rises by 100 MHz, up to 2.1 GHz. -/
def execClockThrottle (overPower overTemp : Bool) (s : State) : Host.Outcome State Fault Refusal :=
  if overPower || overTemp then .next { s with mhz := max 1200 (s.mhz - 100), clearSince := s.ptp }
  else if s.clearSince + 1000000 ≤ s.ptp then .next { s with mhz := min 2100 (s.mhz + 100) }
  else .next s

end Sys2Proof.Machine
end

