-- ==== Sys2Proof/Machine/IntArith.lean ====
section
/-!
DEFINITION. Integer and address instructions, opcodes 0x00 to 0x16 (spec/05_arithmetic_conversion.md R93, R94, R99).
-/

namespace Sys2Proof.Machine

/-! ### The functions of the table of R93 -/

/-- sat_s32 (R67). -/
def satS32 (i : Int) : Word := BitVec.ofInt 32 (clampI (-2147483648) 2147483647 i)

/-- sat_u32 (R67). -/
def satU32 (i : Int) : Word := BitVec.ofInt 32 (clampI 0 4294967295 i)

def iaddW (mod : Nat) (a b : Word) : Word :=
  match mod with
  | 0 => a + b
  | 1 => satS32 (a.toInt + b.toInt)
  | _ => satU32 (a.toNat + b.toNat)

def isubW (mod : Nat) (a b : Word) : Word :=
  match mod with
  | 0 => a - b
  | 1 => satS32 (a.toInt - b.toInt)
  | _ => satU32 ((a.toNat : Int) - b.toNat)

def imulW (a b : Word) : Word := a * b

def imulhiW (mod : Nat) (a b : Word) : Word :=
  if mod = 0 then (a.setWidth 64 * b.setWidth 64).extractLsb' 32 32
  else (a.signExtend 64 * b.signExtend 64).extractLsb' 32 32

def imadW (mod : Nat) (a b c : Word) : Word :=
  match mod with
  | 0 => a * b + c
  | 1 => satS32 (a.toInt * b.toInt + c.toInt)
  | _ => satU32 (a.toNat * b.toNat + c.toNat)

def imadwD (mod : Nat) (a b : Word) (c : DWord) : DWord :=
  if mod = 0 then a.setWidth 64 * b.setWidth 64 + c else a.signExtend 64 * b.signExtend 64 + c

def iabsW (mod : Nat) (a : Word) : Word :=
  if mod = 0 then (if a.msb then -a else a) else satS32 a.toInt.natAbs

def iminW (mod : Nat) (a b : Word) : Word :=
  if (if mod = 0 then BitVec.slt b a else BitVec.ult b a) then b else a

def imaxW (mod : Nat) (a b : Word) : Word :=
  if (if mod = 0 then BitVec.slt a b else BitVec.ult a b) then b else a

/-- min(b, 32) of the shifts. -/
def shiftBy (b : Word) : Nat := min b.toNat 32

def shlW (a b : Word) : Word := a <<< shiftBy b

def shrW (a b : Word) : Word := a >>> shiftBy b

def sarW (a b : Word) : Word := a.sshiftRight (shiftBy b)

/-- rotl (R67). -/
def rolW (a b : Word) : Word := a.rotateLeft (b.toNat % 32)

/-- LOGIC: bit i is tt[4 a + 2 b + c] (R93, R94). -/
def logicW (tt : Nat) (a b c : Word) : Word :=
  let m (k : Nat) (x : Word) : Word := if tt.testBit k then x else 0
  m 0 (~~~a &&& ~~~b &&& ~~~c) ||| m 1 (~~~a &&& ~~~b &&& c) ||| m 2 (~~~a &&& b &&& ~~~c) ||| m 3 (~~~a &&& b &&& c)
  ||| m 4 (a &&& ~~~b &&& ~~~c) ||| m 5 (a &&& ~~~b &&& c) ||| m 6 (a &&& b &&& ~~~c) ||| m 7 (a &&& b &&& c)

def popcW (a : Word) : Word := BitVec.ofNat 32 ((List.range 32).filter a.getLsbD).length

/-- Leading zero bits from bit n − 1 down. -/
def clzFrom (a : Word) : Nat → Nat
  | 0 => 0
  | n + 1 => if a.getLsbD n then 0 else 1 + clzFrom a n

def clzW (a : Word) : Word := BitVec.ofNat 32 (clzFrom a 32)

def brevW (a : Word) : Word := a.reverse

def ctzW (a : Word) : Word := clzW (brevW a)

/-- Position and length of BFX and BFI (R94). -/
def bfPos (ctl : Word) : Nat := min (ctl.toNat % 256) 32
def bfLen (ctl : Word) : Nat := min (ctl.toNat / 256 % 256) (32 - bfPos ctl)

/-- BFX (R94). -/
def bfxW (mod : Nat) (a ctl : Word) : Word :=
  let len := bfLen ctl
  let f := a.toNat / 2 ^ bfPos ctl % 2 ^ len
  if len = 0 then 0
  else if mod = 1 then BitVec.ofInt 32 (signedOf len f)
  else BitVec.ofNat 32 f

/-- BFI (R94). -/
def bfiW (a b ctl : Word) : Word :=
  let m : Word := BitVec.ofNat 32 ((2 ^ bfLen ctl - 1) * 2 ^ bfPos ctl)
  (a &&& ~~~m) ||| ((b <<< bfPos ctl) &&& m)

/-- AADD (R93): the addend by MOD. -/
def aaddD (mod : Nat) (a : DWord) (b : Word) (b64 : DWord) : DWord :=
  match mod with
  | 0 => a + b.signExtend 64
  | 1 => a + b.setWidth 64
  | _ => a + b64

/-- Byte j of a word as a signed or an unsigned number. -/
def byteInt (signed : Bool) (w : Word) (j : Nat) : Int :=
  let b := w.extractLsb' (8 * j) 8
  if signed then b.toInt else b.toNat

/-- IDOT4 (R99). -/
def idot4W (mod : Nat) (a b c : Word) : Word :=
  let sa := mod % 2 == 1
  let sb := mod / 2 % 2 == 1
  let s := c.toInt + ([0, 1, 2, 3].map fun j => byteInt sa a j * byteInt sb b j).sum
  if mod / 4 % 2 = 1 then satS32 s else BitVec.ofInt 32 s

/-! ### The instructions -/

/-- IADD (R93). -/
def execIadd (w : Base) := aluA (.iadd w) fun x => x.map2 .int (iaddW 0)
def execIaddExt (w : ExtA) := aluA (.iaddExt w) fun x => x.map2 .int (iaddW w.mod)

/-- ISUB (R93). -/
def execIsub (w : Base) := aluA (.isub w) fun x => x.map2 .int (isubW 0)
def execIsubExt (w : ExtA) := aluA (.isubExt w) fun x => x.map2 .int (isubW w.mod)

/-- IMUL (R93). -/
def execImul (w : Base) := aluA (.imul w) fun x => x.map2 .int imulW
def execImulExt (w : ExtA) := aluA (.imulExt w) fun x => x.map2 .int imulW

/-- IMULHI (R93). -/
def execImulhi (w : Base) := aluA (.imulhi w) fun x => x.map2 .int (imulhiW 0)
def execImulhiExt (w : ExtA) := aluA (.imulhiExt w) fun x => x.map2 .int (imulhiW w.mod)

/-- IMAD (R93). -/
def execImad (w : ExtA) := aluA (.imad w) fun x => x.map3 .int (imadW w.mod)

/-- IMADW (R93). -/
def execImadw (w : ExtA) :=
  aluA64 (.imadw w) fun x l =>
    imadwD w.mod (LVec.at (x.src .int w.a) l) (LVec.at (x.src .int w.b) l) (x.src64 w.c l)

/-- IABS (R93). -/
def execIabs (w : Base) := aluA (.iabs w) fun x => x.map1 .int (iabsW 0)
def execIabsExt (w : ExtA) := aluA (.iabsExt w) fun x => x.map1 .int (iabsW w.mod)

/-- IMIN (R93). -/
def execImin (w : Base) := aluA (.imin w) fun x => x.map2 .int (iminW 0)
def execIminExt (w : ExtA) := aluA (.iminExt w) fun x => x.map2 .int (iminW w.mod)

/-- IMAX (R93). -/
def execImax (w : Base) := aluA (.imax w) fun x => x.map2 .int (imaxW 0)
def execImaxExt (w : ExtA) := aluA (.imaxExt w) fun x => x.map2 .int (imaxW w.mod)

/-- SHL (R93). -/
def execShl (w : Base) := aluA (.shl w) fun x => x.map2 .int shlW
def execShlExt (w : ExtA) := aluA (.shlExt w) fun x => x.map2 .int shlW

/-- SHR (R93). -/
def execShr (w : Base) := aluA (.shr w) fun x => x.map2 .int shrW
def execShrExt (w : ExtA) := aluA (.shrExt w) fun x => x.map2 .int shrW

/-- SAR (R93). -/
def execSar (w : Base) := aluA (.sar w) fun x => x.map2 .int sarW
def execSarExt (w : ExtA) := aluA (.sarExt w) fun x => x.map2 .int sarW

/-- ROL (R93). -/
def execRol (w : Base) := aluA (.rol w) fun x => x.map2 .int rolW
def execRolExt (w : ExtA) := aluA (.rolExt w) fun x => x.map2 .int rolW

/-- LOGIC (R93, R94): tt in SPEC [16:9]. -/
def execLogic (w : ExtA) := aluA (.logic w) fun x => x.map3 .int (logicW (w.f 16 9))

/-- POPC (R93). -/
def execPopc (w : Base) := aluA (.popc w) fun x => x.map1 .int popcW
def execPopcExt (w : ExtA) := aluA (.popcExt w) fun x => x.map1 .int popcW

/-- CLZ (R93). -/
def execClz (w : Base) := aluA (.clz w) fun x => x.map1 .int clzW
def execClzExt (w : ExtA) := aluA (.clzExt w) fun x => x.map1 .int clzW

/-- CTZ (R93). -/
def execCtz (w : Base) := aluA (.ctz w) fun x => x.map1 .int ctzW
def execCtzExt (w : ExtA) := aluA (.ctzExt w) fun x => x.map1 .int ctzW

/-- BREV (R93). -/
def execBrev (w : Base) := aluA (.brev w) fun x => x.map1 .int brevW
def execBrevExt (w : ExtA) := aluA (.brevExt w) fun x => x.map1 .int brevW

/-- BFX (R94). -/
def execBfx (w : ExtA) := aluA (.bfx w) fun x => x.map2 .int (bfxW w.mod)

/-- BFI (R94). -/
def execBfi (w : ExtA) := aluA (.bfi w) fun x => x.map3 .int bfiW

/-- The lanes of a SEL: its predicate in SPEC [11:9], inversion in [12]. -/
def selV (x : Ctx) (w : ExtA) : LVec :=
  let a := x.src .int w.a
  let b := x.src .int w.b
  LVec.tab fun l => if predAt x.g (w.f 11 9) (w.f 12 12 == 1) l then LVec.at a l else LVec.at b l

/-- SEL (R93). -/
def execSel (w : ExtA) (s : State) :=
  runGroup (.sel w) { lat := some 4, preds := [w.f 11 9] } (fun x s => .done (x.put .a 4 (selV x w) s)) s

/-- AADD (R93). -/
def execAadd (w : ExtA) :=
  aluA64 (.aadd w) fun x l => aaddD w.mod (x.src64 w.a l) (LVec.at (x.src .int w.b) l) (x.src64 w.b l)

/-- IDOT4 (R99). -/
def execIdot4 (w : ExtA) := aluA (.idot4 w) fun x => x.map3 .int (idot4W w.mod)

end Sys2Proof.Machine
end

