-- ==== Sys2Proof/Machine/Matrix.lean ====
section
/-!
DEFINITION. The matrix instructions, opcodes 0xD0 to 0xD7 (spec/10_matrix_unit.md R174–R191).
-/

namespace Sys2Proof.Machine

/-! ### Handles and operand sets -/

/-- Fields of a handle word (R181). -/
def hFmt (w : Word) : Option Fmt := Fmt.ofCode (w.toNat % 32)
def hNosc (w : Word) : Bool := w.getLsbD 12
def hSide (w : Word) : Bool := w.getLsbD 13
def hForm (w : Word) : Nat := w.toNat / 2 ^ 14 % 4
def hPal (w : Word) : Nat := w.toNat / 2 ^ 16 % 2 ^ 13

/-- What a step computes: elements of a row, scales of a row, and whether the tile holds INT32 (R175). -/
structure OpSet where
  n : Nat
  nb : Nat
  int : Bool
  deriving DecidableEq, Repr

def isF8 (f : Fmt) : Bool := f == .e4m3 || f == .e5m2
def isMx8 (f : Fmt) : Bool := f == .mxf8e4m3 || f == .mxf8e5m2

/-- The set that two handle words form (R175); none raises 0x054. -/
def opSet (wa wb : Word) : Option OpSet :=
  match hFmt wa, hFmt wb with
  | some fa, some fb =>
    if fa = .bf16 ∧ fb = .bf16 then some ⟨48, 0, false⟩
    else if isF8 fa && isF8 fb then some ⟨96, 0, false⟩
    else if isMx8 fa && isMx8 fb then some ⟨96, 3, false⟩
    else if fa = .s8 ∧ fb = .s8 then some ⟨96, 0, true⟩
    else if fa = .mxi8 ∧ fb = .mxi8 then
      if hNosc wa && hNosc wb then some ⟨96, 0, true⟩
      else if !hNosc wa && !hNosc wb then some ⟨96, 3, false⟩
      else none
    else if fa = .l6 ∧ fb = .l6 then some ⟨128, 0, false⟩
    else if fa = .mxl6 ∧ fb = .mxl6 then some ⟨128, 4, false⟩
    else if fa = .e2m1 ∧ fb = .e2m1 then some ⟨192, 0, false⟩
    else if fa = .mxf4 ∧ fb = .mxf4 then some ⟨192, 6, false⟩
    else none
  | _, _ => none

/-- A format that a handle may name (R175). -/
def handleFmt (f : Fmt) : Bool :=
  [Fmt.bf16, .e4m3, .e5m2, .mxf8e4m3, .mxf8e5m2, .s8, .mxi8, .l6, .mxl6, .e2m1, .mxf4].contains f

/-- A handle word without a fault of R181. -/
def handleOk (w : Word) : Bool :=
  w.toNat / 2 ^ 29 == 0 && w.toNat / 2 ^ 5 % 2 ^ 7 == 0
  && (match hFmt w with
    | some f =>
      handleFmt f && (!hNosc w || f == .mxi8) && !(hForm w == 2 && (f == .e2m1 || f == .mxf4))
    | none => false)
  && hForm w != 3 && (hForm w == 0 || hSide w) && (hPal w == 0 || hForm w == 2)

/-- Row size RB of a B row (R178). -/
def rowSize (wb : Word) : Nat :=
  let bits := match hFmt wb with | some f => f.bits | none => 8
  match hForm wb with
  | 1 => if bits = 16 then 56 else if bits = 4 then 72 else 64
  | 2 => if bits = 16 then 24 else if bits = 8 then 48 else 64
  | _ => 96

/-! ### The loop block -/

/-- A number of 16 or 32 bits read as signed. -/
def sgn (bits n : Nat) : Int := signedOf bits n

/-- The loop block of eight uniform registers (R177). -/
def loopBlk (r : Nat → Nat) : LoopBlk :=
  { aoff := r 0, ainc := sgn 32 (r 1), sainc := sgn 16 (r 2), astr := r 2 / 2 ^ 16 % 2 ^ 16, saoff := r 3
    boff := r 4 % 2 ^ 18, binc := sgn 32 (r 5), sboff := r 6 % 2 ^ 18, sbinc := sgn 16 (r 7) }

/-- Every place of `cnt` steps of rows lies from 0 up to a limit: base + s × inc + i × str, `len` bytes (R185). -/
def spanOk (base inc : Int) (cnt str rows len limit : Nat) : Bool :=
  let last := base + inc * ((cnt : Int) - 1)
  let lo := min base last
  let hi := max base last + (str : Int) * ((rows : Int) - 1) + len
  cnt == 0 || (decide (0 ≤ lo) && decide (hi ≤ limit))

/-- The checks of MLOOP from the handles on, in their order (R185); none when all pass. -/
def loopCause (mx : MxUnit) (ha hb cnt scr : Nat) (r : Nat → Nat) : Option Nat :=
  let a := mx.hnd.getD ha {}
  let b := mx.hnd.getD hb {}
  let k := loopBlk r
  if !a.set || !b.set then some 0x052
  else
    match opSet a.word b.word with
    | none => some 0x054
    | some os =>
      if hSide a.word || !hSide b.word then some 0x054
      else if r 4 / 2 ^ 18 != 0 || r 6 / 2 ^ 18 != 0 || r 7 / 2 ^ 16 != 0 then some 0x002
      else if r 0 % 16 != 0 || r 1 % 16 != 0 || k.astr % 16 != 0 || r 4 % 8 != 0 || r 5 % 8 != 0 then some 0x008
      else if !spanOk k.aoff k.ainc cnt k.astr 16 96 scr
          || (os.nb != 0 && !spanOk k.saoff k.sainc cnt os.nb 16 os.nb scr) then some 0x040
      else if !spanOk k.boff k.binc cnt (rowSize b.word) 12 (rowSize b.word) 262144
          || (os.nb != 0 && !spanOk k.sboff k.sbinc cnt os.nb 12 os.nb 262144) then some 0x051
      else none

/-! ### Entries -/

/-- What every matrix instruction does first: the role (R139), then nothing when no lane executes (R184).
DEDUCED, log 73: the role is checked even where no lane executes. -/
def Ctx.matrix (x : Ctx) (s : State) (k : Res) : Res :=
  if x.g.role ≠ .matrix then .cause 0x043 0 else if x.ex = 0 then .done s else k

/-- Enter an entry with true in the predicate, or write false when four are outstanding (R183, R187).
DEDUCED, log 74: the sequencer is idle when no entry is outstanding; the 3 cycles then hold for the copy of a WBLD and for the completion
of an entry without steps too. -/
def Ctx.enterMx (x : Ctx) (pd : Nat) (work : MxWork) (s : State) : State :=
  let es := (s.core x.core).mx.entries
  if 4 ≤ es.length then x.nowP pd 0 s
  else
    let (id, s) := s.fresh
    let e : MxEnt := { id, work, ready := if es.isEmpty then x.clk + 3 else x.clk }
    let s := s.modCore x.core fun c => { c with mx := { c.mx with entries := c.mx.entries ++ [e] } }
    x.nowP pd x.ex s

/-- WBLD (R185): A source, B length, C destination. -/
def execWbld (w : ExtA) (s : State) :=
  runGroup (.wbld w) { ends := true, pdst := [w.f 14 12] } (fun x s =>
    x.matrix s <|
      let a := (x.low w.a).toNat
      let b := (x.low w.b).toNat
      let c := (x.low w.c).toNat
      if a % 8 ≠ 0 ∨ b % 8 ≠ 0 ∨ c % 8 ≠ 0 then .cause 0x008 0
      else if x.team.scr < a + b then .cause 0x040 0
      else if 262144 < c + b then .cause 0x051 0
      else .done (x.enterMx (w.f 14 12) (.wbld a b c 0) s)) s

/-- The uniform registers of the loop block (R177). -/
def Ctx.blkReg (x : Ctx) (w : ExtA) (i : Nat) : Nat := (x.srcReg w.a i 0).toNat

/-- The entry of MLOOP and MSTEP after the tile is known (R183, R185). -/
def Ctx.enterLoop (x : Ctx) (w : ExtA) (tile cnt : Nat) (s : State) : Res :=
  let mx := (s.core x.core).mx
  let ha := w.f 22 20
  let hb := w.f 25 23
  match loopCause mx ha hb cnt x.team.scr (x.blkReg w) with
  | some c => .cause c 0
  | none =>
    .done (x.enterMx (w.f 14 12)
      (.loop tile (w.mod == 1) ha hb (mx.hnd.getD ha {}).word (mx.hnd.getD hb {}).word (loopBlk (x.blkReg w)) cnt 0) s)

/-- MLOOP (R185): TILE [31:26], HB [25:23], HA [22:20], PD [14:12]; the count is B[15:0]. -/
def execMloop (w : ExtA) (s : State) :=
  runGroup (.mloop w) { ends := true, pdst := [w.f 14 12] } (fun x s =>
    x.matrix s <| x.enterLoop w (w.f 31 26) ((x.low w.b).toNat % 2 ^ 16) s) s

/-- MSTEP (R185): one step on tile TILE + C. -/
def execMstep (w : ExtA) (s : State) :=
  runGroup (.mstep w) { ends := true, pdst := [w.f 14 12] } (fun x s =>
    x.matrix s <|
      let tile := w.f 31 26 + (x.low w.c).toNat
      if 63 < tile then .cause 0x050 0 else x.enterLoop w tile 1 s) s

/-! ### Waiting -/

/-- The status word of MWAIT (R188). -/
def MxUnit.status (mx : MxUnit) : Word := BitVec.ofNat 32 (2 * mx.entries.length + if mx.sticky then 1 else 0)

/-- MWAIT (R188): N [11:9]. -/
def execMwait (w : ExtA) (s : State) :=
  runGroup (.mwait w) { ends := true } (fun x s =>
    x.matrix s <|
      let mx := (s.core x.core).mx
      if mx.entries.length ≤ w.f 11 9 then .done (x.now (fun _ => mx.status) s)
      else .wait s { on := .mwait (w.f 11 9), ipc := x.pc, dst := w.dst, wide := false, pd := none, lanes := x.ex }) s

/-! ### Accumulator instructions -/

/-- Identities of the entries that name a tile of a range (R186). -/
def MxUnit.naming (mx : MxUnit) (tile n : Nat) : List Nat :=
  mx.entries.filterMap fun e =>
    match e.work with
    | .loop t _ _ _ _ _ _ _ _ => if tile ≤ t ∧ t < tile + n then some e.id else none
    | .wbld _ _ _ _ => none

/-- Queue an accumulator instruction on a range of tiles (R186). -/
def Ctx.queueAcc (x : Ctx) (op : AccOp) (tile n : Nat) (s : State) : State :=
  s.modCore x.core fun c => { c with mx := { c.mx with accq := c.mx.accq ++ [{ op, after := c.mx.naming tile n }] } }

/-- ACCRD (R189): TILE [31:26], Q [25:23], TR [22], IK [21], SAT [20], RND [19:17]. -/
def execAccrd (w : ExtA) (s : State) :=
  runGroup (.accrd w) { ends := true } (fun x s =>
    let sr := w.f 19 17 == 4
    let st := x.sr sr
    if x.g.role ≠ .matrix then .cause 0x043 0
    else if x.ex = 0 then .done (x.advance sr s)
    else
      let tile := w.f 31 26 + (x.low w.a).toNat
      if 63 < tile then .cause 0x050 0
      else
        let s := x.advance sr s
        let (id, s) := s.fresh
        let accs : List Acc := (Mask.list x.ex).map fun l => { lane := l, off := 0, len := 4, pos := 0 }
        let s := s.addOut
          { id, g := x.ref, core := x.core, kind := .accrd, sb := slotOf w.h, dst := w.dst, regs := 1, size := 2, sx := false
            lanes := x.ex, from_ := none, pieces := [{ line := 0, accs }], part := x.team.part
            epoch := s.epochOf x.team.part, l1pos := none, cls := .other, slot := x.slot, iss := x.clk }
        .done (x.queueAcc
          (.read tile (w.f 25 23) (w.f 22 22 == 1) (w.f 21 21 == 1) (w.f 20 20 == 1) (w.f 19 17) w.mod st id) tile 1 s)) s

/-- ACCWR (R190). -/
def execAccwr (w : ExtA) (s : State) :=
  runGroup (.accwr w) { ends := true } (fun x s =>
    x.matrix s <|
      let tile := w.f 31 26 + (x.low w.a).toNat
      if 63 < tile then .cause 0x050 0
      else .done (x.queueAcc (.write tile (w.f 25 23) (w.f 22 22 == 1) x.ex (x.src .int w.b)) tile 1 s)) s

/-- ACCCLR (R191): n − 1 [25:20], S [19]. -/
def execAccclr (w : ExtA) (s : State) :=
  runGroup (.accclr w) { ends := true } (fun x s =>
    x.matrix s <|
      let tile := w.f 31 26 + (x.low w.a).toNat
      let n := w.f 25 20 + 1
      if 64 < tile + n then .cause 0x050 0
      else .done (x.queueAcc (.clear tile n (w.f 19 19 == 1)) tile n s)) s

/-! ### Handles -/

/-- Change a handle; its generation advances (R181, R182). -/
def Ctx.setHandle (x : Ctx) (h : Nat) (f : Handle → Handle) (s : State) : State :=
  s.modCore x.core fun c =>
    { c with mx := { c.mx with hnd := c.mx.hnd.update h {} fun k => { f k with gen := k.gen + 1 } } }

/-- OHND (R181): H [11:9]. -/
def execOhnd (w : ExtA) (s : State) :=
  runGroup (.ohnd w) { ends := true } (fun x s =>
    x.matrix s <|
      let v := x.low w.a
      if handleOk v then .done (x.setHandle (w.f 11 9) (fun k => { k with word := v, set := true }) s)
      else .cause 0x054 0) s

/-- OHND.clr (R181). -/
def execOhndClr (w : ExtA) (s : State) :=
  runGroup (.ohndClr w) { ends := true } (fun x s =>
    x.matrix s <| .done (x.setHandle (w.f 11 9) (fun k => { k with set := false }) s)) s

end Sys2Proof.Machine
end

