-- ==== Sys2Proof/Machine/MatrixUnit.lean ====
section
/-!
DEFINITION. The sequencer of a matrix unit: steps, operand-cache fills, WBLD transfers and accumulator instructions
(spec/10_matrix_unit.md R174–R192).
-/

namespace Sys2Proof.Machine

/-! ### Elements of rows -/

/-- Field k of `bits` bits of a little-endian bit string (R71, R75). -/
def bitField (x bits k : Nat) : Nat := x / 2 ^ (bits * k) % 2 ^ bits

/-- The element codes of a row of bytes. -/
def rowCodes (f : Fmt) (n : Nat) (bs : List Byte) : List Nat :=
  let x := leNat bs
  (List.range n).map fun k => bitField x f.bits k

/-- The expanded element codes of an S24 row (R179). -/
def expandS24 (f : Fmt) (n : Nat) (bs : List Byte) : List Nat :=
  let x := leNat bs
  let idx (m : Nat) : Nat := x / 2 ^ (8 * 48 + 2 * m) % 4
  (List.range n).map fun e =>
    let g := e / 4
    if idx (2 * g + 1) = e % 4 then bitField x f.bits (2 * g + 1)
    else if idx (2 * g) = e % 4 then bitField x f.bits (2 * g)
    else 0

/-- The expanded element codes of a PAL row, with its palette of 32 bytes (R180). -/
def expandPal (f : Fmt) (n : Nat) (bs pal : List Byte) : List Nat :=
  let entry (x : Nat) : Nat :=
    match f with
    | .bf16 => (pal.getD (2 * x) 0).toNat + 256 * (pal.getD (2 * x + 1) 0).toNat
    | .l6 | .mxl6 => (pal.getD x 0).toNat % 64
    | _ => (pal.getD x 0).toNat
  (List.range n).map fun e => entry ((bs.getD (e / 2) 0).toNat / 16 ^ (e % 2) % 16)

/-- The element codes of a B row in the form of its handle (R178). -/
def expandB (wb : Word) (n : Nat) (bs pal : List Byte) : List Nat :=
  match hFmt wb with
  | none => []
  | some f =>
    match hForm wb with
    | 1 => expandS24 f n bs
    | 2 => expandPal f n bs pal
    | _ => rowCodes f n bs

/-! ### The step -/

/-- The product of two elements of a step, scaled (R176). -/
def stepProd (fa fb : Fmt) (nosc : Bool) (x y : Nat) (sc : Option (Nat × Nat)) : Val :=
  let p := if nosc then (Fmt.s8.val x).mul (Fmt.s8.val y) else prodOf fa fb x y
  match sc with
  | none => p
  | some (a, b) =>
    match e8m0Exp a, e8m0Exp b with
    | some ea, some eb => p.scale (ea + eb)
    | _, _ => .nan

/-- The products of A row i and B row j. -/
def MxStep.prods (m : MxStep) (os : OpSet) (i j : Nat) : List Val :=
  match hFmt m.wa, hFmt m.wb with
  | some fa, some fb =>
    let ra := m.arows.getD i []
    let rb := m.brows.getD j []
    let sa := m.ascales.getD i []
    let sb := m.bscales.getD j []
    (List.range os.n).map fun k =>
      stepProd fa fb (hNosc m.wa) (ra.getD k 0) (rb.getD k 0)
        (if os.nb = 0 then none else some (sa.getD (k / 32) 0, sb.getD (k / 32) 0))
  | _, _ => []

/-- The integer of an exact product. -/
def valInt (v : Val) : Int := v.toGrid 0

/-- One element after a step: its bits, and whether it was clamped (R86, R176). -/
def MxStep.element (m : MxStep) (os : OpSet) (i j : Nat) (acc : Word) : Word × Bool :=
  let a := if m.zero then 0 else acc
  let ps := m.prods os i j
  if os.int then
    let sum := (a.toInt : Int) + (ps.map valInt).sum
    let r := clampI (-2147483647) 2147483647 sum
    (BitVec.ofInt 32 r, r != sum)
  else (matrixStepFp ps a, false)

/-- The key of element (i, j) of a tile. -/
def accKey (tile i j : Nat) : Nat := 192 * tile + 12 * i + j

/-- The accumulator store after a step (R176). -/
def MxUnit.applyStep (mx : MxUnit) (m : MxStep) : MxUnit :=
  match opSet m.wa m.wb with
  | none => mx
  | some os =>
    (List.range 192).foldl (fun mx e =>
      let k := accKey m.tile (e / 12) (e % 12)
      let (x, c) := m.element os (e / 12) (e % 12) (mx.acc.getD k 0)
      { mx with acc := mx.acc.set k x, sticky := mx.sticky || c }) mx

/-! ### The operand cache -/

/-- The A bytes of step s: offset and length of each row, and of all scales (R177). -/
def LoopBlk.places (b : LoopBlk) (s nb : Nat) : List (Nat × Nat) :=
  ((List.range 16).map fun i => ((b.aoff + (s : Int) * b.ainc + (i * b.astr : Nat)).toNat, 96))
    ++ (if nb = 0 then [] else [((b.saoff + (s : Int) * b.sainc).toNat, 16 * nb)])

/-- The lines of byte ranges, each once. -/
def rangeLines (ps : List (Nat × Nat)) : List Nat := (ps.flatMap fun p => (spanLines p.1 p.2).map (·.1)).eraseDups

/-- A line of the cache that hits (R182). -/
def MxUnit.ocFind (mx : MxUnit) (h off : Nat) : Option OcLine :=
  mx.ocache.find? fun l => l.h == h && l.off == off && l.gen == (mx.hnd.getD h {}).gen

/-- Lines that have arrived are in the cache, the newest first; 256 remain (R182). -/
def MxUnit.arrive (mx : MxUnit) (clk : Nat) : MxUnit :=
  { mx with ocache := ((mx.fills.filter fun f => f.2 ≤ clk).map (·.1) ++ mx.ocache).take 256
            fills := mx.fills.filter fun f => !(f.2 ≤ clk) }

/-- The lines that a step needs and that neither are in the cache nor arrive. -/
def MxUnit.missing (mx : MxUnit) (h : Nat) (lines : List Nat) : List Nat :=
  lines.filter fun l => (mx.ocFind h l).isNone
    && !mx.fills.any fun f => f.1.h == h && f.1.off == l && f.1.gen == (mx.hnd.getD h {}).gen

/-- The bytes of a range from the cache. -/
def MxUnit.ocBytes (mx : MxUnit) (h off n : Nat) : List Byte :=
  (List.range n).map fun i =>
    match mx.ocFind h ((off + i) / 128) with
    | some l => l.bytes.getD ((off + i) % 128) 0
    | none => 0

/-- Lines used move to MRU. -/
def MxUnit.ocTouch (mx : MxUnit) (h : Nat) (lines : List Nat) : MxUnit :=
  let used : OcLine → Bool := fun l => l.h == h && lines.contains l.off && l.gen == (mx.hnd.getD h {}).gen
  { mx with ocache := mx.ocache.filter used ++ mx.ocache.filter fun l => !used l }

/-- Every byte of a range that lies in a hoop slot lies in a FULL or DRAINING one (R182). -/
def Team.slotsReady (t : Team) (off n : Nat) : Bool :=
  t.slots.all fun x =>
    match t.hoops.get? x.1 with
    | some h =>
      n == 0 || decide (x.2.2 + h.ssz ≤ off) || decide (off + n ≤ x.2.2) || h.tagOf x.2.1 == .full || h.tagOf x.2.1 == .draining
    | none => true

/-! ### Entries -/

/-- Every step of the entry has started, or every byte has been copied. -/
def MxEnt.issued (e : MxEnt) : Bool :=
  match e.work with
  | .loop _ _ _ _ _ _ _ total next => total == next
  | .wbld _ _ _ _ => false

/-- The entry that performs next, with whether it is the oldest (R186, R187).
DEDUCED, log 74: behind an entry that has no last step, a WBLD or a loop of count 0, the next entry performs once that one has nothing
left to do, which for a WBLD is its completion. -/
def MxUnit.current (mx : MxUnit) : Option (MxEnt × Bool) :=
  match mx.entries.find? fun e => !e.issued with
  | some e => some (e, (mx.entries.head?.map MxEnt.id) == some e.id)
  | none => none

/-- The tiles of an accumulator instruction: first and count. -/
def AccOp.tiles (o : AccOp) : Nat × Nat :=
  match o with
  | .read t _ _ _ _ _ _ _ _ => (t, 1)
  | .write t _ _ _ _ => (t, 1)
  | .clear t n _ => (t, n)

/-- An accumulator instruction issued before the entry was accepted still has to perform on the tile (R186). -/
def MxUnit.accBefore (mx : MxUnit) (entry tile : Nat) : Bool :=
  mx.accq.any fun a => decide (a.op.tiles.1 ≤ tile) && decide (tile < a.op.tiles.1 + a.op.tiles.2) && !a.after.contains entry

/-- The team whose unit may perform, with its unit: its node runs (R303). -/
def State.mxRuns (s : State) (core : Nat) : Option (Team × MxUnit) :=
  let mx := (s.core core).mx
  match mx.owner.bind s.team? with
  | none => none
  | some t => if t.core? = some core ∧ s.nodeRuns t = true then some (t, mx) else none

/-- An entry may go on: while its team is being saved no further step starts, but for the entries that an accumulator instruction
waits for, whose slot the save waits for (R45, R152, R186, R192). DEDUCED, log 59. -/
def MxUnit.goesOn (mx : MxUnit) (t : Team) (e : MxEnt) : Bool :=
  t.saving.isNone || mx.accq.any fun a => a.after.any fun i => decide (e.id ≤ i)

def State.modMx (s : State) (core : Nat) (f : MxUnit → MxUnit) : State := s.modCore core fun c => { c with mx := f c.mx }

def MxUnit.modEnt (mx : MxUnit) (id : Nat) (f : MxEnt → MxEnt) : MxUnit :=
  { mx with entries := mx.entries.map fun e => if e.id = id then f e else e }

/-- OPERAND_CACHE_FILL (R187): up to four missing lines of the next step arrive from scratch, once a cycle. -/
def execOperandCacheFill (core : Nat) (s : State) : Host.Outcome State Fault Refusal :=
  match s.mxRuns core with
  | none => .next s
  | some (t, mx) =>
    match mx.current with
    | some (e, _) =>
      match e.work with
      | .loop _ _ ha _ wa wb blk _ next =>
        if s.clk < e.ready ∨ s.clk < mx.fillFree ∨ mx.goesOn t e = false then .next s
        else
          match opSet wa wb with
          | none => .next s
          | some os =>
            let mx := mx.arrive s.clk
            let lines := (mx.missing ha (rangeLines (blk.places next os.nb))).take 4
            if lines.isEmpty then .next s
            else
              let gen := (mx.hnd.getD ha {}).gen
              let got := lines.map fun l =>
                ({ h := ha, gen, off := l, bytes := (s.core core).scratch.bytes (t.scrBase + 128 * l) 128 }, s.clk + 1)
              .next (s.modMx core fun _ => { mx with fills := mx.fills ++ got, fillFree := s.clk + 1 })
      | .wbld _ _ _ _ => .next s
    | none => .next s

/-- The operands of a step as read at its start (R176–R180). -/
def MxUnit.stepOf (mx : MxUnit) (e : Nat) (tile : Nat) (z : Bool) (ha : Nat) (wa wb : Word) (os : OpSet) (b : LoopBlk)
    (s clk : Nat) : MxStep :=
  let fa := (hFmt wa).getD .s8
  let rb := rowSize wb
  let boff := (b.boff + (s : Int) * b.binc).toNat
  let sboff := (b.sboff + (s : Int) * b.sbinc).toNat
  let saoff := (b.saoff + (s : Int) * b.sainc).toNat
  let pal := mx.wb.bytes (32 * hPal wb) 32
  let nats (bs : List Byte) : List Nat := bs.map BitVec.toNat
  { entry := e, tile, zero := z && s == 0, wa, wb, at_ := clk + 8
    arows := (List.range 16).map fun i =>
      rowCodes fa os.n (mx.ocBytes ha (b.aoff + (s : Int) * b.ainc + (i * b.astr : Nat)).toNat 96)
    ascales := (List.range 16).map fun i => nats (mx.ocBytes ha (saoff + i * os.nb) os.nb)
    brows := (List.range 12).map fun j => expandB wb os.n (mx.wb.bytes (boff + j * rb) rb) pal
    bscales := (List.range 12).map fun j => nats (mx.wb.bytes (sboff + j * os.nb) os.nb) }

/-- The fetch meets a slot that is neither FULL nor DRAINING: the node is killed (R182, R185). -/
def State.mxKill (s : State) (t : Team) : State := s.killNode t.node 0x053

/-- MATRIX_STEP_START (R187): the next step starts once its lines are present, at most one a cycle. -/
def execMatrixStepStart (core : Nat) (s : State) : Host.Outcome State Fault Refusal :=
  match s.mxRuns core with
  | none => .next s
  | some (t, mx) =>
    match mx.current with
    | some (e, _) =>
      match e.work with
      | .loop tile z ha hb wa wb blk total next =>
        if s.clk < e.ready ∨ s.clk < mx.lastStep ∨ mx.accBefore e.id tile = true ∨ mx.goesOn t e = false then .next s
        else
          match opSet wa wb with
          | none => .next s
          | some os =>
            let mx := mx.arrive s.clk
            let ps := blk.places next os.nb
            let lines := rangeLines ps
            if lines.any fun l => (mx.ocFind ha l).isNone then .next s
            else if ps.any fun p => !t.slotsReady p.1 p.2 then .next (s.mxKill t)
            else
              let st := mx.stepOf e.id tile z ha wa wb os blk next s.clk
              let mx := (mx.ocTouch ha lines).modEnt e.id fun e =>
                { e with work := .loop tile z ha hb wa wb blk total (next + 1), started := true, lastStart := s.clk }
              .next (s.modMx core fun _ => { mx with steps := mx.steps ++ [st], lastStep := s.clk + 1 })
      | .wbld _ _ _ _ => .next s
    | none => .next s

/-- MATRIX_STEP_UPDATE (R176, R187): 8 cycles after its start a step's tile update is visible. -/
def execMatrixStepUpdate (core : Nat) (s : State) : Host.Outcome State Fault Refusal :=
  match (s.core core).mx.steps with
  | [] => .next s
  | m :: r => if s.clk < m.at_ then .next s else .next (s.modMx core fun mx => { mx.applyStep m with steps := r })

/-- WBLD_TRANSFER (R185, R187): the oldest entry copies up to 256 bytes, once a cycle. -/
def execWbldTransfer (core : Nat) (s : State) : Host.Outcome State Fault Refusal :=
  match s.mxRuns core with
  | none => .next s
  | some (t, mx) =>
    match mx.current with
    | some (e, true) =>
      match e.work with
      | .wbld src len dst done =>
        let n := min 256 (len - done)
        if s.clk < e.ready ∨ n = 0 ∨ (e.started = true ∧ e.lastStart = s.clk) ∨ mx.goesOn t e = false then .next s
        else if !t.slotsReady (src + done) n then .next (s.mxKill t)
        else
          let bs := (s.core core).scratch.bytes (t.scrBase + src + done) n
          .next (s.modMx core fun mx =>
            { mx with wb := mx.wb.writeBytes (dst + done) bs }.modEnt e.id fun e =>
              { e with work := .wbld src len dst (done + n), started := true, lastStart := s.clk })
      | .loop _ _ _ _ _ _ _ _ _ => .next s
    | _ => .next s

/-- The oldest entry has nothing left to do. -/
def MxUnit.finished (mx : MxUnit) (e : MxEnt) (clk : Nat) : Bool :=
  match e.work with
  | .loop _ _ _ _ _ _ _ total next =>
    total == next && decide (e.ready ≤ clk) && mx.steps.all fun m => m.entry != e.id
  | .wbld _ len _ done => len == done && decide (e.ready ≤ clk) && (!e.started || decide (e.lastStart < clk))

/-- Splits of a team that wait in MWAIT, with their N (R188). -/
def Team.mwaits (t : Team) : List (GRef × Nat × Nat) :=
  t.groups.zipIdx.flatMap fun g =>
    g.1.splits.filterMap fun sp =>
      match sp.2.wait, sp.2.out with
      | some w, none =>
        match w.on with
        | .mwait n => some ({ team := t.id, grp := g.2 }, sp.1, n)
        | _ => none
      | _, _ => none

/-- The status word of a team's matrix unit, in its core or in its frame (R188, R192). -/
def State.mxStatus (s : State) (team : Nat) : Word :=
  match s.team? team with
  | none => 0
  | some t =>
    match t.core?, t.frame.bind Frame.mx with
    | some c, _ => (s.core c).mx.status
    | none, some mx => mx.status
    | none, none => 0

/-- Waits that end as a cycle begins; the outcome of an MWAIT is the status word of this moment (R188, R203). -/
def State.applyWakes (s : State) : State :=
  s.wakes.foldl (fun s x => s.wake x.1.g x.1.slot (x.2.getD (WaitOut.word true (s.mxStatus x.1.g.team)))) { s with wakes := [] }

/-- MATRIX_ENTRY_COMPLETE (R187, R188): the oldest entry completes, and MWAITs whose condition holds end in the next cycle. -/
def execMatrixEntryComplete (core : Nat) (s : State) : Host.Outcome State Fault Refusal :=
  match s.mxRuns core with
  | none => .next s
  | some (t, mx) =>
    match mx.entries with
    | [] => .next s
    | e :: r =>
      if !mx.finished e s.clk then .next s
      else
        let s := s.modMx core fun mx => { mx with entries := r }
        .next (t.mwaits.foldl (fun s w =>
          if r.length ≤ w.2.2 then s.wakeNext { g := w.1, slot := w.2.1 } none else s) s)

/-! ### Accumulator instructions -/

/-- Element e of a tile, by TR (R189). -/
def accElem (tr : Bool) (tile e : Nat) : Nat :=
  if tr then accKey tile (e % 16) (e / 16) else accKey tile (e / 12) (e % 12)

/-- The value of element bits under IK (R189). -/
def accVal (ik : Bool) (w : Word) : Val := if ik then Fmt.s32.val w.toNat else fp32.val w.toNat

/-- The result of ACCRD in a lane (R189); `xs` are the 32 elements of the chunk. -/
def accConv (conv : Nat) (ik sat : Bool) (mode : Rnd) (st : Word) (xs : List Word) (l : Nat) : Word :=
  let w := xs.getD l 0
  let v := accVal ik w
  let u := srWord st l 0
  BitVec.ofNat 32 (match conv with
    | 0 => w.toNat
    | 1 => bf16.round mode sat u v
    | 2 => fp16.round mode sat u v
    | 3 => e4m3.round mode sat u v
    | 4 => e5m2.round mode sat u v
    | 5 => codeOf 8 (v.roundInt .rne 0 (-128) 127)
    | 6 =>
      let (x, ks) := requantMxint8 (xs.map (accVal ik))
      ks.getD l 0 + 256 * x
    | _ => fp32.round mode sat u v)

/-- ACCUMULATOR_PERFORM (R186, R189–R191): the oldest accumulator instruction performs once the earlier entries on its tiles
have completed; the results of ACCRD land 6 cycles later. -/
def execAccumulatorPerform (core : Nat) (s : State) : Host.Outcome State Fault Refusal :=
  let mx := (s.core core).mx
  match mx.accq with
  | [] => .next s
  | a :: r =>
    if mx.entries.any fun e => a.after.contains e.id then .next s
    else
      let s := s.modMx core fun mx => { mx with accq := r }
      match a.op with
      | .read tile q tr ik sat rnd conv sr load =>
        let xs := (List.range 32).map fun l => mx.acc.getD (accElem tr tile (32 * q + l)) 0
        .next (s.modOut load fun o => { o.modPiece 0 fun p =>
          { p with vals := some (p.accs.map fun x =>
              (x.lane, (accConv conv ik sat (Rnd.ofField rnd) sr xs x.lane).setWidth 128)) } with at_ := s.clk + 6 })
      | .write tile q tr lanes val =>
        .next (s.modMx core fun mx =>
          { mx with acc := (Mask.list lanes).foldl (fun m l => m.set (accElem tr tile (32 * q + l)) (LVec.at val l)) mx.acc })
      | .clear tile n sticky =>
        .next (s.modMx core fun mx =>
          { mx with acc := mx.acc.filter (fun x => decide (x.1 < 192 * tile) || decide (192 * (tile + n) ≤ x.1))
                    sticky := mx.sticky && !sticky })

end Sys2Proof.Machine
end

