-- ==== Sys2Proof/Machine/Sequencer.lean ====
section
/-!
DEFINITION. The tap sequencer, in use while the package is the primary, and its recovery (spec/22_fabric.md R341–R346).
An event that is not enabled leaves the state unchanged.
-/

namespace Sys2Proof.Machine

/-! ### Roles -/

/-- Fields of PODCFG (R330). -/
def State.stby (s : State) : Nat := s.podcfg.toNat / 2 ^ 28 % 2 ^ 9
def State.sv (s : State) : Bool := s.podcfg.getLsbD 37

/-- The package is the primary, and is not in recovery. -/
def State.isPrimary (s : State) : Bool := s.inPod && s.prim == s.pkg && s.seq.recovering.isNone

/-- PODCFG names a new primary and no standby (R346). -/
def State.setPrim (s : State) (p : Nat) : State :=
  { s with podcfg := (s.podcfg &&& ~~~0x000000200FF80000#64) ||| BitVec.ofNat 64 (p % 2 ^ 9 * 2 ^ 19) }

def State.setEpoch (s : State) (e : Byte) : State :=
  { s with podcfg := (s.podcfg &&& 0x00FFFFFFFFFFFFFF#64) ||| (e.setWidth 64 <<< 56) }

def State.modSeq (s : State) (f : TapSeq → TapSeq) : State := { s with seq := f s.seq }

/-- Messages leave the sequencer, each for a member. -/
def State.tell (s : State) (ms : List (Nat × CollMsg)) : State := ms.foldl (fun s m => s.sendMsg m.1 m.2) s

/-! ### Pairs -/

/-- A member has joined the pair by posting or by cancelling (R341). -/
def Pair.joined (p : Pair) (m : Nat) : Bool := p.posted.any (fun x => x.1 == m) || p.cancels.contains m

/-- Every member has joined (R341). -/
def Pair.closed (p : Pair) (ms : List Nat) : Bool := ms.all p.joined

/-- DONE or FAILED at every member, or CANCELLED (R343, R345). -/
def Pair.complete (p : Pair) (ms : List Nat) : Bool := p.cancelled || (!ms.isEmpty && ms.all p.done.contains)

/-- Change the pair of a tap of a communicator. -/
def State.modPair (s : State) (comm : Nat) (tap : Word) (f : Pair → Pair) : State :=
  s.modSeq fun q => { q with pairs := q.pairs.map fun p => if p.comm = comm ∧ p.tap = tap then f p else p }

/-- The oldest tap number of a communicator that is not complete (R342). -/
def State.oldestTap (s : State) (comm : Nat) : Option Word :=
  let ms := s.members comm
  (s.seq.pairs.filter fun p => p.comm == comm && !p.complete ms).foldl (fun acc p =>
    match acc with
    | none => some p.tap
    | some t => if serialLt p.tap t then some p.tap else some t) none

/-- The next tap number, if the window of R342 lets a pair open. -/
def State.nextTap (s : State) (comm : Nat) : Option Word :=
  let t := s.seq.next.getD comm 0
  match s.oldestTap comm with
  | none => some t
  | some o => if (t - o).toNat < 2 ^ 20 then some t else none

/-- A pair opens with a tap number (R341). -/
def State.openPair (s : State) (comm : Nat) (tag tap : Word) : State :=
  s.modSeq fun q => { q with next := q.next.set comm (tap + 1), pairs := q.pairs ++ [{ comm, tag, tap }] }

/-- The oldest pair of a communicator and a tag that satisfies a test. -/
def State.findPair (s : State) (comm : Nat) (tag : Word) (p : Pair → Bool) : Option Pair :=
  s.seq.pairs.find? fun x => x.comm == comm && x.tag == tag && p x

/-- Complete and closed pairs are no longer kept. -/
def State.dropPairs (s : State) : State :=
  s.modSeq fun q => { q with pairs := q.pairs.filter fun p =>
    let ms := s.members p.comm
    !(p.complete ms && p.closed ms) }

/-- A pair becomes CANCELLED: every member that has posted it receives CANCELLED (R345). -/
def State.cancelPair (s : State) (p : Pair) : State :=
  if p.cancelled then s
  else
    (s.modPair p.comm p.tap fun x => { x with cancelled := true }).tell
      (p.posted.map fun x => (x.1, .cancelled p.comm p.tag s.epochNow))

/-- A post joins the oldest pair that its member has not joined, or opens one: the pair, if the window lets it open (R341, R342). -/
def State.placePost (s : State) (m comm : Nat) (tag : Word) (key : CollKey) : State × Option Pair :=
  let join (s : State) (p : Pair) : State × Option Pair :=
    (s.modPair comm p.tap fun x => { x with posted := x.posted ++ [(m, key)] }, some p)
  match s.findPair comm tag fun p => !p.joined m with
  | some p => join s p
  | none =>
    match s.nextTap comm with
    | none => (s, none)
    | some t => join (s.openPair comm tag t) { comm, tag, tap := t }

/-- A member that has joined a pair by its post gets the tap number, and CANCELLED at once in a cancelled pair (R341, R345). -/
def State.tellTap (s : State) (m : Nat) (p : Pair) : State :=
  let e := s.epochNow
  s.tell ((m, .tap p.comm p.tag p.tap e) :: if p.cancelled then [(m, .cancelled p.comm p.tag e)] else [])

/-- A post reaches the sequencer; true when it has joined or opened a pair (R341, R342). -/
def State.takePost (s : State) (m comm : Nat) (tag : Word) (key : CollKey) : State × Bool :=
  match s.placePost m comm tag key with
  | (s, some p) => (s.tellTap m p, true)
  | (s, none) => (s, false)

/-- A cancellation reaches the sequencer, and takes the first of its cases that applies; true when it has been answered
(R342, R345). -/
def State.takeCancel (s : State) (m comm : Nat) (tag : Word) : State × Bool :=
  let answer (s : State) (ok : Bool) : State := s.tell [(m, .reply comm tag ok s.epochNow)]
  let join (s : State) (p : Pair) : State :=
    answer ((s.modPair p.comm p.tap fun x => { x with cancels := x.cancels ++ [m] }).cancelPair p) true
  match s.findPair comm tag fun p => !p.joined m with
  | some p => (join s p, true)
  | none =>
    let ms := s.members comm
    match s.findPair comm tag fun p => p.posted.any (fun x => x.1 == m) && !p.complete ms with
    | some p => if p.started || p.failed then (answer s false, true) else (answer (s.cancelPair p) true, true)
    | none =>
      match s.nextTap comm with
      | none => (s, false)
      | some t => (join (s.openPair comm tag t) { comm, tag, tap := t }, true)

/-- What waits for the window is taken up again, in order (R342). -/
def State.retryWaiting (s : State) : List (Nat × Nat × Word × Option CollKey) → State
  | [] => s
  | w :: r =>
    let (m, comm, tag, key) := w
    let (s, ok) := match key with
      | some k => s.takePost m comm tag k
      | none => s.takeCancel m comm tag
    let s := if ok then s else s.modSeq fun q => { q with waiting := q.waiting ++ [w] }
    s.retryWaiting r

/-- The sequencer's tables after a change: pairs that are over go, and what waited is tried again. -/
def State.settleSeq (s : State) : State :=
  let s := s.dropPairs
  (s.modSeq fun q => { q with waiting := [] }).retryWaiting s.seq.waiting

/-- A post or a cancellation waits: for the window, or for the end of a recovery (R342, R346). -/
def State.queueSeq (s : State) (w : Nat × Nat × Word × Option CollKey) : State :=
  s.modSeq fun q => { q with waiting := q.waiting ++ [w] }

/-- A post has come (R341, R342); one that reaches a standby in its recovery waits (R346). -/
def State.gotPost (s : State) (member comm : Nat) (tag : Word) (key : CollKey) : State :=
  if s.seq.recovering.isSome then s.queueSeq (member, comm, tag, some key)
  else if !s.isPrimary then s
  else
    match s.takePost member comm tag key with
    | (s, true) => s.settleSeq
    | (s, false) => s.queueSeq (member, comm, tag, some key)

/-- TAP_POST_ARRIVAL (R341, R342). -/
def execTapPostArrival (member comm : Nat) (tag : Word) (key : CollKey) (s : State) : Host.Outcome State Fault Refusal :=
  .next (s.gotPost member comm tag key)

/-- A cancellation has come (R342, R345); one that reaches a standby in its recovery waits (R346). -/
def State.gotCancel (s : State) (member comm : Nat) (tag : Word) : State :=
  if s.seq.recovering.isSome then s.queueSeq (member, comm, tag, none)
  else if !s.isPrimary then s
  else
    match s.takeCancel member comm tag with
    | (s, true) => s.settleSeq
    | (s, false) => s.queueSeq (member, comm, tag, none)

/-- TAP_CANCEL_ARRIVAL (R342, R345). -/
def execTapCancelArrival (member comm : Nat) (tag : Word) (s : State) : Host.Outcome State Fault Refusal :=
  .next (s.gotCancel member comm tag)

/-! ### Starting collectives -/

/-- A member's report is recorded: the collective is over there; a failure is one of the pair (R343). -/
def State.takeReport (s : State) (comm : Nat) (r : DoneReport) : State :=
  s.modPair comm r.tap fun p =>
    { p with done := if p.done.contains r.member then p.done else r.member :: p.done, failed := p.failed || !r.ok }

/-- The lowest tap of a communicator that is not complete, if every member has posted it and it has not started. -/
def State.startable1 (s : State) (comm : Nat) : Option Pair :=
  let ms := s.members comm
  match s.oldestTap comm with
  | none => none
  | some t =>
    s.seq.pairs.find? fun p =>
      p.comm == comm && p.tap == t && !p.started && !p.failed && ms.all fun m => p.posted.any fun x => x.1 == m

/-- Every member's descriptor has one key (R343). -/
def Pair.sameKeys (p : Pair) : Bool := (p.posted.map (·.2)).all fun k => some k == (p.posted.map (·.2)).head?

/-- The next collective of a communicator starts, or becomes FAILED at every member when a key differs (R343). -/
def State.startNext (s : State) (comm : Nat) : State :=
  match s.startable1 comm with
  | none => s
  | some p =>
    let ms := s.members comm
    if p.sameKeys then
      (s.modPair comm p.tap fun x => { x with started := true }).tell (ms.map fun m => (m, .start comm p.tap s.epochNow))
    else (s.modPair comm p.tap fun x => { x with failed := true }).tell (ms.map fun m => (m, .failed comm p.tap s.epochNow))

/-- Reports of members have come: they are recorded, and the next collective of the communicator starts (R343); reports that reach a
standby in its recovery wait (R346). -/
def State.gotReports (s : State) (comm : Nat) (reports : List DoneReport) : State :=
  if s.seq.recovering.isSome then s.modSeq fun q => { q with late := q.late ++ reports.map fun r => (comm, r) }
  else if !s.isPrimary then s
  else ((reports.foldl (fun s r => s.takeReport comm r) s).settleSeq).startNext comm

/-- COLLECTIVE_START (R343). -/
def execCollectiveStart (comm : Nat) (reports : List DoneReport) (s : State) : Host.Outcome State Fault Refusal :=
  .next (s.gotReports comm reports)

/-! ### Heartbeats and failover -/

/-- The standby hears a heartbeat. -/
def State.gotBeat (s : State) : State :=
  if s.inPod && s.sv && s.stby == s.pkg then s.modSeq fun q => { q with lastHeard := s.ptp } else s

/-- SEQUENCER_HEARTBEAT (R346): the primary sends one every 10 µs; the standby hears one. -/
def execSequencerHeartbeat (received : Bool) (s : State) : Host.Outcome State Fault Refusal :=
  if received then .next s.gotBeat
  else if s.isPrimary && s.sv && decide (s.seq.lastBeat + 10000 ≤ s.ptp) then
    .next ((s.modSeq fun q => { q with lastBeat := s.ptp }).sendMsg s.stby .heartbeat)
  else .next s

/-- The packages that any communicator names (R346). -/
def State.podMembers (s : State) : List Nat :=
  ((s.comms.filter fun c => c.2.1.getLsbD 63).flatMap fun c => s.members c.1).eraseDups

/-! ### Recovery at a package -/

/-- The report of a slot (R346 step 2). -/
def slotReport (sl : PostSlot) : SlotReport :=
  { comm := sl.comm, tag := sl.tag, tap := sl.tap, state := sl.st, key := sl.key, order := sl.order }

/-- Cancellations that this package still waits for: of COLLCs that sleep, and of posts whose node has been killed (R350, R354). -/
def State.openCancels (s : State) : List CollMsg :=
  ((s.cancelSleepers fun _ _ => true).map fun x => CollMsg.cancel x.2.2.1 x.2.2.2)
  ++ (s.slotsBy fun sl => sl.orphan && (sl.st == .posted || sl.st == .numbered)).map fun x =>
    CollMsg.cancel (s.slot x.1 x.2).comm (s.slot x.1 x.2).tag

/-- A recovery request has come: from now on the package accepts the new epoch only, and knows the new primary; it reports its
slots, and asks again for what it wants cancelled (R346, R354). -/
def State.gotRecovery (s : State) (epoch : Byte) (standby : Nat) : State :=
  if !s.inPod || decide ((epoch - s.epochNow).toInt < 0) then s
  else
    let s := (s.setEpoch epoch).setPrim standby
    let slots := (s.slotsBy fun sl => sl.st != .free).map fun x => slotReport (s.slot x.1 x.2)
    s.openCancels.foldl State.tellPrim (s.tellPrim (.report slots))

/-- RECOVERY_REQUEST_ARRIVAL (R346). -/
def execRecoveryRequestArrival (epoch : Byte) (standby : Nat) (s : State) : Host.Outcome State Fault Refusal :=
  .next (s.gotRecovery epoch standby)

/-! ### Recovery at the new primary -/

/-- The reports of a communicator: member and slot. -/
def TapSeq.reportsOf (q : TapSeq) (comm : Nat) : List (Nat × SlotReport) :=
  q.reports.flatMap fun r => (r.2.filter fun x => x.comm == comm).map fun x => (r.1, x)

/-- The highest tap number reported (R346 step 3). -/
def highest (ts : List Word) : Option Word :=
  ts.foldl (fun acc t =>
    match acc with
    | none => some t
    | some m => if serialLt m t then some t else some m) none

/-- The pair that its reports with a tap number give. In a pair that has started or failed every member has posted: one that reports
no such tap number is done with it and has freed its slot, unless it reports a post of the tag without a number and the pair is
DONE nowhere (log 63). -/
def numberedPair (comm : Nat) (ms : List Nat) (rs : List (Nat × SlotReport)) (tap : Word) : Pair :=
  let mine := rs.filter fun r => r.2.tap == some tap
  let is (st : SlotState) : List Nat := (mine.filter fun r => r.2.state == st).map (·.1)
  let started := !(is .started).isEmpty || !(is .done).isEmpty
  let failed := !(is .failed).isEmpty
  let tag := match mine with | r :: _ => r.2.tag | [] => 0
  let key := match mine with | r :: _ => r.2.key | [] => { op := 0, dt := 0, cnt := 0, root := 0 }
  let bare (m : Nat) : Bool := rs.any fun r => r.1 == m && r.2.tag == tag && r.2.tap.isNone
  let absent := ms.filter fun m => !(mine.any fun r => r.1 == m) && ((is .done).isEmpty == false || !bare m)
  let gone := if started || failed then absent else []
  { comm, tag, tap
    posted := mine.map (fun r => (r.1, r.2.key)) ++ gone.map fun m => (m, key)
    cancelled := !(is .cancelled).isEmpty
    started
    failed
    done := is .done ++ is .failed ++ gone }

/-- Taps in ascending serial order. -/
def tapsUp (ts : List Word) : List Word := sortBy (fun a b => a == b || serialLt a b) ts.eraseDups

/-- The order of a tag reported without a tap number: the lowest rank that posted it, then that member's post order. -/
def tagKey (ms : List Nat) (rs : List (Nat × SlotReport)) (tag : Word) : Nat × Nat :=
  let posters := ms.zipIdx.filterMap fun x =>
    (rs.find? fun r => r.1 == x.1 && r.2.tag == tag).map fun r => (x.2, r.2.order)
  posters.headD (0, 0)

def keyLe (a b : Nat × Nat) : Bool := decide (a.1 < b.1) || (a.1 == b.1 && decide (a.2 ≤ b.2))

/-- Posts that were reported without a number join or open their pairs in order; one beyond the window waits (R342, R346 step 3). -/
def State.placeBare (s : State) (comm : Nat) (r : Nat × SlotReport) : State :=
  match s.placePost r.1 comm r.2.tag r.2.key with
  | (s, some _) => s
  | (s, none) => s.queueSeq (r.1, comm, r.2.tag, some r.2.key)

/-- What the members of a recovered pair still lack: the tap number of a post that was reported without one, and what has been
decided of the pair (R346 step 4). -/
def State.tellBehind (s : State) (rs : List (Nat × SlotReport)) (p : Pair) : State :=
  let e := s.epochNow
  let has (m : Nat) : Bool := rs.any fun r => r.1 == m && r.2.tap == some p.tap
  let lacks := (p.posted.map (·.1)).filter fun m => !has m && rs.any fun r => r.1 == m && r.2.tag == p.tag && r.2.tap.isNone
  let behind := lacks ++ (rs.filter fun r => r.2.tap == some p.tap && r.2.state == .numbered).map (·.1)
  let s := s.tell (lacks.map fun m => (m, .tap p.comm p.tag p.tap e))
  if p.cancelled then s.tell (behind.map fun m => (m, .cancelled p.comm p.tag e))
  else if p.failed then
    let started := (rs.filter fun r => r.2.tap == some p.tap && r.2.state == .started).map (·.1)
    s.tell ((behind ++ started).map fun m => (m, .failed p.comm p.tap e))
  else if p.started then s.tell (behind.map fun m => (m, .start p.comm p.tap e))
  else s

/-- Steps 3 and 4 of R346 for one communicator. -/
def State.recoverComm (s : State) (comm : Nat) : State :=
  let ms := s.members comm
  let rs := s.seq.reportsOf comm
  let taps := tapsUp (rs.filterMap fun r => r.2.tap)
  let s := taps.foldl (fun s t => s.modSeq fun q => { q with pairs := q.pairs ++ [numberedPair comm ms rs t] }) s
  let s := match highest taps with
    | some m => s.modSeq fun q => { q with next := q.next.set comm (m + 1) }
    | none => s
  let bare := rs.filter fun r => r.2.tap.isNone && r.2.state == .posted
  let tags := sortBy (fun a b => keyLe (tagKey ms bare a) (tagKey ms bare b)) (bare.map fun r => r.2.tag).eraseDups
  let inOrder := tags.flatMap fun tag => ms.filterMap fun m => bare.find? fun r => r.1 == m && r.2.tag == tag
  let s := inOrder.foldl (fun s r => s.placeBare comm r) s
  let mine := s.seq.pairs.filter fun p => p.comm == comm
  (sortBy (fun a b => a.tap == b.tap || serialLt a.tap b.tap) mine).foldl (fun s p => s.tellBehind rs p) s

/-- Every report has arrived: the standby numbers the pairs and is the primary; what has come meanwhile is taken up (R346). -/
def State.endRecovery (s : State) : State :=
  let comms := (s.comms.filter fun c => c.2.1.getLsbD 63).map (·.1)
  let waiting := s.seq.waiting
  let late := s.seq.late
  let s := s.modSeq fun q => { q with waiting := [], late := [] }
  let s := comms.foldl (fun s c => s.recoverComm c) s
  let s := (s.modSeq fun q => { q with recovering := none, reports := [], lastBeat := s.ptp }).setPrim s.pkg
  let s := late.foldl (fun s r => s.takeReport r.1 r.2) s
  let s := s.modSeq fun q => { q with waiting := q.waiting ++ waiting }
  comms.foldl (fun s c => s.startNext c) s.settleSeq

/-- The reports of a member have come (R346 step 2). -/
def State.gotReport (s : State) (member : Nat) (slots : List SlotReport) : State :=
  match s.seq.recovering with
  | none => s
  | some ms =>
    if !ms.contains member then s
    else
      let left := ms.filter (· != member)
      let s := s.modSeq fun q => { q with reports := q.reports ++ [(member, slots)], recovering := some left }
      if left.isEmpty then s.endRecovery else s

/-- RECOVERY_REPLY (R346 steps 3 and 4). -/
def execRecoveryReply (member : Nat) (slots : List SlotReport) (s : State) : Host.Outcome State Fault Refusal :=
  .next (s.gotReport member slots)

/-- SEQUENCER_FAILOVER (R346 step 1): after 100 µs without a heartbeat the standby advances EPOCH and asks for reports. -/
def execSequencerFailover (s : State) : Host.Outcome State Fault Refusal :=
  if !(s.inPod && s.sv && s.stby == s.pkg && s.seq.recovering.isNone && decide (s.seq.lastHeard + 100000 ≤ s.ptp)) then .next s
  else
    let e := s.epochNow + 1
    let ms := s.podMembers
    let s := (s.setEpoch e).modSeq fun q => { q with recovering := some ms, reports := [], pairs := [], waiting := [], late := [] }
    if ms.isEmpty then .next s.endRecovery else .next (s.tell (ms.map fun m => (m, .recovery e)))

/-- SEQUENCER_LOST (R346): with no standby, or during recovery, cause 0x144 goes to each node that holds a slot that is not
FREE. -/
def execSequencerLost (s : State) : Host.Outcome State Fault Refusal :=
  if !s.inPod || (s.sv && s.seq.recovering.isNone) then .next s
  else
    .next (((s.slotsBy fun sl => sl.st != .free).map fun x => (s.slot x.1 x.2).node).eraseDups.foldl
      (fun s n => s.killNode n 0x144) s)

/-! ### Messages -/

/-- A message of a package takes effect. -/
def State.receive (s : State) (from_ : Nat) (m : CollMsg) : State :=
  match m with
  | .post c tag k => s.gotPost from_ c tag k
  | .cancel c tag => s.gotCancel from_ c tag
  | .tap c tag t e => s.gotTap c tag t e
  | .start c t e => s.gotStart c t e
  | .failed c t e => s.gotFailed c t e
  | .peerFailed c t => s.gotPeerFailed c t
  | .cancelled c tag e => s.gotCancelled c tag e
  | .reply c tag ok e => s.gotReply c tag ok e
  | .done c t ok => s.gotReports c [{ member := from_, tap := t, ok }]
  | .data c t bs => s.gotData from_ c t bs
  | .heartbeat => s.gotBeat
  | .recovery e => s.gotRecovery e from_
  | .report slots => s.gotReport from_ slots

/-- The messages that have come take effect in their order. -/
def State.receiveAll (s : State) : State := s.inbox.foldl (fun s x => s.receive x.1 x.2) { s with inbox := [] }

end Sys2Proof.Machine
end

