-- ==== Sys2Proof/Machine/SliceUnit.lean ====
section
/-!
DEFINITION. The events of the slices, of replicas, monitors and vaults, and the arrival of neighbour messages
(spec/13_die_memory_system.md R213–R224; spec/08_core.md R147; spec/12_cluster.md R198).
An event that is not enabled leaves the state unchanged.
-/

namespace Sys2Proof.Machine

/-! ### Requests -/

/-- A slice takes the oldest request of a source, if its far channel is ready (R213, R324). -/
def State.takeRequest (s : State) (slice : Nat) (src : Src) (r : Req) : State :=
  if s.farWaits r.line then s
  else ({ s with net := takePort slice src s.net } : State).atSlice slice r

/-- SLICE_REQUEST (R213): a request other than a write-back is performed, queued, chained or held, or waits at the crossbar;
then the banks of the slice go on with what they hold. -/
def execSliceRequest (slice : Nat) (src : Src) (s : State) : Host.Outcome State Fault Refusal :=
  match s.portHead slice src with
  | some r => .next ((if r.body.isWb then s else s.takeRequest slice src r).drain slice)
  | none => .next (s.drain slice)

/-- L1_WRITEBACK_ARRIVAL (R147): a write-back applies its dirty nibbles at the home as a masked write. -/
def execL1WritebackArrival (slice : Nat) (src : Src) (s : State) : Host.Outcome State Fault Refusal :=
  match s.portHead slice src with
  | some r => if r.body.isWb then .next (s.takeRequest slice src r) else .next s
  | none => .next s

/-- SLICE_FILL_RETURN (R213): the fill allocates its line, the set is no longer blocked, and the request that missed and its chain
are served in order. -/
def execSliceFillReturn (slice set : Nat) (s : State) : Host.Outcome State Fault Refusal :=
  match (s.slice slice).blocked.find? fun b => b.set == set with
  | none => .next s
  | some b =>
    match s.home b.line with
    | none => .next s
    | some h =>
      let s := s.modSlice slice fun sl => { sl with blocked := sl.blocked.filter fun x => x.set != set }
      .next (((s.ensure h b.line b.cls).handleAll h (b.first.toList ++ b.chain)).drain slice)

/-! ### Replicas -/

/-- The home clears a holder bit of a line; once every holder has answered, what it holds goes on (R216, R217). -/
def State.clearHolder (s : State) (line bit : Nat) : State :=
  match s.home line with
  | none => s
  | some h => (s.modSlice h.slice fun sl => sl.clearHolder line bit).drain h.slice

/-- REPLICA_INVALIDATION_ACK (R216): the holder drops its replica and answers; from another die the answer crosses (R321). -/
def execReplicaInvalidationAck (line holder : Nat) (s : State) : Host.Outcome State Fault Refusal :=
  if s.invals.contains (line, holder) then
    let s := { s with invals := s.invals.erase (line, holder) }
    let s := s.dropReplica line holder
    match s.home line with
    | none => .next s
    | some h =>
      if holder / 3 = h.die then .next (s.clearHolder line holder)
      else .next (s.toHolder h.slice holder (.ack h.slice line holder) true)
  else .next s

/-- REPLICA_DROP_NOTICE (R217). A notice that precedes a newer grant to its slice says nothing of the newer replica.
DEDUCED, log 30. -/
def execReplicaDropNotice (line holder : Nat) (s : State) : Host.Outcome State Fault Refusal :=
  if s.drops.contains (line, holder) then
    let s : State := { s with drops := s.drops.erase (line, holder) }
    let here := (s.placeIn (holder / 3) (holder % 3) line).slice
    .next (if (s.replica? (holder / 3) (holder % 3) line).isSome || s.granting here line then s else s.clearHolder line holder)
  else .next s

/-! ### Monitors -/

/-- A deadline has passed (R222, R223): the slice counter counts units of 256 cycles. -/
def State.late (s : State) (m : Mon) : Bool :=
  match m.deadl with
  | some d => decide (d ≤ s.clk / 256)
  | none => false

/-- MONITOR_DEADLINE (R223): the entry is freed, and its waiter wakes with the timeout result. -/
def execMonitorDeadline (slice entry : Nat) (s : State) : Host.Outcome State Fault Refusal :=
  match (s.slice slice).mons.get? entry with
  | none => .next s
  | some m => if s.late m then .next ((s.freeMon slice entry).endMon m false) else .next s

/-- One overflow entry is looked at: it wakes, times out, or stays. -/
def State.overflow1 (s : State) (slice : Nat) (m : Mon) : State :=
  if s.monFires m then s.endMon m true
  else if s.late m then s.endMon m false
  else s.modSlice slice fun sl => { sl with overflow := sl.overflow ++ [m] }

/-- OVERFLOW_REEVALUATION (R224): once every 1,024 cycles all overflow entries are evaluated. -/
def execOverflowReevaluation (slice : Nat) (s : State) : Host.Outcome State Fault Refusal :=
  if s.clk % 1024 ≠ 0 then .next s
  else
    let ms := (s.slice slice).overflow
    .next (ms.foldl (fun s m => s.overflow1 slice m) (s.modSlice slice fun sl => { sl with overflow := [] }))

/-- The timeout of a WAITC that has waited 1,024 cycles, in units of 256 cycles; none when it has passed (R224, R243). -/
def laterTimeout (t : Word) : Option Word := if t = 0 then some 0 else if t.toNat ≤ 4 then none else some (t - 4)

/-- The line of a group's request leaves the L1 of the core where the group is, so that no later load of its lanes finds an older value
there than the request reads at the home (R232 Monotone). DEDUCED, log 30. -/
def State.leaveFor (s : State) (r : Req) : State :=
  match (s.team? r.g.team).bind Team.core? with
  | some c => s.leaveL1 c r.g r.line
  | none => s

/-- WAITC_OVERFLOW_RETRY (R224): the issuing core sends a refused WAITC again, or it times out. -/
def execWaitcOverflowRetry (slice req : Nat) (s : State) : Host.Outcome State Fault Refusal :=
  match (s.slice slice).refused[req]? with
  | none => .next s
  | some (r, at_) =>
    if s.clk < at_ then .next s
    else
      match r.body with
      | .waitc off opnd mode timeout swap slot =>
        let s := s.modSlice slice fun sl => { sl with refused := sl.refused.eraseIdx req }
        let s := s.leaveFor r
        match laterTimeout timeout with
        | some t => .next (s.send { r with body := .waitc off opnd mode t swap slot })
        | none =>
          .next (if s.readCause r.line = 0 then
              ((s.answerWait r.g slot (WaitOut.word false (s.homeWord (128 * r.line + off)))).landPiece r.op r.piece).reply slice r
            else ((s.failReq r (s.readCause r.line)).endOut r.op).reply slice r)
      | _ => .next s

/-! ### Vaults and links -/

/-- VAULT_SCRUB (R218): a line that cannot be corrected is poisoned. -/
def execVaultScrub (line : Nat) (uncorrectable : Bool) (s : State) : Host.Outcome State Fault Refusal :=
  if uncorrectable && decide (128 * line < vaultEnd) then .next (s.poisonLine line) else .next s

/-- MESSAGE_ARRIVAL (R198, R199, R203): the oldest message of a side and channel enters its FIFO once its way is over, and the
oldest waiter of its launch takes it. -/
def execMessageArrival (cluster side channel : Nat) (s : State) : Host.Outcome State Fault Refusal :=
  match s.fly.find? fun f => f.cluster == cluster && f.side == side && f.channel == channel with
  | none => .next s
  | some f =>
    if s.clk < f.at_ then .next s
    else
      let s := { s with fly := s.fly.erase f }
      let s := s.modLinks cluster f.part fun l => { l with fifo := l.fifo.update (4 * side + channel) [] (· ++ [f.msg]) }
      .next (s.settleFifo cluster f.part side channel 17)

end Sys2Proof.Machine
end

