-- ==== Sys2Proof/Machine/Dispatch.lean ====
section
/-!
DEFINITION. The meaning of every instruction and event of the device: one direct call for each constructor of `Instr`.
-/

namespace Sys2Proof.Machine

/-- Execute an instruction, or let an event occur. -/
def exec (i : Instr) (s : State) : Host.Outcome State Fault Refusal :=
  match i with
  | .iadd w => Sys2Proof.Machine.execIadd w s
  | .iaddExt w => Sys2Proof.Machine.execIaddExt w s
  | .isub w => Sys2Proof.Machine.execIsub w s
  | .isubExt w => Sys2Proof.Machine.execIsubExt w s
  | .imul w => Sys2Proof.Machine.execImul w s
  | .imulExt w => Sys2Proof.Machine.execImulExt w s
  | .imulhi w => Sys2Proof.Machine.execImulhi w s
  | .imulhiExt w => Sys2Proof.Machine.execImulhiExt w s
  | .imad w => Sys2Proof.Machine.execImad w s
  | .imadw w => Sys2Proof.Machine.execImadw w s
  | .iabs w => Sys2Proof.Machine.execIabs w s
  | .iabsExt w => Sys2Proof.Machine.execIabsExt w s
  | .imin w => Sys2Proof.Machine.execImin w s
  | .iminExt w => Sys2Proof.Machine.execIminExt w s
  | .imax w => Sys2Proof.Machine.execImax w s
  | .imaxExt w => Sys2Proof.Machine.execImaxExt w s
  | .shl w => Sys2Proof.Machine.execShl w s
  | .shlExt w => Sys2Proof.Machine.execShlExt w s
  | .shr w => Sys2Proof.Machine.execShr w s
  | .shrExt w => Sys2Proof.Machine.execShrExt w s
  | .sar w => Sys2Proof.Machine.execSar w s
  | .sarExt w => Sys2Proof.Machine.execSarExt w s
  | .rol w => Sys2Proof.Machine.execRol w s
  | .rolExt w => Sys2Proof.Machine.execRolExt w s
  | .logic w => Sys2Proof.Machine.execLogic w s
  | .popc w => Sys2Proof.Machine.execPopc w s
  | .popcExt w => Sys2Proof.Machine.execPopcExt w s
  | .clz w => Sys2Proof.Machine.execClz w s
  | .clzExt w => Sys2Proof.Machine.execClzExt w s
  | .ctz w => Sys2Proof.Machine.execCtz w s
  | .ctzExt w => Sys2Proof.Machine.execCtzExt w s
  | .brev w => Sys2Proof.Machine.execBrev w s
  | .brevExt w => Sys2Proof.Machine.execBrevExt w s
  | .bfx w => Sys2Proof.Machine.execBfx w s
  | .bfi w => Sys2Proof.Machine.execBfi w s
  | .sel w => Sys2Proof.Machine.execSel w s
  | .aadd w => Sys2Proof.Machine.execAadd w s
  | .idot4 w => Sys2Proof.Machine.execIdot4 w s
  | .fadd w => Sys2Proof.Machine.execFadd w s
  | .faddExt w => Sys2Proof.Machine.execFaddExt w s
  | .fmul w => Sys2Proof.Machine.execFmul w s
  | .fmulExt w => Sys2Proof.Machine.execFmulExt w s
  | .ffma w => Sys2Proof.Machine.execFfma w s
  | .fmin w => Sys2Proof.Machine.execFmin w s
  | .fminExt w => Sys2Proof.Machine.execFminExt w s
  | .fmax w => Sys2Proof.Machine.execFmax w s
  | .fmaxExt w => Sys2Proof.Machine.execFmaxExt w s
  | .fcls w => Sys2Proof.Machine.execFcls w s
  | .frcp w => Sys2Proof.Machine.execFrcp w s
  | .frcpExt w => Sys2Proof.Machine.execFrcpExt w s
  | .frsq w => Sys2Proof.Machine.execFrsq w s
  | .frsqExt w => Sys2Proof.Machine.execFrsqExt w s
  | .fsqrt w => Sys2Proof.Machine.execFsqrt w s
  | .fsqrtExt w => Sys2Proof.Machine.execFsqrtExt w s
  | .fexp2 w => Sys2Proof.Machine.execFexp2 w s
  | .fexp2Ext w => Sys2Proof.Machine.execFexp2Ext w s
  | .flog2 w => Sys2Proof.Machine.execFlog2 w s
  | .flog2Ext w => Sys2Proof.Machine.execFlog2Ext w s
  | .fsin w => Sys2Proof.Machine.execFsin w s
  | .fsinExt w => Sys2Proof.Machine.execFsinExt w s
  | .fcos w => Sys2Proof.Machine.execFcos w s
  | .fcosExt w => Sys2Proof.Machine.execFcosExt w s
  | .ftanh w => Sys2Proof.Machine.execFtanh w s
  | .ftanhExt w => Sys2Proof.Machine.execFtanhExt w s
  | .hadd2 w => Sys2Proof.Machine.execHadd2 w s
  | .hmul2 w => Sys2Proof.Machine.execHmul2 w s
  | .hfma2 w => Sys2Proof.Machine.execHfma2 w s
  | .hmin2 w => Sys2Proof.Machine.execHmin2 w s
  | .hmax2 w => Sys2Proof.Machine.execHmax2 w s
  | .fdot2 w => Sys2Proof.Machine.execFdot2 w s
  | .cvt w => Sys2Proof.Machine.execCvt w s
  | .pack w => Sys2Proof.Machine.execPack w s
  | .unpack w => Sys2Proof.Machine.execUnpack w s
  | .mxscale w => Sys2Proof.Machine.execMxscale w s
  | .qnt w => Sys2Proof.Machine.execQnt w s
  | .icmp w => Sys2Proof.Machine.execIcmp w s
  | .fcmp w => Sys2Proof.Machine.execFcmp w s
  | .plogic w => Sys2Proof.Machine.execPlogic w s
  | .pmovGet w => Sys2Proof.Machine.execPmovGet w s
  | .pmovPut w => Sys2Proof.Machine.execPmovPut w s
  | .mov w => Sys2Proof.Machine.execMov w s
  | .movExt w => Sys2Proof.Machine.execMovExt w s
  | .movl w => Sys2Proof.Machine.execMovl w s
  | .movs w => Sys2Proof.Machine.execMovs w s
  | .bra w => Sys2Proof.Machine.execBra w s
  | .brx w => Sys2Proof.Machine.execBrx w s
  | .call w => Sys2Proof.Machine.execCall w s
  | .ret w => Sys2Proof.Machine.execRet w s
  | .exit w => Sys2Proof.Machine.execExit w s
  | .exitExt w => Sys2Proof.Machine.execExitExt w s
  | .nop w => Sys2Proof.Machine.execNop w s
  | .nopExt w => Sys2Proof.Machine.execNopExt w s
  | .yield w => Sys2Proof.Machine.execYield w s
  | .yieldExt w => Sys2Proof.Machine.execYieldExt w s
  | .trap w => Sys2Proof.Machine.execTrap w s
  | .eret w => Sys2Proof.Machine.execEret w s
  | .eretExt w => Sys2Proof.Machine.execEretExt w s
  | .rdsys w => Sys2Proof.Machine.execRdsys w s
  | .wrsys w => Sys2Proof.Machine.execWrsys w s
  | .shfl w => Sys2Proof.Machine.execShfl w s
  | .vote w => Sys2Proof.Machine.execVote w s
  | .matchLanes w => Sys2Proof.Machine.execMatchLanes w s
  | .redg w => Sys2Proof.Machine.execRedg w s
  | .elect w => Sys2Proof.Machine.execElect w s
  | .prmt w => Sys2Proof.Machine.execPrmt w s
  | .ld w => Sys2Proof.Machine.execLd w s
  | .st w => Sys2Proof.Machine.execSt w s
  | .ldl w => Sys2Proof.Machine.execLdl w s
  | .stl w => Sys2Proof.Machine.execStl w s
  | .ldc w => Sys2Proof.Machine.execLdc w s
  | .pref w => Sys2Proof.Machine.execPref w s
  | .lds w => Sys2Proof.Machine.execLds w s
  | .sts w => Sys2Proof.Machine.execSts w s
  | .atoms w => Sys2Proof.Machine.execAtoms w s
  | .hoopAcq w => Sys2Proof.Machine.execHoopAcq w s
  | .hoopWait w => Sys2Proof.Machine.execHoopWait w s
  | .hoopRel w => Sys2Proof.Machine.execHoopRel w s
  | .cp w => Sys2Proof.Machine.execCp w s
  | .cp2d w => Sys2Proof.Machine.execCp2d w s
  | .cpg w => Sys2Proof.Machine.execCpg w s
  | .cps w => Sys2Proof.Machine.execCps w s
  | .cpq w => Sys2Proof.Machine.execCpq w s
  | .bart w => Sys2Proof.Machine.execBart w s
  | .barrArv w => Sys2Proof.Machine.execBarrArv w s
  | .barrWt w => Sys2Proof.Machine.execBarrWt w s
  | .fences w => Sys2Proof.Machine.execFences w s
  | .waym w => Sys2Proof.Machine.execWaym w s
  | .wbld w => Sys2Proof.Machine.execWbld w s
  | .mloop w => Sys2Proof.Machine.execMloop w s
  | .mstep w => Sys2Proof.Machine.execMstep w s
  | .mwait w => Sys2Proof.Machine.execMwait w s
  | .accrd w => Sys2Proof.Machine.execAccrd w s
  | .accwr w => Sys2Proof.Machine.execAccwr w s
  | .accclr w => Sys2Proof.Machine.execAccclr w s
  | .ohnd w => Sys2Proof.Machine.execOhnd w s
  | .ohndClr w => Sys2Proof.Machine.execOhndClr w s
  | .nsend w => Sys2Proof.Machine.execNsend w s
  | .nrecv w => Sys2Proof.Machine.execNrecv w s
  | .npoll w => Sys2Proof.Machine.execNpoll w s
  | .barc w => Sys2Proof.Machine.execBarc w s
  | .atom w => Sys2Proof.Machine.execAtom w s
  | .red w => Sys2Proof.Machine.execRed w s
  | .lr w => Sys2Proof.Machine.execLr w s
  | .sc w => Sys2Proof.Machine.execSc w s
  | .waitc w => Sys2Proof.Machine.execWaitc w s
  | .phase w => Sys2Proof.Machine.execPhase w s
  | .disc w => Sys2Proof.Machine.execDisc w s
  | .cwb w => Sys2Proof.Machine.execCwb w s
  | .cinv w => Sys2Proof.Machine.execCinv w s
  | .qpost w => Sys2Proof.Machine.execQpost w s
  | .coll w => Sys2Proof.Machine.execColl w s
  | .collw w => Sys2Proof.Machine.execCollw w s
  | .collc w => Sys2Proof.Machine.execCollc w s
  | .quarterIssue core quarter => Sys2Proof.Machine.execQuarterIssue core quarter s
  | .activePlaceGrant core quarter => Sys2Proof.Machine.execActivePlaceGrant core quarter s
  | .activePlaceYield core quarter => Sys2Proof.Machine.execActivePlaceYield core quarter s
  | .portResultLands g => Sys2Proof.Machine.execPortResultLands g s
  | .loadDataReturn load piece => Sys2Proof.Machine.execLoadDataReturn load piece s
  | .constantCacheFill g => Sys2Proof.Machine.execConstantCacheFill g s
  | .instructionFetchFill g => Sys2Proof.Machine.execInstructionFetchFill g s
  | .dispatcherAdmit cluster => Sys2Proof.Machine.execDispatcherAdmit cluster s
  | .teamSave team => Sys2Proof.Machine.execTeamSave team s
  | .teamRestore team => Sys2Proof.Machine.execTeamRestore team s
  | .copyCommandStart core => Sys2Proof.Machine.execCopyCommandStart core s
  | .copyEngineWrite core cmd count => Sys2Proof.Machine.execCopyEngineWrite core cmd count s
  | .copyResume core cmd => Sys2Proof.Machine.execCopyResume core cmd s
  | .copyCommandComplete core cmd => Sys2Proof.Machine.execCopyCommandComplete core cmd s
  | .matrixStepStart core => Sys2Proof.Machine.execMatrixStepStart core s
  | .operandCacheFill core => Sys2Proof.Machine.execOperandCacheFill core s
  | .matrixStepUpdate core => Sys2Proof.Machine.execMatrixStepUpdate core s
  | .matrixEntryComplete core => Sys2Proof.Machine.execMatrixEntryComplete core s
  | .wbldTransfer core => Sys2Proof.Machine.execWbldTransfer core s
  | .accumulatorPerform core => Sys2Proof.Machine.execAccumulatorPerform core s
  | .messageArrival cluster side channel => Sys2Proof.Machine.execMessageArrival cluster side channel s
  | .sliceRequest slice src => Sys2Proof.Machine.execSliceRequest slice src s
  | .sliceFillReturn slice set => Sys2Proof.Machine.execSliceFillReturn slice set s
  | .replicaInvalidationAck line holder => Sys2Proof.Machine.execReplicaInvalidationAck line holder s
  | .replicaDropNotice line holder => Sys2Proof.Machine.execReplicaDropNotice line holder s
  | .l1WritebackArrival slice src => Sys2Proof.Machine.execL1WritebackArrival slice src s
  | .monitorDeadline slice entry => Sys2Proof.Machine.execMonitorDeadline slice entry s
  | .overflowReevaluation slice => Sys2Proof.Machine.execOverflowReevaluation slice s
  | .waitcOverflowRetry slice req => Sys2Proof.Machine.execWaitcOverflowRetry slice req s
  | .vaultScrub line uncorrectable => Sys2Proof.Machine.execVaultScrub line uncorrectable s
  | .weaverRecordRead node die => Sys2Proof.Machine.execWeaverRecordRead node die s
  | .weaverClaim node die => Sys2Proof.Machine.execWeaverClaim node die s
  | .teamCreate node die => Sys2Proof.Machine.execTeamCreate node die s
  | .weaverSpillRescan node die => Sys2Proof.Machine.execWeaverSpillRescan node die s
  | .weaverDeferWake node die => Sys2Proof.Machine.execWeaverDeferWake node die s
  | .weaverNonownerWait node die => Sys2Proof.Machine.execWeaverNonownerWait node die s
  | .weaverRepairWake node die => Sys2Proof.Machine.execWeaverRepairWake node die s
  | .teamRetire team => Sys2Proof.Machine.execTeamRetire team s
  | .nodeRetire node => Sys2Proof.Machine.execNodeRetire node s
  | .queueDoorbell part queue w => Sys2Proof.Machine.execQueueDoorbell part queue w s
  | .queueClr part queue => Sys2Proof.Machine.execQueueClr part queue s
  | .queueHeadStart => Sys2Proof.Machine.execQueueHeadStart s
  | .abortedPacketDrain part queue => Sys2Proof.Machine.execAbortedPacketDrain part queue s
  | .packetBarrierEvaluate part queue => Sys2Proof.Machine.execPacketBarrierEvaluate part queue s
  | .packetSignal pkt => Sys2Proof.Machine.execPacketSignal pkt s
  | .packetCopy pkt count => Sys2Proof.Machine.execPacketCopy pkt count s
  | .packetCompletion pkt => Sys2Proof.Machine.execPacketCompletion pkt s
  | .queueEngineAccessPause part queue => Sys2Proof.Machine.execQueueEngineAccessPause part queue s
  | .nodeStart node => Sys2Proof.Machine.execNodeStart node s
  | .arenaBirth node => Sys2Proof.Machine.execArenaBirth node s
  | .nodeKill node => Sys2Proof.Machine.execNodeKill node s
  | .shakeout node => Sys2Proof.Machine.execShakeout node s
  | .faultQueuePost part => Sys2Proof.Machine.execFaultQueuePost part s
  | .fqrWrite part r => Sys2Proof.Machine.execFqrWrite part r s
  | .faultResume part index => Sys2Proof.Machine.execFaultResume part index s
  | .faultKill part index => Sys2Proof.Machine.execFaultKill part index s
  | .faultStatPoll part index => Sys2Proof.Machine.execFaultStatPoll part index s
  | .pageWalk die part va => Sys2Proof.Machine.execPageWalk die part va s
  | .shootdownGo port part drop => Sys2Proof.Machine.execShootdownGo port part drop s
  | .shootdownComplete part => Sys2Proof.Machine.execShootdownComplete part s
  | .heatTableCommit port nent => Sys2Proof.Machine.execHeatTableCommit port nent s
  | .heatStart cluster => Sys2Proof.Machine.execHeatStart cluster s
  | .csemWrite port val => Sys2Proof.Machine.execCsemWrite port val s
  | .portResetRelease port => Sys2Proof.Machine.execPortResetRelease port s
  | .registerWrite port offset bytes => Sys2Proof.Machine.execRegisterWrite port offset bytes s
  | .fuseCounterWrite port val => Sys2Proof.Machine.execFuseCounterWrite port val s
  | .bootRomLoad die => Sys2Proof.Machine.execBootRomLoad die s
  | .attestationRequest die nonce => Sys2Proof.Machine.execAttestationRequest die nonce s
  | .clockThrottle overPower overTemp => Sys2Proof.Machine.execClockThrottle overPower overTemp s
  | .ucieFlitReceive m flit => Sys2Proof.Machine.execUcieFlitReceive m flit s
  | .ucieReplay m => Sys2Proof.Machine.execUcieReplay m s
  | .ucieLaneLoss m => Sys2Proof.Machine.execUcieLaneLoss m s
  | .yunambiFlitReceive port flit => Sys2Proof.Machine.execYunambiFlitReceive port flit s
  | .yunambiReplay port => Sys2Proof.Machine.execYunambiReplay port s
  | .portWithdraw port => Sys2Proof.Machine.execPortWithdraw port s
  | .noRouteNotice dest plane => Sys2Proof.Machine.execNoRouteNotice dest plane s
  | .remotePacketApply p => Sys2Proof.Machine.execRemotePacketApply p s
  | .remoteResponseArrival r => Sys2Proof.Machine.execRemoteResponseArrival r s
  | .remoteResend st seq => Sys2Proof.Machine.execRemoteResend st seq s
  | .peerUnreachable st => Sys2Proof.Machine.execPeerUnreachable st s
  | .tapPostArrival member comm tag key => Sys2Proof.Machine.execTapPostArrival member comm tag key s
  | .tapCancelArrival member comm tag => Sys2Proof.Machine.execTapCancelArrival member comm tag s
  | .tapNumberReceived comm tag tap epoch => Sys2Proof.Machine.execTapNumberReceived comm tag tap epoch s
  | .collectiveStart comm reports => Sys2Proof.Machine.execCollectiveStart comm reports s
  | .startReceived comm tap epoch => Sys2Proof.Machine.execStartReceived comm tap epoch s
  | .collectiveDone comm tap peers => Sys2Proof.Machine.execCollectiveDone comm tap peers s
  | .collectivePauseResume comm tap => Sys2Proof.Machine.execCollectivePauseResume comm tap s
  | .sequencerHeartbeat received => Sys2Proof.Machine.execSequencerHeartbeat received s
  | .sequencerFailover => Sys2Proof.Machine.execSequencerFailover s
  | .recoveryReply member slots => Sys2Proof.Machine.execRecoveryReply member slots s
  | .priorityAging part queue => Sys2Proof.Machine.execPriorityAging part queue s
  | .dispatcherHeadTimeout cluster => Sys2Proof.Machine.execDispatcherHeadTimeout cluster s
  | .packageReset => Sys2Proof.Machine.execPackageReset s
  | .unitReady u => Sys2Proof.Machine.execUnitReady u s
  | .portTraining p lanes rtc => Sys2Proof.Machine.execPortTraining p lanes rtc s
  | .softError u uncorrectable => Sys2Proof.Machine.execSoftError u uncorrectable s
  | .collcReplyArrival comm tag reply => Sys2Proof.Machine.execCollcReplyArrival comm tag reply s
  | .cancelledReceived comm tag epoch => Sys2Proof.Machine.execCancelledReceived comm tag epoch s
  | .failedReceived comm tap epoch => Sys2Proof.Machine.execFailedReceived comm tap epoch s
  | .recoveryRequestArrival epoch standby => Sys2Proof.Machine.execRecoveryRequestArrival epoch standby s
  | .sequencerLost => Sys2Proof.Machine.execSequencerLost s

end Sys2Proof.Machine
end

