-- ==== Sys2Proof/Machine/Fetch.lean ====
section
/-!
DEFINITION. Fetching the instruction of the group that issues (spec/02_register_hierarchy.md R37; spec/03_instruction_words.md
R47, R62), and placing one where it is fetched next.
-/

namespace Sys2Proof.Machine

/-- The group does not issue in this step. -/
def State.noIssue (s : State) : State := { s with cur := none }

/-- A cause met by the fetch is delivered to the group, whose quarter has issued (R5, R62): the instruction counts, with the stall
count of its first word (R41; log 49). -/
def State.fetchRaise (s : State) (g : GRef) (core quarter code : Nat) (w0 : Word) (einfo : DWord) : State :=
  ((s.noIssue.modGroup g fun gr => gr.count s.clk (bitsOf w0 12 10)).raise g code einfo).issuedAt core quarter

/-- A translation cause of the fetch (R282): 0x100 suspends the team, the others are delivered K. -/
def State.fetchFail (s : State) (g : GRef) (node core quarter code : Nat) (va : BitVec 56) : State :=
  if code = 0x100 then (s.noIssue.suspend g { cause := code, kind := kindFetch, va }).issuedAt core quarter
  else ((s.noIssue.modGroup g fun gr => { gr.endRun with cur := gr.cur }).killNode node code).issuedAt core quarter

/-- Fetch and decode the instruction at the PC of the current split of a group; none when no instruction executes: a cause
has been raised, or the line has to be fetched first. -/
def State.fetchNext (s : State) (g : GRef) : State × Option Instr :=
  match s.team? g.team, s.group? g with
  | some t, some gr =>
    match t.core? with
    | none => (s.noIssue, none)
    | some c =>
      let pc := (gr.split gr.cur).pc
      match s.codeLine { core := some c, cluster := clusterOf c, part := t.part, lid := t.lid } pc with
      | (s, .err code) => (s.fetchFail g t.node c gr.quarter code pc, none)
      | (s, .miss) => ((s.noIssue.want g (.fetch pc)).chooseAgain g c gr.quarter, none)
      | (s, .words ws) =>
        let ws := ws.drop (pc.toNat % 128 / 4)
        if 256 ≤ gr.runLen then (s.fetchRaise g c gr.quarter 0x006 (ws.headD 0) 0, none)
        else
          match decode ws with
          | .instr i _ => (s, some i)
          | .cause code einfo => (s.fetchRaise g c gr.quarter code (ws.headD 0) (BitVec.ofNat 64 einfo), none)
  | _, _ => (s.noIssue, none)

/-! ### Placing an instruction -/

/-- The role whose groups may issue an instruction of an opcode (R139). -/
def roleOf (op : Nat) : Role :=
  if 0xC6 ≤ op ∧ op ≤ 0xC9 then .copy else if 0xD0 ≤ op ∧ op ≤ 0xD7 then .matrix else .vector

/-- The team that holds a placed instruction: one group on core 1, with one split of 32 lanes at address 0. -/
def placedTeam (role : Role) : Team :=
  { id := 0, node := 0, part := 0, lid := 1, num := 0, tlin := 0, tc := [], tiles := 1, addr := 0, record := 0
    gcnt := (if role = .copy then 1 else 0, if role = .matrix then 1 else 0, if role = .vector then 1 else 0)
    groups := [{ role, grp := 0, n := 256, splits := [(0, { st := .runnable, pc := 0, mask := 0xFFFFFFFF })]
                 srstate := 1, place := some 0 }]
    scr := 0, place := .resident 1 }

/-- The node of a placed instruction. -/
def placedNode : Node := { id := 0, part := 0, pkt := 0, dom := 0, reads := [], writes := [], ldesc := 0, st := .running, lid := 1 }

/-- The translation of the page that holds a placed instruction. -/
def placedPage : TlbEnt :=
  { part := 0, page := 0, bits := 35, frame := 0, cls := .other, w := true, d := false, peer := 0, arena := none }

/-- The state with an instruction where the next step fetches it: its words lie at address 0 of memory and in the
instruction cache of core 1, and the group of team 0 there issues next (log 21). -/
def State.placeWords (s : State) (bs : List Byte) : State :=
  let op := (bs.headD 0).toNat / 4 + (bs.getD 1 0).toNat % 4 * 64
  let line := wordsOf (bs ++ List.replicate (128 - bs.length) 0)
  { s with
    cur := some { team := 0, grp := 0 }
    mem := s.mem.writeBytes 0 bs
    nodes := s.nodes.set 0 placedNode
    teams := s.teams.set 0 (placedTeam (roleOf op))
    cores := s.cores.update 1 {} fun c =>
      { c with icache := (0, line) :: c.icache, tlb := placedPage :: c.tlb
               mx := if roleOf op = .matrix then { c.mx with owner := some 0 } else c.mx } }

end Sys2Proof.Machine
end

