-- ==== Sys2Proof/Machine/Round.lean ====
section
/-!
DEFINITION. The advance of the clock, and the events that a cycle lays out: those of the package itself that may be enabled.
What comes from outside (host writes, arrivals from other packages, errors, readiness) occurs only when a state's agenda names it.
The order of the rules that fix one is kept: cores in ascending order (R203), a step's start before the fill that begins with it
(R187), and deadlines after the writes of their cycle (R223).
DESIGN CHOICE, log 2: the spec fixes no order among the events of one cycle.
-/

namespace Sys2Proof.Machine

/-- The groups of the teams on cores. -/
def State.onCores (s : State) : List (GRef × Group) :=
  (s.teams.filter fun t => t.2.core?.isSome).flatMap fun t => t.2.groups.zipIdx.map fun g => ({ team := t.1, grp := g.2 }, g.1)

/-- Cores that hold teams, in ascending order (R203). -/
def State.busyCores (s : State) : List Nat := sortBy (fun a b => a ≤ b) (s.teams.filterMap fun t => t.2.core?).eraseDups

/-- Results, data and lines that arrive at groups. -/
def State.layGroups (s : State) : List Instr :=
  (s.onCores.filter fun g => !g.2.pend.isEmpty).map (fun g => .portResultLands g.1)
  ++ s.outst.flatMap (fun o => o.2.pieces.zipIdx.filterMap fun p =>
      if !p.1.landed && !p.1.away && p.1.vals.isSome && decide (o.2.at_ ≤ s.clk) then some (.loadDataReturn o.1 p.2) else none)
  ++ s.onCores.filterMap fun g =>
      match g.2.want with
      | some (.fetch _) => some (.instructionFetchFill g.1)
      | some (.const _) => some (.constantCacheFill g.1)
      | none => none

/-- The engines of a core, then its quarters. -/
def State.layCore (s : State) (core : Nat) : List Instr :=
  let c := s.core core
  (if c.cq.isEmpty then [] else [.copyCommandStart core])
  ++ c.cq.flatMap (fun e =>
      if e.paused then [.copyResume core e.id]
      else if e.started then [.copyEngineWrite core e.id 128, .copyCommandComplete core e.id] else [])
  ++ (if c.mx.entries.isEmpty && c.mx.accq.isEmpty && c.mx.steps.isEmpty then []
      else [.matrixStepUpdate core, .matrixEntryComplete core, .accumulatorPerform core, .wbldTransfer core
            , .matrixStepStart core, .operandCacheFill core])
  ++ [0, 1, 2, 3].flatMap (fun q => List.replicate 4 (.activePlaceYield core q))
  ++ [0, 1, 2, 3].flatMap (fun q => List.replicate 4 (.activePlaceGrant core q))
  ++ [0, 1, 2, 3].map (.quarterIssue core ·)

/-- A request at a slice's port. -/
def layRequest (x : Nat × Req) : Instr := if x.2.body.isWb then .l1WritebackArrival x.1 x.2.src else .sliceRequest x.1 x.2.src

/-- Requests, fills, replicas and messages. A slice that holds requests which may go on is looked at too. -/
def State.layMemory (s : State) : List Instr :=
  s.net.map layRequest
  ++ s.slices.flatMap (fun e =>
      (if e.2.ready then [.sliceRequest e.1 .fabric] else [])
      ++ e.2.blocked.map (fun b => .sliceFillReturn e.1 b.set)
      ++ (List.range e.2.refused.length).map fun i => .waitcOverflowRetry e.1 i)
  ++ s.invals.map (fun x => .replicaInvalidationAck x.1 x.2) ++ s.drops.map (fun x => .replicaDropNotice x.1 x.2)
  ++ s.fly.map fun f => .messageArrival f.cluster f.side f.channel

/-- Deadlines of monitors and the look at overflow entries: a write of the same cycle is decided first (R223). -/
def State.layMons (s : State) : List Instr :=
  s.slices.flatMap fun e =>
    e.2.mons.map (fun m => .monitorDeadline e.1 m.1) ++ if e.2.overflow.isEmpty then [] else [.overflowReevaluation e.1]

/-- Dispatchers and heats. -/
def State.layClusters (s : State) : List Instr :=
  (List.range 84).flatMap fun c =>
    let k := s.cluster c
    (if k.switching.isSome || k.part != s.due c then [.heatStart c] else [])
    ++ if k.links.dq.isEmpty then [] else [.dispatcherHeadTimeout c, .dispatcherAdmit c]

/-- Teams that are being saved, restored or may retire. -/
def State.layTeams (s : State) : List Instr :=
  s.teams.flatMap fun t =>
    match t.2.place with
    | .resident _ => if t.2.saving.isSome then [.teamSave t.1] else if t.2.groups.all (fun g => g.live == 0) then [.teamRetire t.1] else []
    | .restoring _ => [.teamRestore t.1]
    | _ => []

/-- The next event of a weaver. -/
def layWeaver (node die : Nat) (w : Weaver) : List Instr :=
  match w.st with
  | .read => [.weaverRecordRead node die]
  | .claim _ => [.weaverClaim node die]
  | .create _ => [.teamCreate node die]
  | .spill _ _ _ => [.weaverSpillRescan node die]
  | .nonowner _ => [.weaverNonownerWait node die]
  | .deferWait _ => [.weaverDeferWake node die]
  | .repair _ _ | .resume => [.weaverRepairWake node die]
  | .done => []

/-- Nodes and their weavers. -/
def State.layNodes (s : State) : List Instr :=
  s.nodes.flatMap fun n =>
    match n.2.st with
    | .waiting => [.nodeStart n.1]
    | .starting => [.nodeStart n.1, .arenaBirth n.1]
    | .running => n.2.weavers.flatMap (fun w => layWeaver n.1 w.1 w.2) ++ [.nodeRetire n.1]
    | .killing => [.nodeKill n.1]
    | .shakeout => [.shakeout n.1]
    | .retired => []

/-- Queues and packets. -/
def State.layQueues (s : State) : List Instr :=
  s.busyQueues.flatMap (fun n =>
    [.queueEngineAccessPause (n / 64) (n % 64), .abortedPacketDrain (n / 64) (n % 64), .packetBarrierEvaluate (n / 64) (n % 64)
     , .priorityAging (n / 64) (n % 64)])
  ++ (if s.busyQueues.isEmpty then [] else [.queueHeadStart])
  ++ s.pkts.flatMap fun p =>
      if p.2.paused then [.queueEngineAccessPause p.2.part p.2.queue]
      else
        match p.2.st with
        | .signal => [.packetSignal p.1]
        | .copy _ => [.packetCopy p.1 128]
        | .launch =>
          if s.nodes.any (fun n => n.2.pkt == p.1 && n.2.paused) then [.queueEngineAccessPause p.2.part p.2.queue] else []
        | .completing _ _ => [.packetCompletion p.1]

/-- Fault queues and shootdowns. -/
def State.layParts (s : State) : List Instr :=
  s.parts.flatMap fun p =>
    (if p.2.posts.isEmpty then [] else [.faultQueuePost p.1])
    ++ p.2.watch.flatMap (fun w => [.faultResume p.1 w.1, .faultKill p.1 w.1, .faultStatPoll p.1 w.1])
    ++ if p.2.sdBusy then [.shootdownComplete p.1] else []

/-- Die-to-die links: the oldest flit of each wire arrives; and ports. -/
def State.layLinks (s : State) : List Instr :=
  s.ucie.flatMap (fun u =>
    let m : UcieRef := { edge := u.1 / 32, module := u.1 / 2 % 16, down := u.1 % 2 == 1 }
    (u.2.wire.take 1).map (fun f => .ucieFlitReceive m f) ++ if u.2.replay.isEmpty then [] else [.ucieReplay m])
  ++ s.ports.flatMap fun p => if p.2.replay.isEmpty then [.portWithdraw p.1] else [.yunambiReplay p.1, .portWithdraw p.1]

/-- A stream by its number. -/
def streamOf (k : Nat) : StreamId := { peer := k / 3, ch := match k % 3 with | 0 => .req | 1 => .atom | _ => .coll }

/-- Remote streams: packets that may be resent, and peers that may be unreachable (R337). -/
def State.layStreams (s : State) : List Instr :=
  s.outStreams.flatMap fun o =>
    o.2.unacked.map (fun u => .remoteResend (streamOf o.1) u.pkt.seq)
    ++ if o.2.unacked.isEmpty && o.2.waiting.isEmpty then [] else [.peerUnreachable (streamOf o.1)]

/-- The started collectives of a partition (R347), and members of theirs whose mask is empty (R337, R350). -/
def State.laySlot (s : State) (sl : PostSlot) : List Instr :=
  let tap := sl.tap.getD 0
  .collectivePauseResume sl.comm tap
  :: (match sl.src, s.collPeers sl with | some _, some ps => [.collectiveDone sl.comm tap ps] | _, _ => [])
  ++ ((s.otherMembers sl.comm).filter fun m => s.pmask.getD m 0 == 0).map fun m => .peerUnreachable { peer := m, ch := .coll }

/-- Links, remote streams, collectives and the tap sequencer. -/
def State.layFabric (s : State) : List Instr :=
  s.layLinks ++ s.layStreams
  ++ s.parts.flatMap (fun p => (p.2.slots.filter fun sl => sl.2.st == .started).flatMap fun sl => s.laySlot sl.2)
  ++ (s.seq.pairs.map Pair.comm).eraseDups.map (fun c => .collectiveStart c [])
  ++ if s.podcfg.getLsbD 37 then [.sequencerHeartbeat false, .sequencerFailover] else []

/-- The events of a cycle. -/
def State.layOut (s : State) : List Instr :=
  s.layGroups ++ s.layMemory ++ s.layClusters ++ s.layTeams ++ s.layNodes ++ s.layQueues ++ s.layParts ++ s.layFabric
  ++ s.busyCores.flatMap s.layCore ++ s.layMons

/-- What happens as a cycle begins: waits of the cycle before end (R188, R203), agents that are gone lose their turns (log 37),
messages take effect, and the ports' buffers are handed on (R332). -/
def State.begin (s : State) : State :=
  let s := s.applyWakes.reap.reapFar.receiveAll
  (s.ports.filter fun p => !p.2.buf.isEmpty).foldl (fun s p => s.drainPort p.1) s

/-- The next cycle: PTP time advances with the core clock (R110, R329), and the cycle's events are laid out. -/
def State.tick (s : State) : State :=
  let s := ({ s with clk := s.clk + 1, ptp := s.ptp + ((s.clk + 1) * 1000 / s.mhz - s.clk * 1000 / s.mhz) } : State).begin
  { s with agenda := s.layOut }

/-! ### FATAL -/

/-- The package has stopped (R324). -/
def State.fatal (s : State) : Bool := s.rdy.getLsbD 12

/-- The next event of a stopped package: reset, if the agenda names it next (R324). -/
def State.resetNext (s : State) : Bool := s.agenda.head? == some .packageReset

/-- A stopped package takes nothing else: the next event is passed over (R324). -/
def State.passOver (s : State) : State := { s with cur := none, agenda := s.agenda.drop 1 }

end Sys2Proof.Machine
end

