-- ==== Sys2Proof/Machine/Step.lean ====
section
/-!
DEFINITION. One step of the machine: the instruction of the group that issues, or the next event, or the next cycle (log 2).
-/

namespace Sys2Proof.Machine

/-- One step: the group that `cur` names executes the instruction at its PC; otherwise the first event of the agenda
occurs; with nothing left to occur, the clock advances and the events of the new cycle are laid out. A package that FATAL has
stopped takes its reset and nothing else (R324). -/
def step (s : State) : Host.Outcome State Fault Refusal :=
  if s.fatal then (if s.resetNext then exec .packageReset s else .next s.passOver)
  else
    match s.cur with
    | some g =>
      match s.fetchNext g with
      | (s, some i) => exec i s
      | (s, none) => .next s
    | none =>
      match s.agenda with
      | e :: r => exec e { s with agenda := r }
      | [] => .next s.tick

/-- The state with an instruction stored where `step` fetches its next instruction; the bits at and above `nbits` are zero. -/
def State.withFetchWord (s : State) (nbits w : Nat) : State := s.placeWords (bytesOf (w % 2 ^ nbits) 20)

end Sys2Proof.Machine
end

