-- ==== Sys2Proof/Machine/DebugWindow.lean ====
section
/-!
DEFINITION. The debug window (spec/18_package_memory_translation.md R272; spec/21_package_links_control.md R324–R326): the images
of the units, byte by byte. What a rule lays out is composed from the state; the rest of a named area is a free value.
-/

namespace Sys2Proof.Config

/-- The byte at an offset of a unit's image, as its state gives it, where no rule lays the image out (R272, R325): a core with the
groups that lie on it, a slice, a die's translation and weaver state with its clusters, the modules of a die, the ports that it serves,
and its fuses.
Free values, log 65. -/
opaque coreImage : Machine.Core → List Machine.Team → Nat → Byte
opaque sliceImage : Machine.Slice → Nat → Byte
opaque dieImage : Machine.Die → List Machine.Cluster → List Machine.Node → Nat → Byte
opaque moduleImage : List (Nat × Machine.Ucie) → Nat → Byte
opaque portImage : List (Nat × Machine.FabPort) → Nat → Byte
opaque fuseImage : Nat → Nat → Nat → Byte

/-- Where the buffers of ports begin behind those of modules, and the die that serves a port, taken modulo 4 (R272).
Free values, log 65. -/
opaque portArea : Nat
opaque servedBy : Nat → Nat

/-- The team of those on a core, taken modulo their number, whose hoops the n-th eight hoop state words show (R272).
A free value, log 65. -/
opaque hoopTeam : Nat → Nat

/-- WAITER of a monitor entry: the identity of a group, a frame handle or an agent's number (R222).
A free value, log 65. -/
opaque waiterNumber : Machine.MonWho → BitVec 16

end Sys2Proof.Config

namespace Sys2Proof.Machine

/-- Byte i of a register. -/
def byteOf (w i : Nat) : Byte := BitVec.ofNat 8 (w / 256 ^ i)

/-! ### Cores -/

/-- A byte of a quarter's main file: that of the group whose units hold it, none for a unit that is free (R14, R137). -/
def mainFileByte (ts : List Team) (q off : Nat) : Option Byte :=
  let gs := ts.flatMap Team.groups
  match gs.find? fun g => g.quarter == q && decide (g.unit ≤ off / 1024) && decide (off / 1024 < g.unit + unitsOf g) with
  | none => none
  | some g =>
    let i := off - 1024 * g.unit
    if i < 128 * g.n then some (byteOf (LVec.at (g.v.getD (i / 128) LVec.zero) (i % 128 / 4)).toNat (i % 4)) else none

/-- A byte of scratch that a team holds; a unit that no team holds may hold victim entries (R144, R149). -/
def scratchByte (c : Core) (ts : List Team) (a : Nat) : Option Byte :=
  if ts.any fun t => decide (t.scrBase ≤ a) && decide (a < t.scrBase + t.scr) then some (Mem.read c.scratch a) else none

/-- A byte of a way of the SRAM store: of scratch, or of the line that lies in the way of its set (R144). -/
def Core.wayByte (c : Core) (ts : List Team) (way off : Nat) : Option Byte :=
  if 8 ≤ way ∧ way < 8 + c.scrWays then scratchByte c ts ((way - 8) * wayBytes + off)
  else ((c.l1.getD (off / 128) []).find? fun l => l.way == way).map fun l => byteOf l.data.toNat (off % 128)

/-- A byte of the hoop state words: eight for each team (R150). -/
def hoopWordByte (ts : List Team) (off : Nat) : Byte :=
  match ts[Config.hoopTeam (off / 64) % ts.length]? with
  | none => 0
  | some t =>
    match t.hoops.get? (off % 64 / 8) with
    | some h => byteOf h.stateWord.toNat (off % 8)
    | none => 0

/-- A byte of a core's gigabyte (R272): main files, SRAM store, caches of instructions and constants (R2), accumulators, weight buffer,
operand cache (R182), copy queue, translations, group records, hoop state words; any other offset reads as zero. -/
def Core.debugByte (c : Core) (ts : List Team) (off : Nat) : Byte :=
  let free := Config.coreImage c ts off
  if off < 0x40000 then (mainFileByte ts (off / 0x10000) (off % 0x10000)).getD free
  else if off < 0x1000000 then 0
  else if off < 0x1200000 then (c.wayByte ts ((off - 0x1000000) / wayBytes) (off % wayBytes)).getD free
  else if off < 0x2000000 then 0
  else if off < 0x2020000 then free
  else if off < 0x2100000 then 0
  else if off < 0x2110000 then free
  else if off < 0x3000000 then 0
  else if off < 0x300C000 then byteOf (c.mx.acc.getD ((off - 0x3000000) / 4) 0).toNat (off % 4)
  else if off < 0x3100000 then 0
  else if off < 0x3140000 then Mem.read c.mx.wb (off - 0x3100000)
  else if off < 0x3200000 then 0
  else if off < 0x3208000 then free
  else if off < 0x3300000 then 0
  else if off < 0x3540000 then free
  else if off < 0x3600000 then 0
  else if off < 0x3601000 then hoopWordByte ts (off - 0x3600000)
  else 0

/-! ### Slices -/

/-- KIND of a monitor entry (R222). -/
def MonWho.kind (w : MonWho) : Nat :=
  match w with
  | .group _ _ => 1
  | .team _ _ => 2
  | .weaver _ _ | .queue _ _ | .fault _ _ => 3

/-- The 128 bits of a monitor entry: WADDR, OPND, MODE, KIND, WAITER and DEADL (R222). -/
def Mon.bits (m : Mon) : Nat :=
  (m.word / 4) * 2 ^ 72 + m.opnd.toNat * 2 ^ 40 + m.mode.toNat * 2 ^ 37 + m.who.kind * 2 ^ 34
  + (Config.waiterNumber m.who).toNat * 2 ^ 18 + (match m.deadl with | some d => d % 2 ^ 18 | none => 2 ^ 18 - 1)

/-- A byte of a slice's 256 MiB (R272): 4 MiB of data, tags and masks, the reservation table, the 64 monitor entries and the overflow
list; a free entry is zero (R222), and any other offset reads as zero. -/
def Slice.debugByte (sl : Slice) (off : Nat) : Byte :=
  let free := Config.sliceImage sl off
  if off < 0x400000 then free
  else if off < 0x800000 then 0
  else if off < 0x1010000 then free
  else if off < 0x1010400 then (match sl.mons.get? ((off - 0x1010000) / 16) with | some m => byteOf m.bits (off % 16) | none => 0)
  else if off < 0x1020000 then 0
  else if off < 0x1030000 then free
  else 0

/-! ### Links -/

/-- The modules of a die's two edges (R272, R320). -/
def State.modulesOf (s : State) (d : Nat) : List (Nat × Ucie) :=
  s.ucie.filter fun e => e.1 / 32 == d / 2 || e.1 / 32 == 2 + d % 2

/-- A byte of the buffers of a die's modules and ports; those of ports read as zero while FAB is clear (R272, R324). -/
def State.linkByte (s : State) (d off : Nat) : Byte :=
  if off < Config.portArea then Config.moduleImage (s.modulesOf d) off
  else if s.rdy.getLsbD 5 then Config.portImage (s.ports.filter fun e => Config.servedBy e.1 % 4 == d) (off - Config.portArea)
  else 0

/-! ### The window -/

/-- A die reports ready (R324). -/
def State.dieReady (s : State) (d : Nat) : Bool := s.rdy.getLsbD d

/-- The byte at an offset within a die's 16 TiB (R272, R325); a unit that is not ready reads as zero (R324). -/
def State.debugDie (s : State) (d off : Nat) : Byte :=
  if off < 0x4000000000 then
    let k := off / 2 ^ 30
    let core := 168 * d + k
    if k < 168 ∧ s.dieReady d = true then (s.core core).debugByte (s.residents core) (off % 2 ^ 30) else 0
  else if off < 0x8000000000 then
    let i := (off - 0x4000000000) / 2 ^ 28
    if i < 66 ∧ s.dieReady d = true then (s.slice (66 * d + i)).debugByte (off % 2 ^ 28) else 0
  else if off < 0xC000000000 then
    (if s.dieReady d then
      Config.dieImage (s.die d) ((List.range 21).map fun j => s.cluster (21 * d + j)) (s.nodes.map (·.2)) (off - 0x8000000000)
    else 0)
  else if off < 0x10000000000 then (if s.dieReady d then s.linkByte d (off - 0xC000000000) else 0)
  else Config.fuseImage d s.fuse (off - 0x10000000000)

/-- A byte of the debug window as a port reads it, by offset from its base (R325); a die that has refused both firmware slots shows
nothing here (R326). -/
def State.debugByte (s : State) (port : Port) (off : Nat) : Byte :=
  let d := off / 2 ^ 44
  if d < 4 ∧ s.hidden port d = false then s.debugDie d (off % 2 ^ 44) else 0

end Sys2Proof.Machine
end

