-- ==== Sys2Proof/Machine/ControlRead.lean ====
section
/-!
DEFINITION. Control space as it reads (spec/18_package_memory_translation.md R272; spec/21_package_links_control.md R324, R325):
the registers byte by byte, and the debug window. No row of the opcode table reads control space, and a read changes no state.
-/

namespace Sys2Proof.Config

/-- The bytes of a reply in the attestation mailbox, which the spec gives no layout (R328).
A free value, log 8. -/
opaque replyByte : Machine.Attest → Nat → Byte

end Sys2Proof.Config

namespace Sys2Proof.Machine

/-! ### Registers -/

/-- A byte of a queue descriptor (R292). -/
def Queue.readByte (q : Queue) (off : Nat) : Byte :=
  if off < 8 then byteOf q.base.toNat off
  else if off < 12 then byteOf q.ctl.toNat (off - 8)
  else if off < 16 then 0
  else if off < 20 then byteOf q.ridx.toNat (off - 16)
  else if off < 24 then byteOf q.widx.toNat (off - 20)
  else 0

/-- CTL of a shootdown block as it reads: GO as BUSY (R284). -/
def Part.sdCtl (p : Part) : Nat := (if p.sdBusy then 1 else 0) + (if p.sdDrop then 2 else 0)

/-- STAT of a shootdown block (R284). -/
def Part.sdStat (p : Part) : Nat := (if p.sdBusy then 1 else 0) + (if p.sdErr then 2 else 0)

/-- A byte of a partition block (R291). -/
def Part.readByte (p : Part) (off : Nat) : Byte :=
  if off < 0x8 then byteOf p.ptroot.toNat off
  else if off < 0x10 then byteOf p.pcfg.toNat (off - 0x8)
  else if off < 0x20 then byteOf p.pclus.toNat (off - 0x10)
  else if off < 0x40 then 0
  else if off < 0x48 then byteOf p.sdVa.toNat (off - 0x40)
  else if off < 0x50 then byteOf p.sdLen.toNat (off - 0x48)
  else if off < 0x58 then byteOf p.sdOld.toNat (off - 0x50)
  else if off < 0x5C then byteOf p.sdCtl (off - 0x58)
  else if off < 0x60 then byteOf p.sdStat (off - 0x5C)
  else if off < 0x68 then byteOf p.sdSig.toNat (off - 0x60)
  else if off < 0x80 then 0
  else if off < 0x88 then byteOf p.fqBase.toNat (off - 0x80)
  else if off < 0x8C then byteOf p.fqCtl.toNat (off - 0x88)
  else if off < 0x90 then 0
  else if off < 0x94 then byteOf p.fqw.toNat (off - 0x90)
  else if off < 0x98 then byteOf p.fqr.toNat (off - 0x94)
  else if off < 0xC0 then 0
  else if off < 0xC8 then byteOf p.plBase.toNat (off - 0xC0)
  else if off < 0xCC then byteOf p.plCnt.toNat (off - 0xC8)
  else if off < 0x1000 then 0
  else if off < 0x1800 then (p.queues.getD ((off - 0x1000) / 32) {}).readByte (off % 32)
  else if off < 0x2000 then 0
  else if off < 0x3000 then
    let e := p.arena.getD ((off - 0x2000) / 16) (0, 0)
    if off % 16 < 8 then byteOf e.1.toNat (off % 16) else byteOf e.2.toNat (off % 16 - 8)
  else 0

/-- CSEM as a port reads it: OWNER, and the port's own CERR (R323). -/
def State.csemWord (s : State) (port : Port) : Nat := s.csem + (if s.cerr.contains port then 4 else 0)

/-- A byte of a heat table entry (R313). -/
def HeatTable.readByte (t : HeatTable) (i off : Nat) : Byte :=
  if off < 8 then byteOf (t.entry i).1.toNat off else if off < 12 then byteOf (t.entry i).2.toNat (off - 8) else 0

/-- A byte of a pending-bit array: bit v of the 512 is set while vector v of the port is pending. -/
def State.pendByte (s : State) (p : Port) (i : Nat) : Byte :=
  BitVec.ofNat 8 (((List.range 8).map fun k => if s.msixPend.contains (p, 8 * i + k) then 2 ^ k else 0).sum)

/-- A byte of the package block (R272). -/
def State.packRead (s : State) (port : Port) (off : Nat) : Byte :=
  if off < 0x4 then byteOf (s.csemWord port) off
  else if off < 0x8 then 0
  else if off < 0x10 then byteOf s.rdy.toNat (off - 0x8)
  else if off < 0x20 then byteOf s.vrdy.toNat (off - 0x10)
  else if off < 0x28 then byteOf s.frdy.toNat (off - 0x20)
  else if off < 0x30 then byteOf s.podcfg.toNat (off - 0x28)
  else if off < 0x38 then byteOf s.fabev.toNat (off - 0x30)
  else if off < 0x40 then 0
  else if off < 0x48 then byteOf s.staged.epoch.toNat (off - 0x40)
  else if off < 0x50 then byteOf s.staged.period.toNat (off - 0x48)
  else if off < 0x54 then byteOf s.staged.nent (off - 0x50)
  else if off < 0x58 then 0
  else if off < 0x5C then byteOf s.fuse (off - 0x58)
  else if off < 0x400 then 0
  else if off < 0x800 then s.staged.readByte ((off - 0x400) / 16) (off % 16)
  else if off < 0x1000 then 0
  else if off < 0x2000 then (if off % 8 < 2 then byteOf (s.pmask.getD ((off - 0x1000) / 8) 0).toNat (off % 8) else 0)
  else if off < 0x3000 then
    let e := s.comms.getD ((off - 0x2000) / 16) (0, 0)
    if off % 16 < 8 then byteOf e.1.toNat (off % 16) else byteOf e.2.toNat (off % 16 - 8)
  else if off < 0x3800 then byteOf (s.mr.getD ((off - 0x3000) / 64) 0).toNat (off % 64)
  else if off < 0x8000 then 0
  else if off < 0xC000 then s.msixByte (off - 0x8000)
  else if off < 0xC040 then s.pendByte .host0 (off - 0xC000)
  else if off < 0xC080 then s.pendByte .host1 (off - 0xC040)
  else 0

/-- SECMAP of a sector as it reads: entries from D on are zero (R211). -/
def Die.mapWord (d : Die) (sec : Nat) : Nat :=
  ((List.range (min 22 (sectorDiv d sec))).map fun i => sectorSlice d sec i * 2 ^ (5 * i)).sum

/-- A byte of a die block (R272). -/
def State.dieRead (s : State) (port : Port) (d off : Nat) : Byte :=
  let page := off % 2 ^ 24 / 2 ^ 16
  let at_ := off % 2 ^ 16
  if s.hidden port d then 0
  else
    match off / 2 ^ 24 with
    | 0 =>
      if at_ < 4 ∧ page = 0 then byteOf (s.die d).secdiv.toNat at_
      else if 0x10 ≤ at_ ∧ at_ < 0x40 ∧ page = 0 then byteOf ((s.die d).mapWord (at_ / 16 - 1)) (at_ % 16)
      else 0
    | 1 => if page < 66 ∧ at_ < 4 then byteOf (s.slice (66 * d + page)).clquota.toNat at_ else 0
    | 2 => if page < 21 ∧ at_ < 4 then byteOf (s.cluster (21 * d + page)).vshad.toNat at_ else 0
    | 4 => if page < 168 ∧ at_ < 4 then byteOf (s.core (168 * d + page)).wmask.toNat at_ else 0
    | _ => 0

/-- A byte of the mailbox: the request, then the newest reply (R272, R328). -/
def State.mailRead (s : State) (off : Nat) : Byte :=
  if off < 0x1000 then NMap.getD s.mailbox off 0
  else match s.replies with | a :: _ => Config.replyByte a (off - 0x1000) | [] => 0

/-! ### Reads -/

/-- A byte of control space as a port reads it, by offset from its base; an offset that no table names reads as zero (R272). -/
def State.readControl (s : State) (port : Port) (off : Nat) : Byte :=
  if off < 0x80000 then (s.part (off / 2 ^ 16)).readByte (off % 2 ^ 16)
  else if off < 0x100000 then 0
  else if off < 0x110000 then s.packRead port (off - 0x100000)
  else if off < 0x200000 then 0
  else if off < 0x210000 then s.mailRead (off - 0x200000)
  else if off < 2 ^ 32 then 0
  else if off < 5 * 2 ^ 32 then s.dieRead port (off / 2 ^ 32 - 1) (off % 2 ^ 32)
  else if off < 2 ^ 47 then 0
  else s.debugByte port (off - 2 ^ 47)

end Sys2Proof.Machine
end

