-- ==== Sys2Proof/Safety.lean ====
section
/-!
DEFINITION. What counts as a safe run, and the terms in which the statements speak of the issue of an instruction: the
context in which the group that `cur` names issues it, the checks that it passes, and the state it leaves.
-/

namespace Sys2Proof.Safety

open Machine

/-- The step from a state goes on: it ends in no fault and no refusal. -/
def goesOn (s : State) : Prop := ∃ t, step s = .next t

/-- The bytes of memory are in canonical form. -/
def memoryOk (s : State) : Prop := Memory.wf s.mem = true

/-! ### What the spec says of an opcode's class -/

/-- Instructions that are run ends whatever their Y bit (R35). -/
def runEnds (i : Instr) : Bool :=
  match opOf i with
  | some op => decide (0x91 ≤ op) && op != 0x95 && !(decide (0xA0 ≤ op) && decide (op ≤ 0xA5))
  | none => false

/-- The latency of an instruction's fixed-latency result (R32); none for an instruction without one. -/
def latencyOf (i : Instr) : Option Nat :=
  match opOf i with
  | some op =>
    if op ≤ 0x45 then some 4
    else if op ≤ 0x4F then some 12
    else if op ≤ 0x58 then some 4
    else if op ≤ 0x74 then some 6
    else if op ≤ 0x8A then some 4
    else if 0xA0 ≤ op ∧ op ≤ 0xA5 then some 6
    else if op = 0x92 ∨ op = 0x99 ∨ op = 0xC3 ∨ op = 0xC4 ∨ (0xC6 ≤ op ∧ op ≤ 0xCA) ∨ op = 0xCF then some 1
    else none
  | none => none

/-- The predicates that an instruction reads beside its guard (R43). -/
def readsPreds (i : Instr) : List Nat :=
  match i with
  | .sel w | .vote w => [w.f 11 9]
  | .icmp w | .fcmp w => if w.f 17 16 = 0 then [] else [w.f 14 12]
  | .plogic w => [w.f 14 12, w.f 17 15, w.f 20 18]
  | .pmovGet _ => List.range 7
  | _ => []

/-- The predicates that an instruction writes (R43). -/
def writesPreds (i : Instr) : List Nat :=
  match i with
  | .icmp w | .fcmp w | .plogic w => [w.f 11 9]
  | .fcls w => if w.f 12 12 = 1 then [w.f 11 9] else []
  | .pmovPut w => (List.range 7).filter (w.f 15 9).testBit
  | .shfl w | .matchLanes w => if w.f 16 16 = 1 then [w.f 15 13] else []
  | .vote w => if w.mod = 2 then [] else [w.f 15 13]
  | .elect w => [w.f 15 13]
  | .hoopAcq w | .cp w | .cp2d w | .cpg w | .cps w | .nsend w | .npoll w | .wbld w | .mloop w | .mstep w | .qpost w | .coll w
  | .collc w => [w.f 14 12]
  | .waitc w => [w.fld]
  | _ => []

/-- What the checks of R43 need to know of an instruction. -/
def infoOf (i : Instr) : Info := { ends := runEnds i, lat := latencyOf i, preds := readsPreds i, pdst := writesPreds i }

/-! ### The issue of an instruction -/

/-- The checks of the registers that an instruction names pass: its registers are allotted, the checking scoreboard, if it is on,
finds nothing, and no latch or operand-cache entry is invalid (R43, R62). -/
def regsClear (nf : Info) (x : Ctx) (s : State) : Bool :=
  (unallotted x.g.n x.sh x.f).isNone && !(s.scoreOn x.team && s.checkScore x nf) && (staleAt x.g x.sh x.f).isNone

/-- The checks of R43, R58 and R62 that depend on the state pass: the context with the words of its constant-window operand, and
the state after their translation. -/
def clearOf (nf : Info) (spec : BitVec 23) (x : Ctx) (s : State) : Option (Ctx × State) :=
  if x.f.c == .cwin then
    if (s.window x.team (windowOf spec).1).2 < (windowOf spec).2 + constRegs x.sh then none
    else
      match x.constOp s spec (constRegs x.sh) with
      | (s, .words v) => if regsClear nf x s then some ({ x with cw := v }, s) else none
      | _ => none
  else if regsClear nf x s then some (x, s) else none

/-- Dead values of the instruction have gone, and the progress count has risen (R38, R39, R141). -/
def deadGone (x : Ctx) (s : State) : State := s.modGroup x.ref fun g => (g.killDead x.act x.sh x.f).progressed

/-- The instruction issues at a state and passes its checks, with this context, from this state. -/
def Issues (i : Instr) (s : State) (x : Ctx) (s' : State) : Prop :=
  ((issueOf i s).bind fun p => clearOf (infoOf i) (specOf i).1 p.1 (deadGone p.1 p.2)) = some (x, s')

/-- The same, beside the state in which a cause is raised: results have landed, and dead values have not gone (R38). -/
def IssuesFrom (i : Instr) (s s0 : State) (x : Ctx) (s' : State) : Prop :=
  ∃ x0, issueOf i s = some (x0, s0) ∧ clearOf (infoOf i) (specOf i).1 x0 (deadGone x0 s0) = some (x, s')

/-- The state after an instruction whose effect made `s`, and whose PC moves on (R35, R37, R41, R142). -/
def passed (i : Instr) (x : Ctx) (s : State) : State :=
  (x.finish false (runEnds i || x.f.h.y) s).issuedAt x.core x.g.quarter

/-- The state after an instruction that has set the PC itself; `ended` tells whether the run ends. -/
def jumped (x : Ctx) (ended : Bool) (s : State) : State := (x.finish true (ended || x.f.h.y) s).issuedAt x.core x.g.quarter

/-- The state after an instruction whose split waits (R22). -/
def slept (x : Ctx) (w : Wait) (s : State) : State := (x.sleep w (x.finish false false s)).issuedAt x.core x.g.quarter

/-- The state after an instruction that raises a cause in place of its effect: it counts as issued (R5, R62). -/
def raised (x : Ctx) (code : Nat) (einfo : DWord) (s : State) : State :=
  ((s.modGroup x.ref fun g => g.count x.clk x.f.h.stall.toNat).raise x.ref code einfo).issuedAt x.core x.g.quarter

end Sys2Proof.Safety
end

