-- ==== Sys2Proof/Certificates/Slice0/Obligations.lean ====
section
/-!
DEFINITION. The statements for the provers.
A statement about the issue of an instruction speaks of a context `x` and a state `s'` with `Issues i s x s'`: the group that
`cur` names issues `i`, the checks of R43 and R62 pass, and `s'` is the state from which the instruction takes effect.
-/

section Statements

open Sys2Proof Sys2Proof.Machine Sys2Proof.Safety

/-! ### Values by the tables of the spec -/

namespace Sys2Proof.Rules

/-- A source in a lane as an unsigned and as a signed number (R57). -/
def u (x : Ctx) (o : Operand) (l : Nat) : Int := (LVec.at (x.src .int o) l).toNat
def sg (x : Ctx) (o : Operand) (l : Nat) : Int := (LVec.at (x.src .int o) l).toInt

/-- The bits of a source in a lane. -/
def bit (x : Ctx) (o : Operand) (l i : Nat) : Bool := (LVec.at (x.src .int o) l).getLsbD i

/-- sat_s32 and sat_u32 (R67). -/
def satS (v : Int) : Int := max (-2147483648) (min v 2147483647)
def satU (v : Int) : Int := max 0 (min v 4294967295)

/-- A number by its 32 bits. -/
def ofBits (f : Nat → Bool) : Int := ((List.range 32).map fun i => if f i then (2 : Int) ^ i else 0).sum

/-- n := min(b, 32) (R93). -/
def shiftCount (x : Ctx) (o : Operand) (l : Nat) : Nat := min (LVec.at (x.src .int o) l).toNat 32

/-- pos and len of the control source (R94). -/
def pos (x : Ctx) (o : Operand) (l : Nat) : Nat := min ((LVec.at (x.src .int o) l).toNat % 256) 32
def len (x : Ctx) (o : Operand) (l : Nat) : Nat := min ((LVec.at (x.src .int o) l).toNat / 256 % 256) (32 - pos x o l)

/-- Bytes as s8 or u8 (R99). -/
def byteAt (signed : Bool) (x : Ctx) (o : Operand) (l j : Nat) : Int :=
  let b := (LVec.at (x.src .int o) l).toNat / 256 ^ j % 256
  if signed ∧ 128 ≤ b then (b : Int) - 256 else b

/-- The tables of R93, R94 and R99: what an integer instruction with a 32-bit result leaves in a lane, before it is taken
modulo 2^32. -/
def intResult (i : Instr) : Option (Ctx → Nat → Int) :=
  match i with
  | .iadd w => some fun x l => u x w.a l + u x w.b l
  | .iaddExt w => some fun x l =>
    if w.mod = 0 then u x w.a l + u x w.b l
    else if w.mod = 1 then satS (sg x w.a l + sg x w.b l) else satU (u x w.a l + u x w.b l)
  | .isub w => some fun x l => u x w.a l - u x w.b l
  | .isubExt w => some fun x l =>
    if w.mod = 0 then u x w.a l - u x w.b l
    else if w.mod = 1 then satS (sg x w.a l - sg x w.b l) else satU (u x w.a l - u x w.b l)
  | .imul w => some fun x l => u x w.a l * u x w.b l
  | .imulExt w => some fun x l => u x w.a l * u x w.b l
  | .imulhi w => some fun x l => u x w.a l * u x w.b l / 2 ^ 32
  | .imulhiExt w => some fun x l =>
    if w.mod = 0 then u x w.a l * u x w.b l / 2 ^ 32 else sg x w.a l * sg x w.b l / 2 ^ 32
  | .imad w => some fun x l =>
    if w.mod = 0 then u x w.a l * u x w.b l + u x w.c l
    else if w.mod = 1 then satS (sg x w.a l * sg x w.b l + sg x w.c l) else satU (u x w.a l * u x w.b l + u x w.c l)
  | .iabs w => some fun x l => (sg x w.a l).natAbs
  | .iabsExt w => some fun x l => if w.mod = 0 then (sg x w.a l).natAbs else satS (sg x w.a l).natAbs
  | .imin w => some fun x l => min (sg x w.a l) (sg x w.b l)
  | .iminExt w => some fun x l => if w.mod = 0 then min (sg x w.a l) (sg x w.b l) else min (u x w.a l) (u x w.b l)
  | .imax w => some fun x l => max (sg x w.a l) (sg x w.b l)
  | .imaxExt w => some fun x l => if w.mod = 0 then max (sg x w.a l) (sg x w.b l) else max (u x w.a l) (u x w.b l)
  | .shl w => some fun x l => u x w.a l * 2 ^ shiftCount x w.b l
  | .shlExt w => some fun x l => u x w.a l * 2 ^ shiftCount x w.b l
  | .shr w => some fun x l => u x w.a l / 2 ^ shiftCount x w.b l
  | .shrExt w => some fun x l => u x w.a l / 2 ^ shiftCount x w.b l
  | .sar w => some fun x l => sg x w.a l / 2 ^ shiftCount x w.b l
  | .sarExt w => some fun x l => sg x w.a l / 2 ^ shiftCount x w.b l
  | .rol w => some fun x l => ofBits fun i => bit x w.a l ((i + 32 - (u x w.b l).toNat % 32) % 32)
  | .rolExt w => some fun x l => ofBits fun i => bit x w.a l ((i + 32 - (u x w.b l).toNat % 32) % 32)
  | .logic w => some fun x l => ofBits fun i =>
    (w.f 16 9).testBit
      (4 * (if bit x w.a l i then 1 else 0) + 2 * (if bit x w.b l i then 1 else 0) + (if bit x w.c l i then 1 else 0))
  | .popc w => some fun x l => ((List.range 32).filter (bit x w.a l)).length
  | .popcExt w => some fun x l => ((List.range 32).filter (bit x w.a l)).length
  | .clz w => some fun x l => ((List.range 32).takeWhile fun i => !bit x w.a l (31 - i)).length
  | .clzExt w => some fun x l => ((List.range 32).takeWhile fun i => !bit x w.a l (31 - i)).length
  | .ctz w => some fun x l => ((List.range 32).takeWhile fun i => !bit x w.a l i).length
  | .ctzExt w => some fun x l => ((List.range 32).takeWhile fun i => !bit x w.a l i).length
  | .brev w => some fun x l => ofBits fun i => bit x w.a l (31 - i)
  | .brevExt w => some fun x l => ofBits fun i => bit x w.a l (31 - i)
  | .bfx w => some fun x l =>
    let f := (u x w.a l).toNat / 2 ^ pos x w.b l % 2 ^ len x w.b l
    if len x w.b l = 0 then 0
    else if w.mod = 1 ∧ 2 ^ (len x w.b l - 1) ≤ f then (f : Int) - 2 ^ len x w.b l else f
  | .bfi w => some fun x l => ofBits fun i =>
    if pos x w.c l ≤ i ∧ i < pos x w.c l + len x w.c l then bit x w.b l (i - pos x w.c l) else bit x w.a l i
  | .sel w => some fun x l => if predAt x.g (w.f 11 9) (w.f 12 12 == 1) l then u x w.a l else u x w.b l
  | .idot4 w => some fun x l =>
    let t := w.mod
    let s := sg x w.c l + byteAt (t % 2 == 1) x w.a l 0 * byteAt (t / 2 % 2 == 1) x w.b l 0
      + byteAt (t % 2 == 1) x w.a l 1 * byteAt (t / 2 % 2 == 1) x w.b l 1
      + byteAt (t % 2 == 1) x w.a l 2 * byteAt (t / 2 % 2 == 1) x w.b l 2
      + byteAt (t % 2 == 1) x w.a l 3 * byteAt (t / 2 % 2 == 1) x w.b l 3
    if t / 4 % 2 = 1 then satS s else s
  | _ => none

/-- IMADW and AADD (R93), before the result is taken modulo 2^64. -/
def intResult64 (i : Instr) : Option (Ctx → Nat → Int) :=
  match i with
  | .imadw w => some fun x l =>
    if w.mod = 0 then u x w.a l * u x w.b l + (x.src64 w.c l).toNat else sg x w.a l * sg x w.b l + (x.src64 w.c l).toNat
  | .aadd w => some fun x l =>
    if w.mod = 0 then (x.src64 w.a l).toNat + sg x w.b l
    else if w.mod = 1 then (x.src64 w.a l).toNat + u x w.b l
    else (x.src64 w.a l).toNat + (x.src64 w.b l).toNat
  | _ => none

end Sys2Proof.Rules

/-- R93, R94, R99: an integer instruction that issues and passes its checks completes: its result, by the tables, is written
to its destination and to latch A after 4 cycles in the executing lanes, and its PC moves on.
Covers IADD, ISUB, IMUL, IMULHI, IMAD, IABS, IMIN, IMAX, SHL, SHR, SAR, ROL, LOGIC, POPC, CLZ, CTZ, BREV, BFX, BFI, SEL and
IDOT4 in every form. -/
def Sys2Proof.Rules.IntegerResults : Prop :=
  ∀ i f, Rules.intResult i = some f → ∀ s x s', Issues i s x s' →
    Machine.exec i s = .next (passed i x (x.put .a 4 (LVec.tab fun l => BitVec.ofInt 32 (f x l)) s'))

/-- R93: IMADW and AADD complete with a 64-bit result in a register pair, its low word also in latch A. -/
def Sys2Proof.Rules.IntegerPairResults : Prop :=
  ∀ i f, Rules.intResult64 i = some f → ∀ s x s', Issues i s x s' →
    Machine.exec i s = .next (passed i x (x.put64 .a 4 (fun l => BitVec.ofInt 64 (f x l)) s'))

/-- R93, R94, R99: the integer instructions complete, with one word or, for IMADW and AADD, a register pair as their result, by the tables,
after 4 cycles. -/
def Obligations.IntegerResults : Prop := Rules.IntegerResults ∧ Rules.IntegerPairResults

namespace Sys2Proof.Rules

/-- The FP32 value of a source in a lane, its sign flipped when the instruction says so (R95). -/
def f32 (neg : Bool) (x : Ctx) (o : Operand) (l : Nat) : Val :=
  let v := fp32.val (LVec.at (x.src .f32 o) l).toNat
  if neg then v.neg else v

/-- NEGA and NEGB in MOD2, NEGC in SPEC [9] (R95). -/
def negA (w : ExtA) : Bool := w.h.mod2.getLsbD 0
def negB (w : ExtA) : Bool := w.h.mod2.getLsbD 1
def negC (w : ExtA) : Bool := w.f 9 9 == 1

/-- round_m into FP32 with the mode of a 2-bit field (R92, R95). -/
def round32 (rnd : Nat) (v : Val) : Nat := fp32.round (Rnd.ofField (rnd % 4)) false 0 v

/-- The code of an FP32 source with its sign bit flipped when asked. -/
def code32 (neg : Bool) (x : Ctx) (o : Operand) (l : Nat) : Nat :=
  let c := (LVec.at (x.src .f32 o) l).toNat
  if neg then (c + 2 ^ 31) % 2 ^ 32 else c

/-- The smaller or larger of two codes, −0 below +0, a NaN giving way (R96). -/
def pick (isMax : Bool) (a b : Nat) : Nat :=
  let x := fp32.val a
  let y := fp32.val b
  let less (x y : Val) (a b : Nat) : Bool := x.lt y || (x.eq y && decide (2 ^ 31 ≤ a) && decide (b < 2 ^ 31))
  if x.isNan && y.isNan then 0x7FC00000
  else if x.isNan then b
  else if y.isNan then a
  else if isMax then (if less x y a b then b else a) else (if less y x b a then b else a)

/-- The class table of R96 by sign, exponent and mantissa. -/
def classBit (c : Nat) : Nat :=
  let s := c / 2 ^ 31
  let e := c / 2 ^ 23 % 256
  let m := c % 2 ^ 23
  if e = 255 then (if m ≠ 0 then 8 else if s = 1 then 0 else 7)
  else if e = 0 then (if m = 0 then (if s = 1 then 3 else 4) else (if s = 1 then 2 else 5))
  else if s = 1 then 1 else 6

/-- Half j of a packed source as a value of the half format that FMT names, its sign flipped when asked (R98). -/
def half (w : ExtA) (neg : Bool) (x : Ctx) (o : Operand) (l j : Nat) : Val :=
  let fp := w.mod % 2 == 1
  let c := (LVec.at (x.src (.half fp) o) l).toNat / 2 ^ (16 * j) % 2 ^ 16
  let v := (if fp then fp16 else bf16).val c
  if neg then v.neg else v

/-- round_m into the half format (R98). -/
def roundHalf (w : ExtA) (v : Val) : Nat :=
  (if w.mod % 2 = 1 then fp16 else bf16).round (Rnd.ofField (w.mod / 2 % 4)) false 0 v

/-- Two halves as a word. -/
def two (f : Nat → Nat) : Nat := f 0 + 2 ^ 16 * f 1

/-- The mode of a packed instruction's exact sum. -/
def halfMode (w : ExtA) : Rnd := Rnd.ofField (w.mod / 2 % 4)

/-- R95, R96, R98, R99: the code that a floating instruction of port A leaves in a lane. -/
def floatResult (i : Instr) : Option (Ctx → Nat → Nat) :=
  match i with
  | .fadd w => some fun x l => round32 0 ((f32 false x w.a l).add (f32 false x w.b l) .rne)
  | .faddExt w => some fun x l =>
    round32 w.mod ((f32 (negA w) x w.a l).add (f32 (negB w) x w.b l) (Rnd.ofField (w.mod % 4)))
  | .fmul w => some fun x l => round32 0 ((f32 false x w.a l).mul (f32 false x w.b l))
  | .fmulExt w => some fun x l => round32 w.mod ((f32 (negA w) x w.a l).mul (f32 (negB w) x w.b l))
  | .ffma w => some fun x l =>
    round32 w.mod (((f32 (negA w) x w.a l).mul (f32 (negB w) x w.b l)).add (f32 (negC w) x w.c l) (Rnd.ofField (w.mod % 4)))
  | .fmin w => some fun x l => pick false (code32 false x w.a l) (code32 false x w.b l)
  | .fminExt w => some fun x l => pick false (code32 (negA w) x w.a l) (code32 (negB w) x w.b l)
  | .fmax w => some fun x l => pick true (code32 false x w.a l) (code32 false x w.b l)
  | .fmaxExt w => some fun x l => pick true (code32 (negA w) x w.a l) (code32 (negB w) x w.b l)
  | .hadd2 w => some fun x l => two fun j =>
    roundHalf w ((half w (negA w) x w.a l j).add (half w (negB w) x w.b l j) (halfMode w))
  | .hmul2 w => some fun x l => two fun j => roundHalf w ((half w (negA w) x w.a l j).mul (half w (negB w) x w.b l j))
  | .hfma2 w => some fun x l => two fun j =>
    roundHalf w (((half w (negA w) x w.a l j).mul (half w (negB w) x w.b l j)).add (half w (negC w) x w.c l j) (halfMode w))
  | .fdot2 w => some fun x l =>
    fp32.round (halfMode w) false 0
      ((((half w (negA w) x w.a l 0).mul (half w (negB w) x w.b l 0)).add
        ((half w (negA w) x w.a l 1).mul (half w (negB w) x w.b l 1)) (halfMode w)).add (f32 false x w.c l) (halfMode w))
  | _ => none

/-- The special function of an opcode and its assembly operand (R97). -/
def specialOf (i : Instr) : Option (Operand × (Val → Nat)) :=
  match i with
  | .frcp w => some (w.a, frcp)
  | .frcpExt w => some (w.a, frcp)
  | .frsq w => some (w.a, frsq)
  | .frsqExt w => some (w.a, frsq)
  | .fsqrt w => some (w.a, fsqrt)
  | .fsqrtExt w => some (w.a, fsqrt)
  | .fexp2 w => some (w.a, fexp2)
  | .fexp2Ext w => some (w.a, fexp2)
  | .flog2 w => some (w.a, flog2)
  | .flog2Ext w => some (w.a, flog2)
  | .fsin w => some (w.a, fsin)
  | .fsinExt w => some (w.a, fsin)
  | .fcos w => some (w.a, fcos)
  | .fcosExt w => some (w.a, fcos)
  | .ftanh w => some (w.a, ftanh)
  | .ftanhExt w => some (w.a, ftanh)
  | _ => none

/-- A half of HMIN2 and HMAX2 (R96, R98): one of the two codes, or the canonical NaN. -/
def pickHalf (w : ExtA) (isMax : Bool) (a b : Nat) : Nat :=
  let f := if w.mod % 2 = 1 then fp16 else bf16
  let x := f.val a
  let y := f.val b
  let less (x y : Val) (a b : Nat) : Bool := x.lt y || (x.eq y && decide (2 ^ 15 ≤ a) && decide (b < 2 ^ 15))
  if x.isNan && y.isNan then (if w.mod % 2 = 1 then 0x7E00 else 0x7FC0)
  else if x.isNan then b
  else if y.isNan then a
  else if isMax then (if less x y a b then b else a) else (if less y x b a then b else a)

/-- The code of half j of a packed source with its sign bit flipped when asked. -/
def codeHalf (w : ExtA) (neg : Bool) (x : Ctx) (o : Operand) (l j : Nat) : Nat :=
  let c := (LVec.at (x.src (.half (w.mod % 2 == 1)) o) l).toNat / 2 ^ (16 * j) % 2 ^ 16
  if neg then (c + 2 ^ 15) % 2 ^ 16 else c

/-- HMIN2 and HMAX2. -/
def halfMinMax (i : Instr) : Option (Ctx → Nat → Nat) :=
  match i with
  | .hmin2 w => some fun x l => two fun j => pickHalf w false (codeHalf w (negA w) x w.a l j) (codeHalf w (negB w) x w.b l j)
  | .hmax2 w => some fun x l => two fun j => pickHalf w true (codeHalf w (negA w) x w.a l j) (codeHalf w (negB w) x w.b l j)
  | _ => none

end Sys2Proof.Rules

/-- R95, R96, R98, R99: a floating instruction of port A that issues and passes its checks completes: the exact result of the
operation, rounded once in the mode that it names, or the smaller or larger source, goes to its destination and to latch A after 4
cycles.
Covers FADD, FMUL, FFMA, FMIN, FMAX, HADD2, HMUL2, HFMA2, HMIN2, HMAX2 and FDOT2 in every form. -/
def Sys2Proof.Rules.FloatResults : Prop :=
  ∀ i f, (Rules.floatResult i = some f ∨ Rules.halfMinMax i = some f) → ∀ s x s', Issues i s x s' →
    Machine.exec i s = .next (passed i x (x.put .a 4 (LVec.tab fun l => BitVec.ofNat 32 (f x l)) s'))

/-- R96: FCLS completes: the class bit of A and the mask go to the destination and latch A, and with PEN the predicate is set
where the result is not zero. -/
def Sys2Proof.Rules.ClassResults : Prop :=
  ∀ w s x s', Issues (.fcls w) s x s' →
    let v := LVec.tab fun l => BitVec.ofNat 32 (2 ^ Rules.classBit (LVec.at (x.src .f32 w.a) l).toNat) &&& LVec.at (x.src .int w.b) l
    let t := x.put .a 4 v s'
    Machine.exec (.fcls w) s =
      .next (passed (.fcls w) x (if w.f 12 12 = 1 then x.putP 4 (w.f 11 9) (maskOf fun l => LVec.at v l != 0) t else t))

/-- R95, R96, R98, R99: the floating-point and packed-half instructions of port A complete with the exact result rounded once, or the smaller or
larger source, and FCLS with its class bit. -/
def Obligations.FloatResults : Prop := Rules.FloatResults ∧ Rules.ClassResults

/-- R97: a special function completes on port B after 12 cycles with its function of the value of A. -/
def Sys2Proof.Rules.SpecialFunctionResults : Prop :=
  ∀ i o f, Rules.specialOf i = some (o, f) → ∀ s x s', Issues i s x s' →
    Machine.exec i s =
      .next (passed i x (x.put .b 12 (LVec.tab fun l => BitVec.ofNat 32 (f (fp32.val (LVec.at (x.src .f32 o) l).toNat))) s'))

namespace Sys2Proof.Rules

/-- A code of FP32 without its sign as a number of quanta of 2^−149 (R69); the code of infinity as 2^128, from which its half-way point
to the greatest finite number is reckoned (R77). -/
def quanta (c : Nat) : Nat := if c < 2 ^ 23 then c else (2 ^ 23 + c % 2 ^ 23) * 2 ^ (c / 2 ^ 23 - 1)

/-- The positive real x with (x / 2^−150)^p = num / den, rounded to the nearest code of FP32, ties to the even one (R77): it lies between
the half-way points to the codes beside. -/
def nearestCode (p num den c : Nat) : Prop :=
  c ≤ 0x7F800000 ∧
  (c ≠ 0 → let m := (quanta (c - 1) + quanta c) ^ p * den; m < num ∨ (m = num ∧ c % 2 = 0)) ∧
  (c < 0x7F800000 → let m := (quanta c + quanta (c + 1)) ^ p * den; num < m ∨ (num = m ∧ c % 2 = 0))

end Sys2Proof.Rules

/-- R77, R97: a NaN source gives the canonical NaN for every special function, and the special inputs of the table give the table's
results, in codes of FP32. For every other finite source FRCP, FRSQ and FSQRT give the exact 1/x, 1/√x and √x rounded once, to the
nearest code and ties to even; FLOG2 of a power of two is exact. -/
def Sys2Proof.Rules.SpecialInputs : Prop :=
  (∀ c, 0 < c → c < 0x7F800000 →
    Rules.nearestCode 1 (2 ^ 299) (Rules.quanta c) (frcp (fp32.val c)) ∧
    frcp (fp32.val (0x80000000 + c)) = 0x80000000 + frcp (fp32.val c) ∧
    Rules.nearestCode 2 (2 ^ 449) (Rules.quanta c) (frsq (fp32.val c)) ∧
    Rules.nearestCode 2 (Rules.quanta c * 2 ^ 151) 1 (fsqrt (fp32.val c)) ∧
    (∀ k : Nat, Rules.quanta c = 2 ^ k → ∃ r, r < 2 ^ 32 ∧ flog2 (fp32.val c) = r ∧
      ((149 ≤ k → r < 0x80000000 ∧ Rules.quanta r = (k - 149) * 2 ^ 149) ∧
        (k < 149 → 0x80000000 < r ∧ Rules.quanta (r - 0x80000000) = (149 - k) * 2 ^ 149)))) ∧
  (∀ i o f, Rules.specialOf i = some (o, f) → ∀ c, c < 2 ^ 32 → 0x7F800000 < c % 2 ^ 31 → f (fp32.val c) = 0x7FC00000) ∧
  (frcp (fp32.val 0) = 0x7F800000 ∧ frcp (fp32.val 0x80000000) = 0xFF800000 ∧ frcp (fp32.val 0x7F800000) = 0 ∧
    frcp (fp32.val 0xFF800000) = 0x80000000) ∧
  (frsq (fp32.val 0) = 0x7F800000 ∧ frsq (fp32.val 0x80000000) = 0xFF800000 ∧ frsq (fp32.val 0x7F800000) = 0) ∧
  (fsqrt (fp32.val 0) = 0 ∧ fsqrt (fp32.val 0x80000000) = 0x80000000 ∧ fsqrt (fp32.val 0x7F800000) = 0x7F800000) ∧
  (fexp2 (fp32.val 0xFF800000) = 0 ∧ fexp2 (fp32.val 0x7F800000) = 0x7F800000) ∧
  (flog2 (fp32.val 0) = 0xFF800000 ∧ flog2 (fp32.val 0x80000000) = 0xFF800000 ∧ flog2 (fp32.val 0x3F800000) = 0 ∧
    flog2 (fp32.val 0x7F800000) = 0x7F800000) ∧
  (fsin (fp32.val 0) = 0 ∧ fsin (fp32.val 0x80000000) = 0x80000000 ∧ fsin (fp32.val 0x7F800000) = 0x7FC00000 ∧
    fsin (fp32.val 0xFF800000) = 0x7FC00000) ∧
  (fcos (fp32.val 0x7F800000) = 0x7FC00000 ∧ fcos (fp32.val 0xFF800000) = 0x7FC00000) ∧
  (ftanh (fp32.val 0) = 0 ∧ ftanh (fp32.val 0x80000000) = 0x80000000 ∧ ftanh (fp32.val 0x7F800000) = 0x3F800000 ∧
    ftanh (fp32.val 0xFF800000) = 0xBF800000) ∧
  (∀ c, 0x80000000 < c → c ≤ 0xFF800000 →
    frsq (fp32.val c) = 0x7FC00000 ∧ fsqrt (fp32.val c) = 0x7FC00000 ∧ flog2 (fp32.val c) = 0x7FC00000)

/-- R77, R97: the special functions complete on port B after 12 cycles; their results for NaN sources and the special inputs of the table; FRCP,
FRSQ and FSQRT give the exact value rounded once. -/
def Obligations.SpecialFunctions : Prop := Rules.SpecialFunctionResults ∧ Rules.SpecialInputs

/-- R77: an exact result needs no rounding and is returned unchanged: rounding the value of a finite code of a format, in any
mode, gives the code back. -/
def Sys2Proof.Rules.ExactResultsAreUnchanged : Prop :=
  ∀ f ∈ [fp32, fp16, bf16, e4m3, e5m2, e2m1], ∀ mode sat u c, c < 2 ^ (f.sign + 1) → c % 2 ^ f.sign ≤ f.maxCode →
    f.round mode sat u (f.val c) = c

namespace Sys2Proof.Rules

/-- The random word of element j of lane l under SR (R79): the state after its advance, rotated. -/
def random (w : ExtA) (x : Ctx) (l j : Nat) : Word :=
  (if w.mod % 8 = 4 then lfsrNext x.g.srstate else x.g.srstate).rotateLeft ((l + 8 * (j % 4)) % 32)

/-- RND and SAT of a conversion (R92, R104). -/
def cvMode (w : ExtA) : Rnd := Rnd.ofField (w.mod % 8)
def cvSaturates (w : ExtA) : Bool := decide (8 ≤ w.mod)

/-- The format that a code of R65 names. -/
def fmt (code : Nat) : Fmt := (Fmt.ofCode code).getD .s8

/-- The state after an instruction that names SR has advanced the group's stochastic-rounding state, once (R79). -/
def srAfter (w : ExtA) (x : Ctx) (s : State) : State :=
  if w.mod % 8 = 4 then s.modGroup x.ref fun g => { g with srstate := lfsrNext g.srstate } else s

/-- CVT in a lane (R104): the element converted. -/
def cvt (x : Ctx) (w : ExtA) (l : Nat) : Nat :=
  let fs := fmt (w.f 13 9)
  let a : Nat :=
    if fs.bits = 64 then (x.src64 w.a l).toNat else (LVec.at (x.src (if fs = .f32 then .f32 else .int) w.a) l).toNat
  let e := a / 2 ^ (fs.pitch * w.f 21 19) % 2 ^ fs.bits
  (fmt (w.f 18 14)).convert (cvMode w) (cvSaturates w) (random w x l 0) (fs.val e)

/-- Element j of a word in a format (R71). -/
def elem (f : Fmt) (d : Word) (j : Nat) : Nat := d.toNat / 2 ^ (f.pitch * j) % 2 ^ f.bits

/-- The source value of PACK (R105): S32, U32 or FP32 by the target. -/
def packVal (fd : Fmt) (c : Word) : Val :=
  match fd with
  | .s8 | .s16 => .num c.msb c.toInt.natAbs 0
  | .u8 | .u16 => .num false c.toNat 0
  | _ => fp32.val c.toNat

end Sys2Proof.Rules

/-- R104: CVT completes: the converted element goes to the destination and latch B after 6 cycles, its upper bits zero; a 64-bit
target writes a pair. The stochastic-rounding state advances once when the instruction names SR (R79). -/
def Sys2Proof.Rules.CvtResults : Prop :=
  ∀ w s x s', Issues (.cvt w) s x s' →
    Machine.exec (.cvt w) s = .next (passed (.cvt w) x
      (if (Rules.fmt (w.f 18 14)).bits = 64 then x.put64 .b 6 (fun l => BitVec.ofNat 64 (Rules.cvt x w l)) (Rules.srAfter w x s')
       else x.put .b 6 (LVec.tab fun l => BitVec.ofNat 32 (Rules.cvt x w l)) (Rules.srAfter w x s')))

/-- R105, R108: PACK and QNT complete with the word that their table gives. The elements of that word: PACK writes elements 2Q
and 2Q + 1 and keeps every other element of C; QNT writes element J and keeps the others. -/
def Sys2Proof.Rules.PackResults : Prop :=
  (∀ w s x s', Issues (.pack w) s x s' → ∃ d : Nat → Word,
    Machine.exec (.pack w) s = .next (passed (.pack w) x (x.put .b 6 (LVec.tab d) (Rules.srAfter w x s'))) ∧
    ∀ l, l < 32 →
      let fd := Rules.fmt (w.f 13 9)
      let k : Kind := if fd = .s8 ∨ fd = .u8 ∨ fd = .s16 ∨ fd = .u16 then .int else .f32
      let a := LVec.at (x.src k w.a) l
      let b := LVec.at (x.src k w.b) l
      let c := LVec.at (x.src .int w.c) l
      packOk w = true → w.c ≠ .cwin →
        Rules.elem fd (d l) (2 * w.f 15 14) =
          fd.convert (Rules.cvMode w) (Rules.cvSaturates w) (Rules.random w x l (2 * w.f 15 14)) (Rules.packVal fd a) ∧
        Rules.elem fd (d l) (2 * w.f 15 14 + 1) =
          fd.convert (Rules.cvMode w) (Rules.cvSaturates w) (Rules.random w x l (2 * w.f 15 14 + 1)) (Rules.packVal fd b) ∧
        ∀ j, j < fd.count → j ≠ 2 * w.f 15 14 → j ≠ 2 * w.f 15 14 + 1 → Rules.elem fd (d l) j = Rules.elem fd c j) ∧
  (∀ w s x s', Issues (.qnt w) s x s' → ∃ d : Nat → Word,
    Machine.exec (.qnt w) s = .next (passed (.qnt w) x (x.put .b 6 (LVec.tab d) (Rules.srAfter w x s'))) ∧
    ∀ l, l < 32 →
      let fd := Rules.fmt (w.f 13 9)
      let a := fp32.val (LVec.at (x.src .f32 w.a) l).toNat
      let c := LVec.at (x.src .int w.c) l
      qntOk w = true → w.c ≠ .cwin →
        Rules.elem fd (d l) (w.f 16 14) =
          qntCode fd (Rules.cvMode w) (Rules.random w x l (w.f 16 14)) a ((LVec.at (x.src .int w.b) l).toNat % 256) ∧
        ∀ j, j < fd.count → j ≠ w.f 16 14 → Rules.elem fd (d l) j = Rules.elem fd c j)

/-- R106, R107: UNPACK completes with elements 2Q and 2Q + 1 widened into a pair, scaled by E8M0 for a block format; MXSCALE
completes with the block scale of the executing lanes' values, the same in every lane. -/
def Sys2Proof.Rules.UnpackResults : Prop :=
  (∀ w s x s', Issues (.unpack w) s x s' →
    let fs := Rules.fmt (w.f 13 9)
    let elemAt (l k : Nat) : Val := fs.val (Rules.elem fs (LVec.at (x.src .int w.a) l) (2 * w.f 15 14 + k))
    let scale (l : Nat) : Nat := (LVec.at (x.src .int w.b) l).toNat % 256
    let out (l k : Nat) : Word :=
      if fs = .s8 ∨ fs = .u8 ∨ fs = .s16 ∨ fs = .u16 then
        BitVec.ofInt 32 ((elemAt l k).roundInt .rne 0 (-2147483648) 4294967295)
      else
        BitVec.ofNat 32 (fp32.round (Rules.cvMode w) (Rules.cvSaturates w) 0
          (if fs.block then (if scale l = 255 then .nan else (elemAt l k).scale ((scale l : Int) - 127)) else elemAt l k))
    Machine.exec (.unpack w) s = .next (passed (.unpack w) x (x.put64 .b 6 (fun l => pair (out l 0) (out l 1)) s'))) ∧
  (∀ w s x s', Issues (.mxscale w) s x s' →
    let vs := (Mask.list x.ex).map fun l => fp32.val (LVec.at (x.src .f32 w.a) l).toNat
    Machine.exec (.mxscale w) s = .next (passed (.mxscale w) x
      (x.put .b 6 (LVec.splat (BitVec.ofNat 32 (mxscaleOf (Rules.fmt (w.f 13 9)) vs))) s')))

/-- R105 to R108: PACK, QNT, UNPACK and MXSCALE complete with the words that their tables give. (That UNPACK reads A of FP16 and BF16 as a
32-bit integer source, log 53, and that MXSCALE makes latch B valid with no executing lane too, log 54, are the model's readings.) -/
def Obligations.PackAndUnpack : Prop := Rules.PackResults ∧ Rules.UnpackResults

/-- R79: an instruction that names SR advances the state exactly once, whatever its lanes; from the state 1 the next is
0x80200003, and no state but zero is followed by zero. -/
def Sys2Proof.Rules.StochasticState : Prop :=
  lfsrNext 1 = 0x80200003#32 ∧ (∀ st : Word, lfsrNext st = 0 → st = 0) ∧
  (∀ st st' : Word, lfsrNext st = lfsrNext st' → st = st')

/-- R77, R79, R104: CVT completes in every mode; stochastic rounding steps the group's state once; a value that the format holds is not changed
by rounding. (That CVT reads A as a 32-bit integer source for FP16 and BF16 is the model's reading, log 53.) -/
def Obligations.Conversions : Prop := Rules.CvtResults ∧ Rules.StochasticState ∧ Rules.ExactResultsAreUnchanged

namespace Sys2Proof.Rules

/-- The conditions of ICMP (R100), as s32 or as u32. -/
def icond (w : ExtA) (x : Ctx) (l : Nat) : Bool :=
  let a : Int := if w.h.mod2.getLsbD 0 then u x w.a l else sg x w.a l
  let b : Int := if w.h.mod2.getLsbD 0 then u x w.b l else sg x w.b l
  if w.mod = 0 then a == b else if w.mod = 1 then a != b else if w.mod = 2 then decide (a < b)
  else if w.mod = 3 then decide (a ≤ b) else if w.mod = 4 then decide (b < a) else decide (b ≤ a)

/-- The conditions of FCMP (R100): ordered, but for `.ne` and `.nan`. -/
def fcond (w : ExtA) (x : Ctx) (l : Nat) : Bool :=
  let a := f32 false x w.a l
  let b := f32 false x w.b l
  let ordered := !a.isNan && !b.isNan
  if w.mod = 0 then ordered && a.eq b else if w.mod = 1 then !(ordered && a.eq b)
  else if w.mod = 2 then ordered && a.lt b else if w.mod = 3 then ordered && (a.lt b || a.eq b)
  else if w.mod = 4 then ordered && b.lt a else if w.mod = 5 then ordered && (b.lt a || a.eq b)
  else if w.mod = 6 then ordered else !ordered

/-- p[n](l) XOR inv (R100). -/
def pr (x : Ctx) (n : Nat) (inv : Bool) (l : Nat) : Bool := ((if n = 7 then true else (x.g.p.getD n 0).getLsbD l) != inv)

/-- COMB (R100): q is p[PC] XOR PCN. -/
def comb (w : ExtA) (x : Ctx) (t : Bool) (l : Nat) : Bool :=
  let q := pr x (w.f 14 12) (w.f 15 15 == 1) l
  if w.f 17 16 = 0 then t else if w.f 17 16 = 1 then t && q else if w.f 17 16 = 2 then t || q else t != q

/-- The bits that an instruction writes to one predicate (R100, R101, R121): the predicate's number and the bit of a lane. -/
def predResult (i : Instr) : Option (Nat × (Ctx → Nat → Bool)) :=
  match i with
  | .icmp w => some (w.f 11 9, fun x l => comb w x (icond w x l) l)
  | .fcmp w => some (w.f 11 9, fun x l => comb w x (fcond w x l) l)
  | .plogic w => some (w.f 11 9, fun x l =>
    (w.f 28 21).testBit ((if pr x (w.f 14 12) false l then 4 else 0) + (if pr x (w.f 17 15) false l then 2 else 0)
      + (if pr x (w.f 20 18) false l then 1 else 0)))
  | _ => none

/-- The executing lanes in which the predicate of a VOTE holds. -/
def holds (w : ExtA) (x : Ctx) : List Nat := (Mask.list x.ex).filter fun l => pr x (w.f 11 9) (w.f 12 12 == 1) l

/-- VOTE's predicate result in every executing lane (R121): all, any, or the same. -/
def vote (w : ExtA) (x : Ctx) : Bool :=
  let n := (holds w x).length
  let e := (Mask.list x.ex).length
  if w.mod = 0 then n == e else if w.mod = 1 then decide (0 < n) else n == e || n == 0

end Sys2Proof.Rules

/-- R100, R101: a compare and PLOGIC complete: the predicate is written after 4 cycles in the executing lanes, a write of p7 is
discarded, and no register and no latch is written. -/
def Sys2Proof.Rules.PredicateResults : Prop :=
  (∀ i pd f, Rules.predResult i = some (pd, f) → ∀ s x s', Issues i s x s' →
    Machine.exec i s = .next (passed i x
      (if pd = 7 then s'
       else x.post s' [{ at_ := x.clk + 4, slot := x.slot, loc := .p pd, lanes := x.ex, val := LVec.zero, bits := maskOf (f x) }]))) ∧
  (∀ w : ExtA, (Instr.plogic w).wf = true → w.mod = 0 ∧ w.h.mod2 = 0 ∧ w.a = .zero ∧ w.b = .zero ∧ w.c = .zero ∧ w.f 31 29 = 0)

/-- R102: PMOV.get completes with the predicates p0 to p6 and bit 7 in its destination and latch A; PMOV.put writes the predicates
that its mask names, and nothing else. -/
def Sys2Proof.Rules.PredicateMoves : Prop :=
  (∀ w s x s', Issues (.pmovGet w) s x s' →
    Machine.exec (.pmovGet w) s = .next (passed (.pmovGet w) x
      (x.put .a 4 (LVec.tab fun l => BitVec.ofInt 32 (Rules.ofBits fun i => i == 7 || (decide (i < 7) && Rules.pr x i false l))) s'))) ∧
  (∀ w s x s', Issues (.pmovPut w) s x s' →
    Machine.exec (.pmovPut w) s = .next (passed (.pmovPut w) x
      (((List.range 7).filter (w.f 15 9).testBit).foldl
        (fun s i => x.putP 4 i (maskOf fun l => (LVec.at (x.src .int w.a) l).getLsbD i) s) s'))) ∧
  (∀ w : ExtA, ((Instr.pmovGet w).wf = true → w.mod = 0 ∧ w.a = .zero ∧ w.spec = 0) ∧
    ((Instr.pmovPut w).wf = true → w.mod = 1 ∧ w.dst = .zero))

/-- R121: VOTE completes: with no executing lane it has no effect but its issue; `bal` writes the mask of the lanes that hold to its
destination and latch B, the others write one truth value to the predicate in every executing lane, after 6 cycles. -/
def Sys2Proof.Rules.VoteResults : Prop :=
  ∀ w s x s', Issues (.vote w) s x s' →
    Machine.exec (.vote w) s = .next (passed (.vote w) x
      (if x.ex = 0 then s'
       else if w.mod = 2 then x.put .b 6 (LVec.splat (maskOf (Rules.holds w x).contains)) s'
       else x.putP 6 (w.f 15 13) (if Rules.vote w x then x.ex else 0) s'))

/-- R100, R101, R102, R121: the compares and PLOGIC complete, PMOV both ways, and VOTE. -/
def Obligations.Predicates : Prop := Rules.PredicateResults ∧ Rules.PredicateMoves ∧ Rules.VoteResults

namespace Sys2Proof.Rules

/-- The 32-bit special registers of R110 that depend on the place and the team, as numbers. -/
def specialNumber (x : Ctx) (n l : Nat) : Option Nat :=
  match n with
  | 0x00 => some l
  | 0x01 => some x.g.grp
  | 0x02 => some (match x.g.role with | .copy => 0 | .matrix => 1 | .vector => 2)
  | 0x03 => some x.team.num
  | 0x04 => some (x.core % 8)
  | 0x05 => some (x.core / 8 % 7)
  | 0x06 => some (x.core / 56 % 3)
  | 0x07 => some (x.core / 168)
  | 0x0D => some x.team.tlin
  | 0x0E => some x.team.lid.toNat
  | _ => none

end Sys2Proof.Rules

/-- R109: MOV and MOVL complete: 32 bits of the source to the destination and latch A, or with MOD 1 a pair. -/
def Sys2Proof.Rules.MoveResults : Prop :=
  (∀ w s x s', Issues (.mov w) s x s' →
    Machine.exec (.mov w) s = .next (passed (.mov w) x (x.put .a 4 (x.src .int w.a) s'))) ∧
  (∀ w s x s', Issues (.movExt w) s x s' →
    Machine.exec (.movExt w) s = .next (passed (.movExt w) x
      (if w.mod = 1 then x.put64 .a 4 (fun l => x.src64 w.a l) s' else x.put .a 4 (x.src .int w.a) s'))) ∧
  (∀ w s x s', Issues (.movl w) s x s' →
    Machine.exec (.movl w) s = .next (passed (.movl w) x
      (if w.mod = 1 then x.put64 .a 4 (fun _ => w.lit) s' else x.put .a 4 (LVec.splat (w.lit.setWidth 32)) s')))

/-- R110: MOVS completes with the special register's value in its destination and latch A: the numbers of the lane, the group, the
role, the team, the core, the cluster, the sector and the die, the team's tile and coordinates, the launch id, the handle of the
node's arena or 0, the clock, the PTP time, and the word of the splits (R25). The clock runs at most 8 cycles ahead of the package's
count, and is never below what the group has read before (how far it runs ahead is a free value, log 7). -/
def Sys2Proof.Rules.SpecialRegisterReads : Prop :=
  (∀ w s x s', Issues (.movs w) s x s' → movsWide (w.f 14 9) = false → ∃ v : Nat → Word,
    Machine.exec (.movs w) s = .next (passed (.movs w) x (x.put .a 4 (LVec.tab v) s')) ∧
    (∀ l k, l < 32 → Rules.specialNumber x (w.f 14 9) l = some k → v l = BitVec.ofNat 32 k) ∧
    (∀ l k, l < 32 → k < 4 → w.f 14 9 = 9 + k → v l = BitVec.ofNat 32 (x.team.tc.getD k 0)) ∧
    (∀ l, l < 32 → w.f 14 9 = 8 → v l = BitVec.ofNat 32 (if s.podcfg.getLsbD 9 then s.podcfg.toNat % 512 else 0))) ∧
  (∀ w s x s', Issues (.movs w) s x s' → movsWide (w.f 14 9) = true → ∃ (v : Nat → DWord) (s2 : State),
    Machine.exec (.movs w) s = .next (passed (.movs w) x (x.put64 .a 4 v s2)) ∧ (w.f 14 9 ≠ 0x10 → s2 = s') ∧
    (w.f 14 9 = 0x0F → ∀ nd l, s'.node? x.team.node = some nd →
      (nd.arena = none → v l = 0) ∧
      ∀ i, nd.arena = some i → v l = BitVec.ofNat 64 (0x00A0000000000000 + i * 2 ^ 44
        + ((s'.part x.team.part).arena.getD i (0, 0)).1.toNat / 2 ^ 48 % 256 * 2 ^ 36)) ∧
    (w.f 14 9 = 0x10 → ∃ c d, d ≤ 8 ∧ c = max x.g.clkSeen (s.clk + d) ∧ (∀ l, v l = BitVec.ofNat 64 c) ∧
      s2 = s'.modGroup x.ref fun g => { g with clkSeen := c }) ∧
    (w.f 14 9 = 0x11 → ∀ l, v l = BitVec.ofNat 64 s.ptp) ∧
    (w.f 14 9 = 0x12 → ∀ l, (v l).setWidth 32 = x.act ∧
      (v l).toNat / 2 ^ 32 % 8 = (([0, 1, 2, 3].filter fun i => (x.g.split i).st != .free).length) ∧
      (x.g.cur < 4 → (v l).toNat / 2 ^ 36 % 4 = x.g.cur ∧
        ((x.g.split x.g.cur).stack.length < 16 → (v l).toNat / 2 ^ 38 % 16 = (x.g.split x.g.cur).stack.length ∧
          ∀ i, i < 4 → (v l).getLsbD (44 + i) = ((x.g.split i).st != .free)))))

/-- R109, R110: MOV, MOVL and MOVS complete; what MOVS reads for the special registers named. (How far %clk runs ahead is a free value, log 7.) -/
def Obligations.Moves : Prop := Rules.MoveResults ∧ Rules.SpecialRegisterReads

namespace Sys2Proof.Rules

/-- The lane that SHFL reads, and ok (R120). -/
def shfl (w : ExtA) (x : Ctx) (l : Nat) : Nat × Bool :=
  let n := 2 ^ w.f 11 9
  let b := (LVec.at (x.src .int w.b) l).toNat
  let o := l % n
  let base := l - o
  let r : Nat × Bool :=
    if w.mod = 0 then (base + b % n, true)
    else if w.mod = 1 then (l - b, decide (b ≤ o))
    else if w.mod = 2 then ((l + b) % 2 ^ 32, decide ((o + b) % 2 ^ 32 < n))
    else (base + (o ^^^ (b % n)), true)
  (r.1, r.2 && decide (r.1 < 32) && x.ex.getLsbD r.1)

/-- The executing lanes whose source equals that of lane l (R122). -/
def same (w : ExtA) (x : Ctx) (l : Nat) : Mask :=
  let a (l : Nat) : Nat := if 2 ≤ w.mod then (x.src64 w.a l).toNat else (LVec.at (x.src .int w.a) l).toNat
  maskOf fun j => x.ex.getLsbD j && a j == a l

/-- The values of the executing lanes. -/
def vals (w : ExtA) (x : Ctx) : List Word := (Mask.list x.ex).map fun l => LVec.at (x.src .int w.a) l

/-- PRMT's byte k (R125). -/
def prmt (a b c k : Nat) : Nat :=
  let sel := c / 256 ^ k % 256
  let v := (if sel % 8 < 4 then a / 256 ^ (sel % 8) else b / 256 ^ (sel % 8 - 4)) % 256
  let v := if sel / 8 % 2 = 1 then v % 16 * 16 + v / 16 else v
  let v := if sel / 16 % 4 = 0 then v else if sel / 16 % 4 = 1 then 0 else if sel / 16 % 4 = 2 then 255 else if 128 ≤ v then 255 else 0
  let old := a / 256 ^ k % 256
  if sel / 64 = 0 then v else if sel / 64 = 1 then old / 16 * 16 + v % 16
  else if sel / 64 = 2 then v % 16 * 16 + old % 16 else v % 16 * 17

end Sys2Proof.Rules

/-- R120: SHFL completes: each executing lane reads the lane that its mode and B name, if that lane executes, else itself; with PEN the
predicate tells which; the result goes to the destination and latch B after 6 cycles. -/
def Sys2Proof.Rules.ShuffleResults : Prop :=
  ∀ w s x s', Issues (.shfl w) s x s' →
    let t := x.put .b 6 (LVec.tab fun l =>
      LVec.at (x.src .int w.a) (if (Rules.shfl w x l).2 then (Rules.shfl w x l).1 else l)) s'
    Machine.exec (.shfl w) s = .next (passed (.shfl w) x
      (if w.f 16 16 = 1 then x.putP 6 (w.f 15 13) (maskOf fun l => (Rules.shfl w x l).2) t else t))

/-- R122: MATCH completes: `any` gives each executing lane the mask of the executing lanes with its value; `all` gives the mask of all
of them when every value is the same, else 0, and with PEN the predicate. -/
def Sys2Proof.Rules.MatchResults : Prop :=
  ∀ w s x s', Issues (.matchLanes w) s x s' → w.mod ≤ 3 →
    let eq := decide (∀ l ∈ Mask.list x.ex, Rules.same w x l = x.ex)
    let d (l : Nat) : Word := if w.mod % 2 = 1 then (if eq then x.ex else 0) else Rules.same w x l
    let t := x.put .b 6 (LVec.tab d) s'
    Machine.exec (.matchLanes w) s = .next (passed (.matchLanes w) x
      (if w.f 16 16 = 1 then x.putP 6 (w.f 15 13) (if eq then x.ex else 0) t else t))

/-- R123: REDG completes with the reduction of the executing lanes' values in every lane: the sum modulo 2^32, the smallest or the
largest as s32 or u32, AND, OR or XOR, or the FP32 sum rounded once. -/
def Sys2Proof.Rules.ReduceResults : Prop :=
  ∀ w s x s', Issues (.redg w) s x s' → w.mod ≤ 8 → ∃ d : Word,
    Machine.exec (.redg w) s = .next (passed (.redg w) x (x.put .b 6 (LVec.splat d) s')) ∧
    (x.ex ≠ 0 →
      (w.mod = 0 → d = BitVec.ofNat 32 ((Rules.vals w x).map BitVec.toNat).sum) ∧
      (w.mod = 1 → d ∈ Rules.vals w x ∧ ∀ v ∈ Rules.vals w x, d.toInt ≤ v.toInt) ∧
      (w.mod = 2 → d ∈ Rules.vals w x ∧ ∀ v ∈ Rules.vals w x, v.toInt ≤ d.toInt) ∧
      (w.mod = 3 → d ∈ Rules.vals w x ∧ ∀ v ∈ Rules.vals w x, d.toNat ≤ v.toNat) ∧
      (w.mod = 4 → d ∈ Rules.vals w x ∧ ∀ v ∈ Rules.vals w x, v.toNat ≤ d.toNat) ∧
      (w.mod = 5 → ∀ i, i < 32 → d.getLsbD i = (Rules.vals w x).all fun v => v.getLsbD i) ∧
      (w.mod = 6 → ∀ i, i < 32 → d.getLsbD i = (Rules.vals w x).any fun v => v.getLsbD i) ∧
      (w.mod = 7 → ∀ i, i < 32 → d.getLsbD i = ((Rules.vals w x).filter fun v => v.getLsbD i).length.testBit 0) ∧
      (w.mod = 8 → d = BitVec.ofNat 32 (redgSum fp32 ((Mask.list x.ex).map fun l => fp32.val (LVec.at (x.src .f32 w.a) l).toNat))))

/-- R124, R125: ELECT completes: in the lowest executing lane the predicate becomes true, in the others false, and the destination
receives that lane's number; with no executing lane nothing is written. PRMT completes with the bytes that its selectors build. -/
def Sys2Proof.Rules.ElectPermuteResults : Prop :=
  (∀ w s x s', Issues (.elect w) s x s' →
    Machine.exec (.elect w) s = .next (passed (.elect w) x
      (if x.ex = 0 then s'
       else x.putP 6 (w.f 15 13) (maskOf fun l => some l == (Mask.list x.ex).head?)
         (x.put .b 6 (LVec.splat (BitVec.ofNat 32 ((Mask.list x.ex).headD 0))) s')))) ∧
  (∀ w : ExtA, (Instr.elect w).wf = true → w.mod = 0 ∧ w.a = .zero ∧ w.b = .zero ∧ w.f 31 16 = 0 ∧ w.f 12 9 = 0) ∧
  (∀ w s x s', Issues (.prmt w) s x s' →
    let v (o : Operand) (l : Nat) : Nat := (LVec.at (x.src .int o) l).toNat
    Machine.exec (.prmt w) s = .next (passed (.prmt w) x
      (x.put .b 6 (LVec.tab fun l => BitVec.ofNat 32 (((List.range 4).map fun k =>
        Rules.prmt (v w.a l) (v w.b l) (v w.c l) k * 256 ^ k).sum)) s')))

/-- R120, R122 to R125: SHFL, MATCH, REDG, ELECT and PRMT complete. -/
def Obligations.CrossLane : Prop := Rules.ShuffleResults ∧ Rules.MatchResults ∧ Rules.ReduceResults ∧ Rules.ElectPermuteResults

/-! ### The machine: reset, decoding, the step -/

/-- What the spec says of the package right after reset (R110, R328, R214): the clock at 0, every measurement register zero, and in
every slice's CLQUOTA a quota of 4 ways for replicas and of 16 for each other class. -/
def Sys2Proof.Rules.ResetState : Prop :=
  State.reset.clk = 0 ∧
  (∀ d r, State.reset.mr.getD (8 * d + r) 0 = 0) ∧
  (∀ i, let q := (State.reset.slice i).clquota.toNat
    q % 32 = 16 ∧ q / 2 ^ 5 % 32 = 16 ∧ q / 2 ^ 10 % 32 = 16 ∧ q / 2 ^ 15 % 32 = 16 ∧ q / 2 ^ 20 % 32 = 4 ∧ q / 2 ^ 25 = 0) ∧
  (∀ p, (State.reset.part p).used = [] ∧ (State.reset.part p).freed = [])

/-- A step runs the decoded instruction (R47, R62; the step itself is the model's, log 2): with a group picked whose run has room and
whose line is at hand, the instruction that the words at its PC decode to executes from the state of the fetch; with no group picked
the next event of the agenda occurs; with neither, the cycle ends and the next begins: with nothing that waits for its beginning, the
clock has advanced by one and nothing but times and the agenda has changed. -/
def Obligations.StepRunsDecoded : Prop :=
  (∀ (s s1 : State) (ref : GRef) (t : Team) (g : Group) (c : Nat) (ws : List Word) (i : Instr) (n : Nat),
    s.fatal = false → s.cur = some ref → s.team? ref.team = some t → s.group? ref = some g → t.core? = some c → g.runLen < 256 →
    s.codeLine { core := some c, cluster := clusterOf c, part := t.part, lid := t.lid } (g.split g.cur).pc = (s1, .words ws) →
    decode (ws.drop ((g.split g.cur).pc.toNat % 128 / 4)) = .instr i n →
    Machine.step s = Machine.exec i s1) ∧
  (∀ (s : State) (e : Instr) (r : List Instr), s.fatal = false → s.cur = none → s.agenda = e :: r →
    Machine.step s = Machine.exec e { s with agenda := r }) ∧
  (∀ (s : State), s.fatal = false → s.cur = none → s.agenda = [] →
    ∃ t, Machine.step s = .next t ∧
      (s.wakes = [] → s.inbox = [] → (∀ e ∈ s.slices, e.2.held = []) → (∀ p ∈ s.ports, p.2.buf = []) →
        t.clk = s.clk + 1 ∧ t.mem = s.mem ∧ t.teams = s.teams ∧ t.cores = s.cores ∧ t.slices = s.slices ∧ t.parts = s.parts ∧
        t.nodes = s.nodes ∧ t.outst = s.outst))

/-- R37, R62, R282: what an instruction fetch raises. A 257th instruction of a run raises 0x006 before any other check; a failing check of
R62 raises its own cause, with the operand position in EINFO; both have issued and count, with the stall count of the first word (that
it holds back the handler is read from R41, log 49). A translation cause 0x100 suspends the team, and any other kills the node. The
quarter has issued in that cycle. Every instruction that issues counts, whatever lanes execute. -/
def Obligations.FetchCauses : Prop :=
  (∀ (i : Instr) (s s' : State) (x : Ctx) (g : Group), Issues i s x s' → s'.group? x.ref = some g → g.cur = x.g.cur →
    runEnds i = false → x.f.h.y = false → ∃ g', (passed i x s').group? x.ref = some g' ∧ g'.runLen = g.runLen + 1) ∧
  (∀ (s : State) (ref : GRef) (t : Team) (g : Group) (c : Nat),
    s.fatal = false → s.cur = some ref → s.team? ref.team = some t → s.group? ref = some g → t.core? = some c →
    let pc := (g.split g.cur).pc
    let from_ : From := { core := some c, cluster := clusterOf c, part := t.part, lid := t.lid }
    let idle (s : State) : State := { s with cur := none }
    let counted (ws : List Word) (s : State) : State :=
      (idle s).modGroup ref fun gr => gr.count s.clk ((ws.headD 0).toNat / 2 ^ 10 % 8)
    (∀ s1 line, s.codeLine from_ pc = (s1, .words line) →
      let ws := line.drop (pc.toNat % 128 / 4)
      (256 ≤ g.runLen → Machine.step s = .next (((counted ws s1).raise ref 0x006 0).issuedAt c g.quarter)) ∧
      (g.runLen < 256 → ∀ code pos, decode ws = .cause code pos →
        Machine.step s = .next (((counted ws s1).raise ref code (BitVec.ofNat 64 pos)).issuedAt c g.quarter))) ∧
    (∀ s1, s.codeLine from_ pc = (s1, .err 0x100) →
      Machine.step s = .next (((idle s1).suspend ref { cause := 0x100, kind := kindFetch, va := pc }).issuedAt c g.quarter)) ∧
    (∀ s1 code, s.codeLine from_ pc = (s1, .err code) → code ≠ 0x100 →
      Machine.step s
        = .next ((((idle s1).modGroup ref fun gr => { gr.endRun with cur := gr.cur }).killNode t.node code).issuedAt c g.quarter)))

/-- The encodings that the spec works through: FMUL oc1, la, v5 with st=4; the guarded FFMA v6, v4, v8, v12! with st=4;
ST.b32 [s4:s5+0x40], v7; IADD v1, v2 with a literal; NOP. -/
def Obligations.DecodeSamples : Prop :=
  decode [0x170A4D04] = .instr (.fmul { dst := .oc 1, a := .la, b := .v 5, y := false, stall := 3 }) 1 ∧
  decode [0x003C8D0A, 0x20200806, 0x0000000C] = .instr (.ffma
    { form := .ext, dst := .v 6, a := .v 4, b := .v 8, c := .v 12, spec := 0, lit := 0
      h := { y := false, stall := 3, guard := 2, gneg := false, sbset := 15, wait := 0, mod := 0, mod2 := 0
             deadA := false, deadB := false, deadC := true } }) 3 ∧
  decode [0x003DC2C6, 0x001E1D54, 0x00004002] = .instr (.st
    { dst := .zero, a := .s 4, b := .v 7, offset := 0x40, mmod := 2, h := .base false 0 }) 3 ∧
  decode [0x00204001, 0x12345678, 0] = .instr (.iaddExt
    { form := .baseLit, dst := .v 1, a := .v 2, b := .lit, c := .zero, spec := 0, lit := 0x12345678, h := .base false 0 }) 3 ∧
  decode [0xEBAE8254] = .instr (.nop { dst := .zero, a := .zero, b := .zero, y := false, stall := 0 }) 1

/-- R46 to R62: a well-formed instruction decodes from its own words, with every operand and field, and with the length of its form. -/
def Obligations.EncodeDecode : Prop :=
  ∀ i : Instr, i.wf = true → ∃ ws, encode i = some ws ∧ ∀ rest, decode (ws ++ rest) = .instr i ws.length

/-- R46 to R62: what the decoder answers is well-formed, and its words are the ones decoded: no bit of an accepted encoding is dropped,
so no two encodings decode to one instruction. -/
def Obligations.DecodeEncode : Prop :=
  ∀ (ws : List Word) (i : Instr) (n : Nat), decode ws = .instr i n → i.wf = true ∧ encode i = some (ws.take n) ∧ n ≤ ws.length

/-- Every step keeps memory in its canonical form: addresses rise, and no byte is listed that reads as an unlisted one (the model's own
form of memory, log 1). -/
def Obligations.MemoryStaysCanonical : Prop := ∀ s t, memoryOk s → Machine.step s = .next t → memoryOk t

/-- Memory is in canonical form after reset, with no byte listed. -/
def Sys2Proof.Rules.ResetMemoryCanonical : Prop := memoryOk State.reset ∧ ∀ a, State.reset.mem.read a = unlisted

/-- R110, R214, R328: the clock, the measurement registers and CLQUOTA right after reset, and memory with no byte listed (the last is the
model's own form, log 1). -/
def Obligations.Reset : Prop := Rules.ResetState ∧ Rules.ResetMemoryCanonical

/-! ### Runs, results and checks -/

/-- A write of a uniform register by another split that issued later than a cycle has taken effect (R13). -/
def Sys2Proof.Rules.laterWritten (g : Group) (slot iss n : Nat) : Bool :=
  (List.range 4).any fun i => i != slot && decide (iss < g.swr.getD (4 * n + i) 0)

/-- R33, R34, R41, R42: a result becomes visible at its cycle and not before. The landing of one result writes the executing lanes of its
location, or for a uniform destination the value of the lowest of them; other lanes keep their content, and hold zero in a latch or entry
that was invalid; the latch or entry is valid afterwards. Of two results of a split due, the one with the later cycle is left, and of two
that become visible in one cycle the one issued later (log 47: R42 is silent). A write of a uniform register leaves nothing when a later-issued write
of another split has taken effect there; of the writes of two splits, the one issued later is left, in whichever order they land (R13). -/
def Obligations.ResultsLand : Prop :=
  (∀ (g : Group) (w : PendWrite),
    (∀ n l, w.loc = .v n → l < 32 →
      LVec.at ((g.land1 w).vreg n) l = if w.lanes.getLsbD l then LVec.at w.val l else LVec.at (g.vreg n) l) ∧
    (∀ n, w.loc = .s n → (g.land1 w).sreg n
      = if Rules.laterWritten g w.slot w.iss n then g.sreg n else LVec.at w.val (Mask.lowest w.lanes)) ∧
    (∀ n, w.loc = .p n → n < 7 → ∀ l, l < 32 →
      ((g.land1 w).preg n).getLsbD l = if w.lanes.getLsbD l then w.bits.getLsbD l else (g.preg n).getLsbD l) ∧
    (w.loc = .la → ∃ v, (g.land1 w).la = some v ∧
      ∀ l, l < 32 → LVec.at v l = if w.lanes.getLsbD l then LVec.at w.val l else LVec.at (g.la.getD LVec.zero) l) ∧
    (w.loc = .lb → ∃ v, (g.land1 w).lb = some v ∧
      ∀ l, l < 32 → LVec.at v l = if w.lanes.getLsbD l then LVec.at w.val l else LVec.at (g.lb.getD LVec.zero) l) ∧
    (∀ n, w.loc = .oc n → ∃ v, (g.land1 w).oc.get? n = some v ∧
      ∀ l, l < 32 → LVec.at v l = if w.lanes.getLsbD l then LVec.at w.val l else LVec.at (g.oc.getD n LVec.zero) l)) ∧
  (∀ (g : Group) (clk : Nat), (∀ w ∈ g.pend, clk < w.at_) → g.landDue clk = g) ∧
  (∀ (g : Group) (clk : Nat), (g.landDue clk).pend = g.pend.filter fun w => decide (clk < w.at_)) ∧
  (∀ (g : Group) (w1 w2 : PendWrite) (n : Nat), w1.loc = .s n → w2.loc = .s n → w1.slot < 4 → w2.slot < 4 → w1.slot ≠ w2.slot →
    w1.iss < w2.iss → (∀ i, i < 4 → i ≠ w2.slot → g.swr.getD (4 * n + i) 0 ≤ w2.iss) →
    ((g.land1 w1).land1 w2).sreg n = LVec.at w2.val (Mask.lowest w2.lanes) ∧
    ((g.land1 w2).land1 w1).sreg n = LVec.at w2.val (Mask.lowest w2.lanes) ∧
    (∀ clk, g.pend = [w1, w2] → w1.at_ ≤ clk → w2.at_ ≤ clk → (g.landDue clk).sreg n = LVec.at w2.val (Mask.lowest w2.lanes))) ∧
  (∀ (g : Group) (clk : Nat) (w1 w2 : PendWrite) (n : Nat), g.pend = [w1, w2] → w1.loc = .v n → w2.loc = .v n → w1.lanes = w2.lanes →
    w1.at_ ≤ clk → w2.at_ ≤ clk → ∀ l, l < 32 → w1.lanes.getLsbD l = true →
    LVec.at ((g.landDue clk).vreg n) l = LVec.at (if w2.at_ < w1.at_ then w1.val else w2.val) l)

/-- R35, R36, R37, R41, R141, R142: what the issue of an instruction without a jump does to its group: the PC moves past its words, the
run grows by one, the group's next issue comes no earlier than its stall count later, the progress count has risen and stops at 0xFFFF,
and the quarter issues again in the next cycle. At a run end, and only there, the latches and the operand cache become invalid, pending
writes to them are discarded while those to registers stay, the run starts anew, and the next RUNNABLE split is the current one (R26). -/
def Obligations.IssueAndRunEnds : Prop :=
  ∀ (i : Instr) (s s' t : State) (x : Ctx) (g : Group), Issues i s x s' → t.group? x.ref = some g → g.cur = x.g.cur →
    (x.f.c ≠ .cwin → ∀ g0, s'.group? x.ref = some g0 → g0.progress = min (x.g.progress + 1) 0xFFFF) ∧
    ∃ g', (passed i x t).group? x.ref = some g' ∧
      (g'.split x.g.cur).pc = x.pc + BitVec.ofNat 56 (formBytes x.f.form) ∧
      g'.nextIssue = s.clk + x.f.h.stall.toNat + 1 ∧ g'.progress = g.progress ∧
      g'.v = g.v ∧ g'.s = g.s ∧ g'.p = g.p ∧
      ((passed i x t).core x.core).issued.getD x.g.quarter 0 = t.clk + 1 ∧
      (runEnds i = false → x.f.h.y = false →
        g'.runLen = g.runLen + 1 ∧ g'.la = g.la ∧ g'.lb = g.lb ∧ g'.oc = g.oc ∧ g'.pend = g.pend ∧ g'.cur = g.cur) ∧
      ((runEnds i = true ∨ x.f.h.y = true) →
        g'.runLen = 0 ∧ g'.la = none ∧ g'.lb = none ∧ g'.oc = [] ∧ (g'.pend = g.pend.filter fun w => !w.loc.isUpper) ∧
        ∀ k, 1 ≤ k → k ≤ 4 → (g.split ((g.cur + k) % 4)).st = .runnable →
          (∀ j, 1 ≤ j → j < k → (g.split ((g.cur + j) % 4)).st ≠ .runnable) → g'.cur = (g.cur + k) % 4)

/-- R38, R39: what a dead bit does, once the sources are read: each register of a dead main-file source reads as zero in the active lanes of
the split, and as before in the others; a dead latch or operand-cache source is invalid. -/
def Sys2Proof.Rules.DeadSources : Prop :=
  ∀ (g : Group) (act : Mask) (sh : Shape) (f : Fields),
    (∀ n l, l < 32 → LVec.at ((g.killDead act sh f).vreg n) l
      = if Loc.v n ∈ deadOf sh f ∧ act.getLsbD l then 0 else LVec.at (g.vreg n) l) ∧
    (g.killDead act sh f).la = (if Loc.la ∈ deadOf sh f then none else g.la) ∧
    (g.killDead act sh f).lb = (if Loc.lb ∈ deadOf sh f then none else g.lb) ∧
    (∀ n, (g.killDead act sh f).oc.get? n = if Loc.oc n ∈ deadOf sh f then none else g.oc.get? n) ∧
    (g.killDead act sh f).s = g.s ∧ (g.killDead act sh f).p = g.p ∧ (g.killDead act sh f).pend = g.pend

namespace Sys2Proof.Rules

/-- What the checks of the registers raise (R14, R34, R38, R43, R62), when they are made at the state `s2`: a register at or beyond the
allotment raises 0x00D; else, with the checking scoreboard on, a source with a pending write or a destination that would be written
too early raises 0x005; else an invalid latch or entry as a source raises 0x004. The instruction has no other effect: its dead values
stay. -/
def regChecks (i : Instr) (nf : Info) (body : Ctx → State → Res) (s s0 s2 : State) (x : Ctx) : Prop :=
  (∀ p, unallotted x.g.n x.sh x.f = some p → runGroup i nf body s = .next (raised x 0x00D (BitVec.ofNat 64 p) s0)) ∧
  (unallotted x.g.n x.sh x.f = none → s2.scoreOn x.team = true → s2.checkScore x nf = true →
    runGroup i nf body s = .next (raised x 0x005 0 s0)) ∧
  (∀ p, unallotted x.g.n x.sh x.f = none → (s2.scoreOn x.team = false ∨ s2.checkScore x nf = false) → staleAt x.g x.sh x.f = some p →
    runGroup i nf body s = .next (raised x 0x004 (BitVec.ofNat 64 p) s0))

end Sys2Proof.Rules

/-- R14, R34, R38, R43, R58, R62, R282, R355: the checks at issue. Without a constant-window operand the registers are checked. With one, an
offset at or beyond the window's length raises 0x003 first; words that are not in the constant cache delay the issue; with the words
there, or with a cause met on the way to them, the registers are checked, and then such a cause is delivered as that of a read, 0x141 by
a kill of the node. -/
def Sys2Proof.Rules.IssueChecks : Prop :=
  ∀ (i : Instr) (nf : Info) (body : Ctx → State → Res) (s s0 : State) (x : Ctx), issueOf i s = some (x, s0) →
    let s1 := deadGone x s0
    let spec := (specOf i).1
    let k := constRegs x.sh
    let room := (s1.window x.team (windowOf spec).1).2
    (x.f.c ≠ .cwin → Rules.regChecks i nf body s s0 s1 x) ∧
    (x.f.c = .cwin → room < (windowOf spec).2 + k → runGroup i nf body s = .next (raised x 0x003 3 s0)) ∧
    (x.f.c = .cwin → (windowOf spec).2 + k ≤ room →
      (∀ s2 v, x.constOp s1 spec k = (s2, .words v) → Rules.regChecks i nf body s s0 s2 x) ∧
      (∀ s2 va, x.constOp s1 spec k = (s2, .miss va) →
        runGroup i nf body s = .next ((x.undo (s2.want x.ref (.const va))).chooseAgain x.ref x.core x.g.quarter)) ∧
      (∀ s2 code va, x.constOp s1 spec k = (s2, .err code va) → Rules.regChecks i nf body s s0 s2 x ∧
        (unallotted x.g.n x.sh x.f = none → (s2.scoreOn x.team = false ∨ s2.checkScore x nf = false) → staleAt x.g x.sh x.f = none →
          (code = 0x141 → runGroup i nf body s = .next
            (((s2.modGroup x.ref fun gr => { gr.endRun with cur := gr.cur }).killNode x.team.node code).issuedAt x.core x.g.quarter)) ∧
          (code = 0x100 ∨ code = 0x101 ∨ code = 0x102 → runGroup i nf body s = .next
            (((x.undo s2).suspend x.ref { cause := code, kind := kindRead, va }).issuedAt x.core x.g.quarter)) ∧
          (code ∉ [0x100, 0x101, 0x102, 0x141] → runGroup i nf body s = .next (raised x code 0 s0)))))

/-- R14, R34, R38, R39, R43, R58, R62, R282, R355: the checks at issue, with and without a constant-window operand, and dead values. -/
def Obligations.IssueRules : Prop := Rules.IssueChecks ∧ Rules.DeadSources

/-! ### Control flow, traps and system registers -/

namespace Sys2Proof.Rules

/-- The address of an instruction plus 4 times a signed count of words. -/
def relative (x : Ctx) (n : BitVec 56) : BitVec 56 := x.pc + 4 * n

/-- The fall-through address of BRA, BRX and CALL (R111 to R113): 12 or 20 bytes on. -/
def through (x : Ctx) (w : ExtA) : BitVec 56 := x.pc + (if w.form = .extLit then 20 else 12)

/-- The join address of BRA (R111). -/
def joinOf (x : Ctx) (w : ExtA) : BitVec 56 :=
  match w.b with
  | .imm k => relative x (k.signExtend 56)
  | .lit => relative x ((w.lit.setWidth 32).signExtend 56)
  | _ => through x w

/-- The paths of a dividing BRA in ascending order of next PC. -/
def braPaths (x : Ctx) (w : ExtA) : List (BitVec 56 × Mask) :=
  let t := relative x (w.spec.signExtend 56)
  let f := through x w
  let rest := x.act &&& ~~~x.ex
  if t.toNat < f.toNat then [(t, x.ex), (f, rest)] else [(f, rest), (t, x.ex)]

/-- The next PC of an active lane under BRX (R112). -/
def brxNext (x : Ctx) (w : ExtA) (l : Nat) : BitVec 56 :=
  if x.ex.getLsbD l then (x.src64 w.a l).setWidth 56 else through x w

/-- Addresses that are checked one after another, all of them instruction starts; the state after the checks. -/
def checked (f : From) : List (BitVec 56) → State → Option State
  | [], s => some s
  | va :: r, s =>
    match s.checkTarget f va with
    | (s, .ok) => checked f r s
    | _ => none

/-- A run end has passed the turn to the next RUNNABLE split in rotating order (R26). -/
def rotated (g g' : Group) : Prop :=
  ∀ k, 1 ≤ k → k ≤ 4 → (g'.split ((g.cur + k) % 4)).st = .runnable →
    (∀ j, 1 ≤ j → j < k → (g'.split ((g.cur + j) % 4)).st ≠ .runnable) → g'.cur = (g.cur + k) % 4

/-- A result of the executing lanes that no slot announces has not landed. -/
def owed (x : Ctx) (s : State) : Prop := ∃ o ∈ s.outst, o.2.g = x.ref ∧ o.2.sb = none ∧ o.2.regs ≠ 0 ∧ o.2.lanes &&& x.ex ≠ 0

/-- The target of CALL (R113). -/
def callTarget (x : Ctx) (w : ExtA) : BitVec 56 :=
  if w.a = .zero then relative x (w.spec.signExtend 56) else (x.src64 w.a 0).setWidth 56

end Sys2Proof.Rules

/-- R18, R19, R118: a division over k ≥ 2 paths. With no handler running, a free join-table entry and k − 1 free slots, the first path
stays in the slot, the others take the lowest free slots in ascending order, RUNNABLE and with empty stacks, and the lowest free entry
holds J, the mask, A = 0 and the split's JREC as the parent. Otherwise the paths go on the split's own stack, the RECONVERGE entry below
the PATH entries, unless DEPTH would pass 8; then there is no division. -/
def Sys2Proof.Rules.Divisions : Prop :=
  ∀ (g : Group) (slot : Nat) (join : BitVec 56) (m : Mask) (p : BitVec 56 × Mask) (rest : List (BitVec 56 × Mask)),
    slot < 4 → (g.split slot).st = .runnable → rest ≠ [] →
    let free := [0, 1, 2, 3].filter fun i => (g.split i).st == .free
    let entries := [0, 1, 2].filter fun e => (g.joins.get? e).isNone
    (∀ e es, entries = e :: es → g.trap.handling = none → rest.length ≤ free.length →
      ∃ g', g.divide slot join m (p :: rest) = some g' ∧
        g'.split slot = { g.split slot with pc := p.1, mask := p.2, jrec := BitVec.ofNat 2 e } ∧
        (∀ (k i : Nat) (q : BitVec 56 × Mask), free[k]? = some i → rest[k]? = some q →
          g'.split i = { st := .runnable, pc := q.1, mask := q.2, jrec := BitVec.ofNat 2 e }) ∧
        (∀ i, i ≠ slot → i ∉ free.take rest.length → g'.split i = g.split i) ∧
        g'.joins.get? e = some { j := join, m, a := 0, parent := (g.split slot).jrec } ∧
        (∀ i, i ≠ e → g'.joins.get? i = g.joins.get? i) ∧
        g'.v = g.v ∧ g'.s = g.s ∧ g'.p = g.p ∧ g'.live = g.live ∧ g'.trap = g.trap) ∧
    ((entries = [] ∨ g.trap.handling ≠ none ∨ free.length < rest.length) →
      ((g.split slot).stack.length + rest.length + 1 ≤ 8 →
        g.divide slot join m (p :: rest) = some (g.modSplit slot fun sp =>
          { sp with pc := p.1, mask := p.2
                    stack := rest.map (fun q : BitVec 56 × Mask => StackEnt.path q.1 q.2 join) ++ .reconverge join m :: sp.stack })) ∧
      (8 < (g.split slot).stack.length + rest.length + 1 → g.divide slot join m (p :: rest) = none))

/-- R111: BRA completes. With no lane taking it the PC becomes the fall-through address; with every active lane taking it, or a target
that is the fall-through address, the target, which is checked; else the split divides, with the join address checked too. A target or join
address that is no instruction start raises 0x009, and a division that would pass the stack 0x00C, from the state before the instruction. -/
def Sys2Proof.Rules.BranchResults : Prop :=
  ∀ w s s0 x s', IssuesFrom (.bra w) s s0 x s' → w.form ≠ .baseLit →
    let t := Rules.relative x (w.spec.signExtend 56)
    let f := Rules.through x w
    let rest := x.act &&& ~~~x.ex
    let join := Rules.joinOf x w
    let divides := rest ≠ 0 ∧ t ≠ f
    (x.ex = 0 → Machine.exec (.bra w) s = .next (jumped x false (x.goto f s'))) ∧
    (x.ex ≠ 0 →
      (∀ s1, s'.checkTarget x.from t = (s1, .bad) → Machine.exec (.bra w) s = .next (raised x 0x009 (t.setWidth 64) s0)) ∧
      (∀ s1, s'.checkTarget x.from t = (s1, .ok) →
        (¬ divides → Machine.exec (.bra w) s = .next (jumped x false (x.goto t s1))) ∧
        (divides →
          (∀ s2, s1.checkTarget x.from join = (s2, .bad) →
            Machine.exec (.bra w) s = .next (raised x 0x009 (join.setWidth 64) s0)) ∧
          (∀ s2 g, s1.checkTarget x.from join = (s2, .ok) → s2.group? x.ref = some g →
            (g.divide x.slot join x.act (Rules.braPaths x w) = none → Machine.exec (.bra w) s = .next (raised x 0x00C 0 s0)) ∧
            (∀ g', g.divide x.slot join x.act (Rules.braPaths x w) = some g' →
              Machine.exec (.bra w) s = .next (jumped x true (s2.modGroup x.ref fun _ => g')))))))

/-- R112: BRX completes. Every address that a lane takes is checked, in ascending lane order, and the first that is no instruction start
raises 0x009; with several next PCs the join address is checked after them. With one next PC for all the active lanes the PC
becomes it; with several, the split divides over them in ascending order, each path with the lanes that go to it, at the join address that
JOFF names. BRX ends the run always. -/
def Sys2Proof.Rules.IndexedBranchResults : Prop :=
  ∀ w s s0 x s', IssuesFrom (.brx w) s s0 x s' → w.form = .ext → x.act ≠ 0 →
    let join := if w.spec = 0 then Rules.through x w else Rules.relative x (w.spec.signExtend 56)
    let lanes := Mask.list x.act
    (∀ pre va post s1 s2, ((Mask.list x.ex).map (Rules.brxNext x w)).eraseDups = pre ++ va :: post →
      Rules.checked x.from pre s' = some s1 → s1.checkTarget x.from va = (s2, .bad) →
      Machine.exec (.brx w) s = .next (raised x 0x009 (va.setWidth 64) s0)) ∧
    (∀ s1, Rules.checked x.from ((Mask.list x.ex).map (Rules.brxNext x w)).eraseDups s' = some s1 →
      (∀ pc, (∀ l ∈ lanes, Rules.brxNext x w l = pc) → Machine.exec (.brx w) s = .next (jumped x true (x.goto pc s1))) ∧
      ((∃ l ∈ lanes, ∃ m ∈ lanes, Rules.brxNext x w l ≠ Rules.brxNext x w m) →
        (∀ s2, s1.checkTarget x.from join = (s2, .bad) →
          Machine.exec (.brx w) s = .next (raised x 0x009 (join.setWidth 64) s0)) ∧
        ∃ paths : List (BitVec 56 × Mask),
          paths.Pairwise (fun p q : BitVec 56 × Mask => p.1.toNat < q.1.toNat) ∧
          (∀ pc : BitVec 56, pc ∈ paths.map Prod.fst ↔ ∃ l ∈ lanes, Rules.brxNext x w l = pc) ∧
          (∀ p ∈ paths, ∀ l, l < 32 → (p.2.getLsbD l = true ↔ l ∈ lanes ∧ Rules.brxNext x w l = p.1)) ∧
          ∀ s2 g, s1.checkTarget x.from join = (s2, .ok) → s2.group? x.ref = some g →
            (g.divide x.slot join x.act paths = none → Machine.exec (.brx w) s = .next (raised x 0x00C 0 s0)) ∧
            ∀ g', g.divide x.slot join x.act paths = some g' →
              Machine.exec (.brx w) s = .next (jumped x true (s2.modGroup x.ref fun _ => g'))))

/-- R111, R112: BRA and BRX complete, with the causes of their targets. -/
def Obligations.BranchResults : Prop := Rules.BranchResults ∧ Rules.IndexedBranchResults

/-- R113: CALL completes with its target as the PC and the address after it in its destination pair, at once and in every active lane;
RET with the address of its lowest active lane as the PC. Both end the run. An address that is no instruction start, or in CALL has a bit
above 55, raises 0x009. -/
def Obligations.CallAndReturn : Prop :=
  (∀ w s s0 x s', IssuesFrom (.call w) s s0 x s' → w.form ≠ .baseLit →
    let t := Rules.callTarget x w
    ((w.a ≠ .zero ∧ (x.src64 w.a 0).toNat / 2 ^ 56 ≠ 0) →
      Machine.exec (.call w) s = .next (raised x 0x009 (x.src64 w.a 0) s0)) ∧
    ((w.a = .zero ∨ (x.src64 w.a 0).toNat / 2 ^ 56 = 0) →
      (∀ s1, s'.checkTarget x.from t = (s1, .bad) → Machine.exec (.call w) s = .next (raised x 0x009 (t.setWidth 64) s0)) ∧
      (∀ s1, s'.checkTarget x.from t = (s1, .ok) →
        Machine.exec (.call w) s
          = .next (jumped x true (x.goto t (x.now64 (fun _ => (Rules.through x w).setWidth 64) s1)))))) ∧
  (∀ w s s0 x s', IssuesFrom (.ret w) s s0 x s' →
    let t : BitVec 56 := (x.src64 w.a (Mask.lowest x.act)).setWidth 56
    (∀ s1, s'.checkTarget x.from t = (s1, .bad) → Machine.exec (.ret w) s = .next (raised x 0x009 (t.setWidth 64) s0)) ∧
    (∀ s1, s'.checkTarget x.from t = (s1, .ok) → Machine.exec (.ret w) s = .next (jumped x true (x.goto t s1))))

/-- R20, R22, R35: the tests before an issue. A PATH entry whose join is the PC is popped, and the split goes on at its PC with its mask; a
RECONVERGE entry whose PC is the PC is popped, and the mask becomes its mask less the exited lanes; with an empty stack, a split whose
PC is its entry's J adds its lanes to A and is PARKED. When A then equals M and no handler runs, the lowest of the parked slots goes on at J
with A as its mask and the entry's parent as JREC, the others are FREE, and the entry is freed. When no test matches, the split issues;
tests that match end the run, once for those that match one after another (log 68), and the turn goes to the next RUNNABLE split. -/
def Sys2Proof.Rules.JoinTests : Prop :=
  ∀ (g : Group), g.cur < 4 → (g.split g.cur).st = .runnable →
    let sp := g.split g.cur
    (∀ pc m join r, sp.stack = .path pc m join :: r → sp.pc = join → ∃ g', g.test1 = some g' ∧
      g'.split g.cur = { sp with pc := pc, mask := m, stack := r } ∧ g'.cur = g.cur) ∧
    (∀ pc m r, sp.stack = .reconverge pc m :: r → sp.pc = pc → ∃ g', g.test1 = some g' ∧
      g'.split g.cur = { sp with mask := m &&& g.live, stack := r } ∧ g'.cur = g.cur) ∧
    (∀ j, sp.stack = [] → sp.jrec ≠ 3 → g.joins.get? sp.jrec.toNat = some j → sp.pc = j.j → ∃ g', g.test1 = some g' ∧
      g'.cur = g.cur ∧
      ((g.trap.handling ≠ none ∨ (j.a ||| sp.mask ≠ j.m ∧
          ∀ e k, e ≠ sp.jrec.toNat → g.joins.get? e = some k → k.a ≠ k.m)) →
        g'.split g.cur = { sp with st := .parked } ∧ g'.joins.get? sp.jrec.toNat = some { j with a := j.a ||| sp.mask }) ∧
      ((g.trap.handling = none ∧ j.a ||| sp.mask = j.m ∧ j.m ≠ 0 ∧
          ∀ e k, e ≠ sp.jrec.toNat → g.joins.get? e = some k → k.a ≠ k.m) →
        let slots := [0, 1, 2, 3].filter fun i => i == g.cur || ((g.split i).st == .parked && (g.split i).jrec == sp.jrec)
        (∀ low, slots.head? = some low → g'.split low = { st := .runnable, pc := j.j, mask := j.m, jrec := j.parent }) ∧
        (∀ i ∈ slots.drop 1, (g'.split i).st = .free) ∧ g'.joins.get? sp.jrec.toNat = none)) ∧
    (∀ pc m join r, sp.stack = .path pc m join :: r → sp.pc ≠ join → g.test1 = none) ∧
    (∀ pc m r, sp.stack = .reconverge pc m :: r → sp.pc ≠ pc → g.test1 = none) ∧
    (sp.stack = [] → (sp.jrec = 3 ∨ ∀ j, g.joins.get? sp.jrec.toNat = some j → sp.pc ≠ j.j) → g.test1 = none) ∧
    (∀ n, g.test1 = none → g.settle n = g) ∧
    (∀ n g1 g2, g.test1 = some g1 → (g2 = g1 ∨ g1.test1 = some g2) → g2.test1 = none →
      g.settle (n + 1) = g2.endRun.settle n ∧ Rules.rotated g2 g2.endRun ∧
      g2.endRun.runLen = 0 ∧ g2.endRun.la = none ∧ g2.endRun.lb = none ∧ g2.endRun.oc = [])

/-- R18 to R20, R22, R35, R118: how a split divides over several paths, and the tests before an issue by which paths join. (That tests which
match one after another end the run once, log 68, and how a split with a path stack divides, log 34, are the model's readings.) -/
def Obligations.Divergence : Prop := Rules.Divisions ∧ Rules.JoinTests

/-- R21, R114, R118: EXIT completes and ends the run. Its executing lanes leave the live lanes, every join-table entry and every RECONVERGE
entry. Lanes of the split that go on do so at the fall-through address; a split left empty continues with its stack, or its slot is FREE.
A join entry that is complete without the exited lanes merges its parked splits, none while a handler runs; when no lane is left to
which the handler could return, the handler has ended.
While a result of those lanes that no slot announces has not landed, EXIT does not issue yet (read from the walk of R268, log 66). -/
def Sys2Proof.Rules.ExitResults : Prop :=
  (∀ w s x s', Issues (.exit w) s x s' → ¬ Rules.owed x s' →
    Machine.exec (.exit w) s = .next (jumped x true
      ((s'.modGroup x.ref fun g => g.exitLanes x.slot x.ex (x.pc + 4)).recheckBars x.ref.team))) ∧
  (∀ w s x s', Issues (.exitExt w) s x s' → w.form = .ext → ¬ Rules.owed x s' →
    Machine.exec (.exitExt w) s = .next (jumped x true
      ((s'.modGroup x.ref fun g => g.exitLanes x.slot x.ex (x.pc + 12)).recheckBars x.ref.team))) ∧
  (∀ i s x s', ((∃ w, i = .exit w) ∨ ∃ w, i = .exitExt w) → Issues i s x s' → Rules.owed x s' →
    Machine.exec i s = .next ((x.undo s').chooseAgain x.ref x.core x.g.quarter)) ∧
  (∀ (g : Group) (slot : Nat) (m : Mask) (next : BitVec 56), slot < 4 → g.trap.handling = none →
    (∀ e j, g.joins.get? e = some j → j.a &&& ~~~m ≠ j.m &&& ~~~m) →
    let g' := g.exitLanes slot m next
    let sp := g.split slot
    let strip : List StackEnt → List StackEnt := List.map fun e =>
      match e with
      | .reconverge pc k => .reconverge pc (k &&& ~~~m)
      | e => e
    g'.live = g.live &&& ~~~m ∧
    (∀ e, g'.joins.get? e = (g.joins.get? e).map fun j => { j with m := j.m &&& ~~~m, a := j.a &&& ~~~m }) ∧
    (sp.mask &&& ~~~m ≠ 0 → g'.split slot = { sp with pc := next, mask := sp.mask &&& ~~~m, stack := strip sp.stack }) ∧
    (sp.mask &&& ~~~m = 0 → sp.stack = [] → (g'.split slot).st = .free) ∧
    (∀ pc k join r, sp.mask &&& ~~~m = 0 → sp.stack = .path pc k join :: r →
      g'.split slot = { sp with pc := pc, mask := k, stack := strip r }) ∧
    (∀ pc k r, sp.mask &&& ~~~m = 0 → sp.stack = .reconverge pc k :: r → k &&& ~~~m ≠ 0 →
      g'.split slot = { sp with pc := pc, mask := k &&& ~~~m, stack := strip r }) ∧
    g'.v = g.v ∧ g'.s = g.s ∧ g'.p = g.p) ∧
  (∀ (g : Group) (slot : Nat) (m : Mask) (next : BitVec 56) (e : Nat) (j : JoinEnt), slot < 4 → (g.split slot).st = .runnable → e < 3 →
    g.trap.handling = none → g.joins.get? e = some j → j.a &&& ~~~m = j.m &&& ~~~m →
    let g' := g.exitLanes slot m next
    let slots := [0, 1, 2, 3].filter fun i => (g.split i).st == .parked && (g.split i).jrec.toNat == e
    g'.joins.get? e = none ∧
    (j.a &&& ~~~m ≠ 0 →
      (∀ low, slots.head? = some low → g'.split low = { st := .runnable, pc := j.j, mask := j.a &&& ~~~m, jrec := j.parent }) ∧
      ∀ i ∈ slots.drop 1, (g'.split i).st = .free) ∧
    (j.a &&& ~~~m = 0 → ∀ i ∈ slots, (g'.split i).st = .free)) ∧
  (∀ (g : Group) (slot : Nat) (m : Mask) (next : BitVec 56), g.trap.handling ≠ none →
    let g' := g.exitLanes slot m next
    let handlerEnds := g.trap.handling = some slot ∧ g.trap.emask &&& (g.live &&& ~~~m) = 0
    (handlerEnds → g'.trap.handling = none) ∧
    (¬ handlerEnds → g'.trap = g.trap ∧
      ∀ e, g'.joins.get? e = (g.joins.get? e).map fun j => { j with m := j.m &&& ~~~m, a := j.a &&& ~~~m }))

/-- R26, R115: NOP and YIELD complete and change nothing beyond what their issue does; after YIELD the current split is the next RUNNABLE one
in rotating order. -/
def Sys2Proof.Rules.NopAndYield : Prop :=
  (∀ w s x s', Issues (.nop w) s x s' → Machine.exec (.nop w) s = .next (passed (.nop w) x s')) ∧
  (∀ w s x s', Issues (.nopExt w) s x s' → Machine.exec (.nopExt w) s = .next (passed (.nopExt w) x s')) ∧
  (∀ w s x s', Issues (.yield w) s x s' → Machine.exec (.yield w) s = .next (passed (.yield w) x s')) ∧
  (∀ w s x s', Issues (.yieldExt w) s x s' → Machine.exec (.yieldExt w) s = .next (passed (.yieldExt w) x s')) ∧
  (∀ (w : Base) (e : ExtA), runEnds (.nop w) = false ∧ runEnds (.nopExt e) = false ∧ runEnds (.yield w) = true ∧
    runEnds (.yieldExt e) = true ∧
    ((Instr.nop w).wf = true ∨ (Instr.yield w).wf = true → w.dst = .zero ∧ w.a = .zero ∧ w.b = .zero) ∧
    ((Instr.nopExt e).wf = true ∨ (Instr.yieldExt e).wf = true →
      e.form = .ext ∧ e.mod = 0 ∧ e.dst = .zero ∧ e.a = .zero ∧ e.b = .zero ∧ e.c = .zero ∧ e.spec = 0)) ∧
  (∀ i w e s x s' t g g' k, (i = Instr.yield w ∨ i = .yieldExt e) → Issues i s x s' → Machine.exec i s = .next t → s'.group? x.ref = some g →
    t.group? x.ref = some g' → g.cur < 4 → 1 ≤ k → k ≤ 4 → (g.split ((g.cur + k) % 4)).st = .runnable →
    (∀ j, 1 ≤ j → j < k → (g.split ((g.cur + j) % 4)).st ≠ .runnable) → g'.cur = (g.cur + k) % 4)

/-- R21, R26, R114, R115, R118: EXIT, with the merges that it completes, NOP and YIELD complete. (That EXIT waits for results without a slot is
the model's reading, log 66.) -/
def Obligations.ExitsAndPauses : Prop := Rules.ExitResults ∧ Rules.NopAndYield

/-- R5, R28, R29, R117: an H cause with a handler in place and none running enters it: ECAUSE, EPC, EMASK, ESLOT, EINFO and DEPTH are
written, the split goes on at TVEC with its mask, the other RUNNABLE and WAITING splits are HELD, the upper levels are invalid, and every
register stays. With no handler, or one running, the cause kills the node instead. -/
def Sys2Proof.Rules.TrapEntry : Prop :=
  ∀ (s : State) (ref : GRef) (t : Team) (g : Group) (code : Nat) (einfo : DWord),
    s.team? ref.team = some t → s.group? ref = some g → causeIsK code = false → code < 512 → g.cur < 4 → (g.split g.cur).st = .runnable →
    (g.trap.tvec ≠ 0 → g.trap.handling = none → ∃ g', (s.raise ref code einfo).group? ref = some g' ∧
      g'.trap.ecause = BitVec.ofNat 32 code ∧ g'.trap.epc = (g.split g.cur).pc.setWidth 64 ∧ g'.trap.emask = (g.split g.cur).mask ∧
      g'.trap.eslot = BitVec.ofNat 32 g.cur ∧ g'.trap.einfo = einfo ∧ g'.trap.depth = (g.split g.cur).stack.length ∧
      g'.trap.handling = some g.cur ∧ g'.trap.tvec = g.trap.tvec ∧ g'.cur = g.cur ∧
      g'.split g.cur = { g.split g.cur with pc := (g.trap.tvec &&& ~~~3#64).setWidth 56 } ∧
      (∀ i, i ≠ g.cur → g'.split i =
        if (g.split i).st = .runnable ∨ (g.split i).st = .waiting then { g.split i with st := .held, pre := (g.split i).st }
        else g.split i) ∧
      g'.la = none ∧ g'.lb = none ∧ g'.oc = [] ∧ g'.v = g.v ∧ g'.s = g.s ∧ g'.p = g.p ∧ g'.joins = g.joins ∧ g'.live = g.live ∧
      (s.raise ref code einfo).mem = s.mem ∧ (s.raise ref code einfo).nodes = s.nodes) ∧
    ((g.trap.tvec = 0 ∨ g.trap.handling ≠ none) →
      ∀ n, s.node? t.node = some n → (n.st = .running ∨ n.st = .starting) →
        (s.raise ref code einfo).node? t.node = some { n with st := .killing, cause := some code, sts := 3 })

/-- R116, R118: TRAP completes: where some lane executes it raises 0x007 with its code in EINFO, else it only ends the run. ERET outside the
handling split, or with no executing lane, only ends the run; in the handling split it ends the handler: PC and mask come from EPC
and EMASK less the exited lanes, entries above the recorded DEPTH are gone, and every HELD split takes its state of before. -/
def Sys2Proof.Rules.TrapAndReturn : Prop :=
  (∀ w s s0 x s', IssuesFrom (.trap w) s s0 x s' →
    Machine.exec (.trap w) s
      = .next (if x.ex = 0 then passed (.trap w) x s' else raised x 0x007 (BitVec.ofNat 64 (w.f 16 9)) s0)) ∧
  (∀ w s x s', Issues (.eret w) s x s' →
    Machine.exec (.eret w) s
      = .next (if x.ex = 0 ∨ x.g.trap.handling ≠ some x.slot then passed (.eret w) x s'
               else jumped x true (s'.modGroup x.ref fun g => g.endHandler x.slot))) ∧
  (∀ w s x s', Issues (.eretExt w) s x s' →
    Machine.exec (.eretExt w) s
      = .next (if x.ex = 0 ∨ x.g.trap.handling ≠ some x.slot then passed (.eretExt w) x s'
               else jumped x true (s'.modGroup x.ref fun g => g.endHandler x.slot))) ∧
  (∀ (g : Group) (slot : Nat), slot < 4 → (g.split slot).st = .runnable → g.trap.emask &&& g.live ≠ 0 → g.trap.depth ≤ (g.split slot).stack.length →
    (∀ e j, g.joins.get? e = some j → j.a ≠ j.m) → (∀ i, (g.split i).out = none) →
    let g' := g.endHandler slot
    let sp := g.split slot
    g'.split slot = { sp with pc := g.trap.epc.setWidth 56 &&& ~~~3#56, mask := g.trap.emask &&& g.live
                              stack := sp.stack.drop (sp.stack.length - g.trap.depth) } ∧
    (∀ i, i ≠ slot → g'.split i =
      if (g.split i).st = .held then { g.split i with st := (g.split i).pre, pre := .free } else g.split i) ∧
    g'.trap = { g.trap with handling := none } ∧ g'.v = g.v ∧ g'.s = g.s ∧ g'.p = g.p ∧ g'.joins = g.joins)

/-- R5, R28, R29, R116 to R118: how an H cause enters the handler or ends the node, TRAP, and ERET. -/
def Obligations.Traps : Prop := Rules.TrapEntry ∧ Rules.TrapAndReturn

namespace Sys2Proof.Rules

/-- The system registers of R119, by number. -/
def sysReg (x : Ctx) (s : State) (n : Nat) : DWord :=
  if n = 0x00 then x.g.trap.tvec
  else if n = 0x01 then x.g.trap.ecause.setWidth 64
  else if n = 0x02 then x.g.trap.epc
  else if n = 0x03 then x.g.trap.emask.setWidth 64
  else if n = 0x04 then x.g.trap.einfo
  else if n = 0x05 then x.g.trap.eslot.setWidth 64
  else if n = 0x08 then x.g.srstate.setWidth 64
  else
    match s.node? x.team.node with
    | some d => if n = 0x10 then d.srbase.setWidth 64 else if d.chksb then 1 else 0
    | none => 0

/-- The registers of 64 bits: tvec, epc and einfo. -/
def sysLong (n : Nat) : Bool := n == 0 || n == 2 || n == 4

end Sys2Proof.Rules

/-- R119: RDSYS completes with the system register's value in its destination at once. WRSYS of tvec, epc or srseed, and in privileged code
of srbase or chksb, completes with the register written from the lowest executing lane: tvec with bits [1:0] zero, srseed with 1 for 0; srbase and chksb are fields of the partition's PCFG, which the next node latches. A write
of a read-only register, in privileged code too (log 71: R119 speaks of kernel code), or of a privileged one from kernel code, raises
0x00A with the number in EINFO. RDSYS of srbase and chksb reads the copy that the node latched (R289, log 51). With no executing lane
neither has an effect. -/
def Obligations.SystemRegisters : Prop :=
  (∀ w s x s', Issues (.rdsys w) s x s' → w.f 16 9 ∈ [0, 1, 2, 3, 4, 5, 8, 0x10, 0x11] →
    Machine.exec (.rdsys w) s = .next (passed (.rdsys w) x
      (if Rules.sysLong (w.f 16 9) then x.now64 (fun _ => Rules.sysReg x s' (w.f 16 9)) s'
       else x.now (fun _ => (Rules.sysReg x s' (w.f 16 9)).setWidth 32) s'))) ∧
  (∀ w s s0 x s', IssuesFrom (.wrsys w) s s0 x s' →
    let n := w.f 16 9
    let l := Mask.lowest x.ex
    let a32 := LVec.at (x.src .int w.a) l
    let a64 := x.src64 w.a l
    (x.ex = 0 → Machine.exec (.wrsys w) s = .next (passed (.wrsys w) x s')) ∧
    (x.ex ≠ 0 →
      ((n ∈ [1, 3, 4, 5] ∨ (n ∈ [0x10, 0x11] ∧ x.team.priv = false)) →
        Machine.exec (.wrsys w) s = .next (raised x 0x00A (BitVec.ofNat 64 n) s0)) ∧
      (n = 0 → Machine.exec (.wrsys w) s = .next (passed (.wrsys w) x
        (s'.modGroup x.ref fun g => { g with trap := { g.trap with tvec := a64 &&& ~~~3#64 } }))) ∧
      (n = 2 → Machine.exec (.wrsys w) s = .next (passed (.wrsys w) x
        (s'.modGroup x.ref fun g => { g with trap := { g.trap with epc := a64 } }))) ∧
      (n = 8 → Machine.exec (.wrsys w) s = .next (passed (.wrsys w) x
        (s'.modGroup x.ref fun g => { g with srstate := if a32 = 0 then 1 else a32 }))) ∧
      (x.team.priv = true → n = 0x10 → Machine.exec (.wrsys w) s = .next (passed (.wrsys w) x
        (s'.modPart x.team.part fun p => { p with pcfg := BitVec.ofNat 64 (a32.toNat * 2 ^ 32 + p.pcfg.toNat % 2 ^ 32) }))) ∧
      (x.team.priv = true → n = 0x11 → Machine.exec (.wrsys w) s = .next (passed (.wrsys w) x
        (s'.modPart x.team.part fun p => { p with pcfg := BitVec.ofNat 64 (p.pcfg.toNat / 2 * 2 + a32.toNat % 2) })))))

namespace Sys2Proof.Rules

/-- The results of a wait of a split are written in its lanes, a uniform one unless a later-issued write of another split has taken effect
there (R13), and the split is RUNNABLE (R22). -/
def waitWritten (g g' : Group) (slot : Nat) (w : Wait) (o : WaitOut) : Prop :=
  (g'.split slot).st = .runnable ∧ (g'.split slot).wait = none ∧ (g'.split slot).pc = (g.split slot).pc ∧
  (∀ p, w.pd = some p → p ≠ 7 → ∀ l, l < 32 →
    (g'.preg p.toNat).getLsbD l = if w.lanes.getLsbD l then o.flag else (g.preg p.toNat).getLsbD l) ∧
  (∀ n, w.dst = .v n → w.wide = false → ∀ l, l < 32 →
    LVec.at (g'.vreg n.toNat) l = if w.lanes.getLsbD l then LVec.at o.lo l else LVec.at (g.vreg n.toNat) l) ∧
  (∀ n, w.dst = .s n → w.lanes ≠ 0 → w.wide = false → g'.sreg n.toNat
    = if Rules.laterWritten g slot w.iss n.toNat then g.sreg n.toNat
      else LVec.at o.lo (Mask.lowest w.lanes))

end Sys2Proof.Rules

/-- R13, R22: a satisfied wait. While the split is WAITING and its team on a core, its results are written in the lanes of the wait and it
becomes RUNNABLE; while it is HELD, the outcome is recorded and the split stays HELD. A wait that is answered before it has registered
anywhere is answered so too, and its split has never been WAITING. -/
def Obligations.WaitOutcomes : Prop :=
  ∀ (s : State) (ref : GRef) (slot : Nat) (o : WaitOut) (t : Team) (c : Nat) (g : Group) (w : Wait),
    s.team? ref.team = some t → t.core? = some c → s.group? ref = some g → slot < 4 → (g.split slot).wait = some w →
    ((g.split slot).st = .waiting → ∃ g', (s.wake ref slot o).group? ref = some g' ∧ Rules.waitWritten g g' slot w o) ∧
    ((g.split slot).st = .runnable → ∃ g', (s.answerWait ref slot o).group? ref = some g' ∧ Rules.waitWritten g g' slot w o) ∧
    ((g.split slot).st = .held → ∃ g1 g2, (s.wake ref slot o).group? ref = some g1 ∧ (s.answerWait ref slot o).group? ref = some g2 ∧
      ∀ g' ∈ [g1, g2], g'.split slot = { g.split slot with out := some o } ∧ g'.v = g.v ∧ g'.s = g.s ∧ g'.p = g.p)

/-! ### Lane memory -/

namespace Sys2Proof.Rules

/-- Translate accesses one after another in lane order; what each reaches, and the state after (R127, R239, R282). None where a
lane raises a cause or a table entry has to be fetched first. -/
def reached (x : Ctx) (write : Bool) : List VAcc → State → Option (State × List (VAcc × Tgt))
  | [], s => some (s, [])
  | a :: r, s =>
    if isPeer a.va && !s.inPod then none
    else
      match s.translateLane x.from x.ref a.lane a.va write with
      | (s, .ok pa e) =>
        (reached x write r s).map fun p =>
          (p.1, (a, if isPeer a.va then .remote e.peer.toNat pa e.cls else .mem pa e.cls e.arena.isSome) :: p.2)
      | (s, .discarded _) => (reached x write r s).map fun p => (p.1, (a, .zero) :: p.2)
      | (s, .scratch off) =>
        if x.team.scr < off + a.len then none else (reached x write r s).map fun p => (p.1, (a, .scr off) :: p.2)
      | _ => none

/-- Translate accesses and keep those that reach memory: the others are skipped without a cause (R132). None where a table entry has to
be fetched first. -/
def skipped (x : Ctx) : List VAcc → State → Option (State × List (VAcc × Tgt))
  | [], s => some (s, [])
  | a :: r, s =>
    if isPeer a.va then skipped x r s
    else
      match s.translateLane x.from x.ref a.lane a.va false with
      | (s, .ok pa e) => (skipped x r s).map fun p => (p.1, (a, .mem pa e.cls e.arena.isSome) :: p.2)
      | (_, .busy) => none
      | (s, _) => skipped x r s

/-- The lanes that load: for a uniform destination the lowest executing lane alone (R127). -/
def loading (x : Ctx) (dst : Operand) : List Nat :=
  match dst with
  | .s _ => (Mask.list x.ex).take 1
  | _ => Mask.list x.ex

/-- The accesses of LD, LDC, ST and PREF: the A pair plus the offset, modulo 2^56 (R59, R127). -/
def accesses (x : Ctx) (w : ExtM) (ls : List Nat) : List VAcc :=
  ls.map fun l => { lane := l, va := (x.src64 w.a l).setWidth 56 + w.offset.signExtend 56, len := sizeBytes w.size, pos := 0 }

/-- Private memory of a group (R15): its base, and PSZ. -/
def ownArea (x : Ctx) (s : State) : Nat × Nat :=
  match s.node? x.team.node with
  | some n =>
    (n.desc.priv + (x.team.num * (n.desc.gcnt.1 + n.desc.gcnt.2.1 + n.desc.gcnt.2.2) + x.ref.grp) * 32 * n.desc.psz, n.desc.psz)
  | none => (0, 0)

/-- The byte address of a lane in its own memory (R130). -/
def ownAddress (x : Ctx) (w : ExtM) (l : Nat) : Int := (LVec.at (x.src .int w.a) l).toNat + w.offset.toInt

/-- The address is negative, misaligned, or reaches PSZ (R130). -/
def ownFails (x : Ctx) (s : State) (w : ExtM) (l : Nat) : Bool :=
  let a := ownAddress x w l
  decide (a < 0) || decide (((ownArea x s).2 : Int) < a + sizeBytes w.size) || a % sizeBytes w.size != 0

/-- The accesses of LDL and STL, each aligned 32-bit word by itself (R15, R130). -/
def ownAccesses (x : Ctx) (s : State) (w : ExtM) (ls : List Nat) : List VAcc :=
  ls.flatMap fun l =>
    let a := (ownAddress x w l).toNat
    let n := sizeBytes w.size
    let at_ (i : Nat) : BitVec 56 := BitVec.ofNat 56 ((ownArea x s).1 + (a + i) / 4 * 128 + l * 4 + (a + i) % 4)
    if n ≤ 4 then [{ lane := l, va := at_ 0, len := n, pos := 0 }]
    else (List.range (n / 4)).map fun i => { lane := l, va := at_ (4 * i), len := 4, pos := 4 * i }

/-- The group does not issue in this cycle: its registers stay, and its quarter chooses again (timing). -/
def waits (x : Ctx) (s : State) : State := (x.undo s).chooseAgain x.ref x.core x.g.quarter

/-- The node of the issuing group is killed with a cause; the group's run ends (R5). -/
def killed (x : Ctx) (code : Nat) (s : State) : State :=
  ((s.modGroup x.ref fun g => { g.endRun with cur := g.cur }).killNode x.team.node code).issuedAt x.core x.g.quarter

/-- What a state holds of memory beside L1: memory itself, poison, and every slice. -/
def sameHomes (s t : State) : Prop := t.mem = s.mem ∧ t.poison = s.poison ∧ t.slices = s.slices

end Sys2Proof.Rules

/-- R127, R130: LD and LDL complete; while an earlier load is on its way to one of their lines, whose answer they must not overtake, they do
not issue yet (timing, log 30). With no executing lane nothing is performed; otherwise every lane's accesses are aligned and translated,
one operation becomes outstanding, which names the destination, its size and slot, has one piece for each line in ascending order of the
lowest lane that touches it, and no home, and so no byte of memory, changes. -/
def Sys2Proof.Rules.LoadResults : Prop :=
  (∀ w s x s', Issues (.ld w) s x s' →
    let ls := Rules.loading x w.dst
    let accs := Rules.accesses x w ls
    (x.ex = 0 → Machine.exec (.ld w) s = .next (passed (.ld w) x s')) ∧
    (x.ex ≠ 0 → (∀ a ∈ accs, a.va.toNat % sizeBytes w.size = 0) → ∀ s1 ts, Rules.reached x false accs s' = some (s1, ts) →
      ((∀ l ∈ linesOf ts, s1.loadWaits x.core x.ref (w.cls == 3) l = false) →
        Machine.exec (.ld w) s = .next (passed (.ld w) x (x.startLoad .load w (sizeRegs w.size) s1 ts))) ∧
      ((∃ l ∈ linesOf ts, s1.loadWaits x.core x.ref (w.cls == 3) l = true) →
        Machine.exec (.ld w) s = .next (Rules.waits x s1)))) ∧
  (∀ w s x s', Issues (.ldl w) s x s' →
    let ls := Rules.loading x w.dst
    let accs := Rules.ownAccesses x s' w ls
    (x.ex = 0 → Machine.exec (.ldl w) s = .next (passed (.ldl w) x s')) ∧
    (x.ex ≠ 0 → (∀ l ∈ ls, Rules.ownFails x s' w l = false) → (∀ a ∈ accs, a.va.toNat % a.len = 0) →
      ∀ s1 ts, Rules.reached x false accs s' = some (s1, ts) →
      (∀ l ∈ linesOf ts, s1.loadWaits x.core x.ref (w.cls == 3) l = false) →
      Machine.exec (.ldl w) s = .next (passed (.ldl w) x (x.startLoad .load w (sizeRegs w.size) s1 ts)))) ∧
  (∀ (x : Ctx) (kind : OutKind) (w : ExtM) (regs : Nat) (s1 : State) (ts : List (VAcc × Tgt)),
    (∀ y ∈ ts, ∃ pa c ar, y.2 = .mem pa c ar) →
    let t := x.startLoad kind w regs s1 ts
    Rules.sameHomes s1 t ∧ ∃ o, t.outst.get? s1.nextId = some o ∧
      o.g = x.ref ∧ o.core = x.core ∧ o.kind = kind ∧ o.dst = w.dst ∧ o.regs = regs ∧ o.size = w.size ∧ o.sx = w.sx ∧ o.lanes = x.ex ∧
      o.sb = (if w.h.sbset = 15 then none else some w.h.sbset.toNat) ∧ o.pieces.map Piece.line = linesOf ts ∧
      (∀ p ∈ o.pieces, p.landed = false ∧ p.remote = false))

/-- R131, R132: LDC completes with an outstanding load of its accesses through the constant cache, one piece a line, the lines that the cache
holds already bound; an address in the peer window raises 0x141. PREF completes: lanes whose page is absent, discarded or unreadable are
skipped without a cause, under CLASS L1 bypass nothing happens, and no register, slot or home changes. -/
def Sys2Proof.Rules.ConstantAndPrefetch : Prop :=
  (∀ w s s0 x s', IssuesFrom (.ldc w) s s0 x s' →
    let accs := Rules.accesses x w (Rules.loading x w.dst)
    (x.ex = 0 → Machine.exec (.ldc w) s = .next (passed (.ldc w) x s')) ∧
    (x.ex ≠ 0 → (∀ a ∈ accs, a.va.toNat % sizeBytes w.size = 0) →
      ((∃ a ∈ accs, isPeer a.va = true) → Machine.exec (.ldc w) s = .next (raised x 0x141 0 s0)) ∧
      ((∀ a ∈ accs, isPeer a.va = false) → ∀ s1 ts, Rules.reached x false accs s' = some (s1, ts) → ∃ t o,
        Machine.exec (.ldc w) s = .next (passed (.ldc w) x t) ∧ Rules.sameHomes s1 t ∧ t.outst.get? s1.nextId = some o ∧
        o.g = x.ref ∧ o.kind = .ldc ∧ o.dst = w.dst ∧ o.regs = sizeRegs w.size ∧ o.lanes = x.ex ∧ o.sx = false ∧ o.l1pos = none ∧
        ((∀ y ∈ ts, ∃ pa c ar, y.2 = .mem pa c ar) →
          o.pieces.map Piece.line = linesOf ts ∧
          ∀ p ∈ o.pieces, ∀ d, (s1.core x.core).ccache.get? p.line = some d → p.vals = some (readAccs p.accs d))))) ∧
  (∀ w s x s', Issues (.pref w) s x s' → ∀ s1 ts, Rules.skipped x (Rules.accesses x w (Mask.list x.ex)) s' = some (s1, ts) → ∃ t,
    Machine.exec (.pref w) s = .next (passed (.pref w) x t) ∧ Rules.sameHomes s1 t ∧ t.teams = s1.teams ∧ (w.cls = 3 → t = s1) ∧
    (w.cls ≠ 3 → (∀ e ∈ s1.outst, e.1 < s1.nextId) → ∀ line ∈ linesOf ts,
      (∃ l, (t.core x.core).l1Find line = some l ∧ l.valid = allNibbles) ∨ t.filling x.core line = true))

/-- R127, R130: ST and STL complete: every executing lane's accesses are aligned and translated for writing, and each line that they reach
takes the bytes of its lanes. While a load of the group is on its way to one of those lines, they do not issue yet (timing, log 30). A line
of a shadow region raises 0x0C2 (R218), at the issue of the store, since no write-back faults (log 75). -/
def Sys2Proof.Rules.StoreResults : Prop :=
  (∀ w s x s', Issues (.st w) s x s' →
    let accs := Rules.accesses x w (Mask.list x.ex)
    (∀ a ∈ accs, a.va.toNat % sizeBytes w.size = 0) → ∀ s1 ts, Rules.reached x true accs s' = some (s1, ts) →
      ((∀ l ∈ linesOf ts, s1.unread x.ref l (fun _ => true) = false) → (∀ l ∈ linesOf ts, s1.inShadow (128 * l) = false) →
        Machine.exec (.st w) s = .next (passed (.st w) x
          (x.startStore w.cls { b := w.b, regs := sizeRegs w.size, n4 := w.size == 5, hi := w.mod % 2 == 1 } s1 ts))) ∧
      ((∃ l ∈ linesOf ts, s1.unread x.ref l (fun _ => true) = true) → Machine.exec (.st w) s = .next (Rules.waits x s1))) ∧
  (∀ w s x s', Issues (.stl w) s x s' →
    let accs := Rules.ownAccesses x s' w (Mask.list x.ex)
    (∀ l ∈ Mask.list x.ex, Rules.ownFails x s' w l = false) → (∀ a ∈ accs, a.va.toNat % a.len = 0) →
      ∀ s1 ts, Rules.reached x true accs s' = some (s1, ts) → (∀ l ∈ linesOf ts, s1.unread x.ref l (fun _ => true) = false) →
      (∀ l ∈ linesOf ts, s1.inShadow (128 * l) = false) →
      Machine.exec (.stl w) s = .next (passed (.stl w) x
        (x.startStore w.cls { b := w.b, regs := sizeRegs w.size, n4 := false, hi := false } s1 ts))) ∧
  (∀ w s s0 x s', IssuesFrom (.st w) s s0 x s' → (∀ a ∈ Rules.accesses x w (Mask.list x.ex), a.va.toNat % sizeBytes w.size = 0) →
    ∀ s1 ts, Rules.reached x true (Rules.accesses x w (Mask.list x.ex)) s' = some (s1, ts) →
      (∀ l ∈ linesOf ts, s1.unread x.ref l (fun _ => true) = false) → (∃ l ∈ linesOf ts, s1.inShadow (128 * l) = true) →
      Machine.exec (.st w) s = .next (Rules.killed x 0x0C2 s0))

/-- R8, R127, R128, R129: the bytes of one line of a store. A byte that accesses of several lanes cover takes that of the highest lane, the
last in lane order; a byte that none covers is not marked; `n4` marks and fills one nibble alone. -/
def Sys2Proof.Rules.StoredBytes : Prop :=
  ∀ (x : Ctx) (b : Operand) (regs : Nat) (accs : List Acc), (∀ a ∈ accs, a.off + a.len ≤ 128 ∧ 0 < a.len) →
    (∀ off, off < 128 →
      let r := x.lineData { b, regs, n4 := false, hi := false } accs
      let cover := accs.filter fun a => decide (a.off ≤ off) && decide (off < a.off + a.len)
      (cover = [] → r.2.getLsbD (2 * off) = false ∧ r.2.getLsbD (2 * off + 1) = false) ∧
      (∀ a, cover.getLast? = some a →
        r.2.getLsbD (2 * off) = true ∧ r.2.getLsbD (2 * off + 1) = true ∧
        (lineByte r.1 off).toNat = x.srcData b a.lane regs / 256 ^ (a.pos + (off - a.off)) % 256)) ∧
    (∀ off hi, off < 128 → (∀ a ∈ accs, a.pos = 0 ∧ a.len = 1) →
      let r := x.lineData { b, regs, n4 := true, hi } accs
      let at_ := accs.filter fun a => a.off == off
      r.2.getLsbD (2 * off + (if hi then 0 else 1)) = false ∧
      (at_ = [] → r.2.getLsbD (2 * off + (if hi then 1 else 0)) = false) ∧
      (∀ a, at_.getLast? = some a →
        r.2.getLsbD (2 * off + (if hi then 1 else 0)) = true ∧
        (lineByte r.1 off).toNat / (if hi then 16 else 1) % 16 = x.srcData b a.lane regs % 16))

/-- R127 to R130: stores complete, and the bytes that they store. (That a store waits for a load of its lines, log 30, and raises 0x0C2 at its
issue, R218, log 75, are the model's readings.) -/
def Obligations.Stores : Prop := Rules.StoreResults ∧ Rules.StoredBytes

/-- R143, R144, R147, and the frame of a store: a store of a line performs in the core's L1 alone. The line is present afterwards, with the
marked nibbles valid, dirty and new, and every other nibble as it was. No home and no other core changes. Where the line was present or the
set had room, every other line of this L1 stays as it was and nothing is sent; else one line, the least recently used of the set, leaves:
every other line stays, and its dirty nibbles, if there are any, and nothing else, are sent to its home as a write-back. -/
def Obligations.StoreFrame : Prop :=
  ∀ (s : State) (core : Nat) (ref : GRef) (pos line : Nat) (data : BitVec 1024) (mask : BitVec 256) (cls : Cls) (part : Nat),
    let t := s.l1Store core ref pos line data mask cls part
    let old : L1Line := ((s.core core).l1Find line).getD { line, way := 0, data := 0, valid := 0, dirty := 0, cls, part }
    let room := (s.core core).l1Find line ≠ none ∨ ((s.core core).l1Set line).length < (s.core core).ways.length
    (∃ l, (t.core core).l1Find line = some l ∧ l.valid = old.valid ||| mask ∧ l.dirty = old.dirty ||| mask ∧
      ∀ b, b < 1024 → l.data.getLsbD b = if mask.getLsbD (b / 4) then data.getLsbD b else old.data.getLsbD b) ∧
    Rules.sameHomes s t ∧ t.teams = s.teams ∧ t.nodes = s.nodes ∧ (∀ c, c ≠ core → t.core c = s.core c) ∧
    (room → (∀ other, other ≠ line → (t.core core).l1Find other = (s.core core).l1Find other) ∧
      t.net = s.net ∧ t.ucie = s.ucie ∧ t.outst = s.outst) ∧
    (¬ room → ∃ v, ((s.core core).l1Set line).getLast? = some v ∧
      (∀ other, other ≠ line → other ≠ v.line → (t.core core).l1Find other = (s.core core).l1Find other) ∧
      (v.dirty = 0 → t.net = s.net ∧ t.ucie = s.ucie ∧ t.outst = s.outst) ∧
      (v.dirty ≠ 0 → ∃ (o : Outst) (r : Req), o.kind = .wb ∧ o.core = core ∧ o.sb = none ∧ o.regs = 0 ∧
        r.op = s.nextId ∧ r.src = .core core ∧ r.line = v.line ∧ r.body = .write v.data v.dirty true ∧
        t.outst = s.outst.set s.nextId o ∧
        let sent := ({ s with nextId := s.nextId + 1, outst := s.outst.set s.nextId o } : State).toSlice (s.sliceOf v.line) r
        t.net = sent.net ∧ t.ucie = sent.ucie))

/-- R59, R127, R130, R282, R287: what a lane access raises. The lowest misaligned executing lane raises 0x008 with its address, before any
lane performs; in LDL and STL so does an address outside PSZ, with EINFO the private address (log 57). Of translation causes that of the lowest failing lane counts: 0x100, 0x101
and 0x102 suspend the team with the address and the kind of access, and the others are raised. -/
def Obligations.AccessFaults : Prop :=
  (∀ w s s0 x s' a, IssuesFrom (.ld w) s s0 x s' →
    (Rules.accesses x w (Rules.loading x w.dst)).find? (fun a => a.va.toNat % a.len != 0) = some a →
    Machine.exec (.ld w) s = .next (raised x 0x008 (a.va.setWidth 64) s0)) ∧
  (∀ w s s0 x s' a, IssuesFrom (.st w) s s0 x s' →
    (Rules.accesses x w (Mask.list x.ex)).find? (fun a => a.va.toNat % a.len != 0) = some a →
    Machine.exec (.st w) s = .next (raised x 0x008 (a.va.setWidth 64) s0)) ∧
  (∀ w s s0 x s' l, IssuesFrom (.ldl w) s s0 x s' → (Rules.loading x w.dst).find? (Rules.ownFails x s' w) = some l →
    Machine.exec (.ldl w) s = .next (raised x 0x008 (BitVec.ofInt 64 (Rules.ownAddress x w l)) s0)) ∧
  (∀ w s s0 x s' l, IssuesFrom (.stl w) s s0 x s' → (Mask.list x.ex).find? (Rules.ownFails x s' w) = some l →
    Machine.exec (.stl w) s = .next (raised x 0x008 (BitVec.ofInt 64 (Rules.ownAddress x w l)) s0)) ∧
  (∀ w s s0 x s' before a after s1 ts s2 c, IssuesFrom (.st w) s s0 x s' →
    Rules.accesses x w (Mask.list x.ex) = before ++ a :: after →
    (∀ b ∈ before ++ a :: after, b.va.toNat % b.len = 0) → Rules.reached x true before s' = some (s1, ts) → isPeer a.va = false →
    s1.translateLane x.from x.ref a.lane a.va true = (s2, .err c) →
    Machine.exec (.st w) s = .next
      (if c = 0x100 ∨ c = 0x101 ∨ c = 0x102 then
        ((x.undo s2).suspend x.ref { cause := c, kind := kindWrite, va := a.va }).issuedAt x.core x.g.quarter
       else raised x c 0 s0)) ∧
  (∀ w s s0 x s' before a after s1 ts s2 c, IssuesFrom (.ld w) s s0 x s' →
    Rules.accesses x w (Rules.loading x w.dst) = before ++ a :: after →
    (∀ b ∈ before ++ a :: after, b.va.toNat % b.len = 0) → Rules.reached x false before s' = some (s1, ts) → isPeer a.va = false →
    s1.translateLane x.from x.ref a.lane a.va false = (s2, .err c) →
    Machine.exec (.ld w) s = .next
      (if c = 0x100 ∨ c = 0x101 ∨ c = 0x102 then
        ((x.undo s2).suspend x.ref { cause := c, kind := kindRead, va := a.va }).issuedAt x.core x.g.quarter
       else raised x c 0 s0))

/-- R44, R126, R129: a value reaches its registers: below a word it is extended with zeros or, under SX, with its sign; a wider one takes
consecutive registers; other lanes keep what they held. When every piece has landed, and an answer that crosses dies has come, the operation
ends and its slot's count falls; until then it stays. -/
def Sys2Proof.Rules.LoadedValues : Prop :=
  (∀ (g : Group) (o : Outst) (a : Acc) (n r : Nat) (l : Nat), o.dst = .v (BitVec.ofNat 8 r) → o.from_ = none → r + 4 ≤ 256 → l < 32 →
    a.lane < 32 → a.pos = 0 → (a.len = 1 ∨ a.len = 2 ∨ a.len = 4 ∨ a.len = 8 ∨ a.len = 16) → n < 256 ^ a.len →
    let words := if a.len < 4 then 1 else a.len / 4
    let ext : Int := if a.len < 4 ∧ o.sx = true ∧ 2 ^ (8 * a.len - 1) ≤ n then (n : Int) - 2 ^ (8 * a.len) else n
    (∀ i, i < words → LVec.at ((landAcc g o a n).vreg (r + i)) l
      = if l = a.lane then BitVec.ofInt 32 (ext / 2 ^ (32 * i)) else LVec.at (g.vreg (r + i)) l) ∧
    (∀ k, (k < r ∨ r + words ≤ k) → (landAcc g o a n).vreg k = g.vreg k)) ∧
  (∀ (s : State) (id : Nat) (o : Outst) (k : Nat) (g : Group), s.outst.get? id = some o → o.sb = some k → s.group? o.g = some g →
    (∀ p ∈ o.pieces, p.landed = true ∧ p.away = false) →
    (s.endOut id).outst.get? id = none ∧ ∃ g', (s.endOut id).group? o.g = some g' ∧ g'.sb.getD k 0 = g.sb.getD k 0 - 1) ∧
  (∀ (s : State) (id : Nat) (o : Outst) (p : Piece), s.outst.get? id = some o → p ∈ o.pieces → (p.landed = false ∨ p.away = true) →
    s.endOut id = s) ∧
  (∀ (s : State) (o : Outst) (k : Nat) (g : Group), o.sb = some k → s.group? o.g = some g →
    (s.addOut o).outst.get? o.id = some o ∧ ∃ g', (s.addOut o).group? o.g = some g' ∧ g'.sb.getD k 0 = g.sb.getD k 0 + 1)

/-- R44, R126, R127, R129 to R132: loads, constant loads and prefetches complete, and what a load's value leaves in its registers. (That a load
waits while an earlier one is on its way to its lines is the model's choice of timing, log 30.) -/
def Obligations.Loads : Prop := Rules.LoadResults ∧ Rules.ConstantAndPrefetch ∧ Rules.LoadedValues

/-! ### Scratch, hoops, the copy queue and barriers -/

namespace Sys2Proof.Rules

/-- o[l] of R157: A plus the offset, modulo 2^32. -/
def offset (x : Ctx) (w : ExtM) (l : Nat) : Nat := (LVec.at (x.src .int w.a) l + w.offset.signExtend 32).toNat

/-- The scratch of the issuing group's core. -/
def scratch (x : Ctx) (s : State) : Mem := (s.core x.core).scratch

/-- The checks of R157 pass for some lanes: alignment, and the team's rounded scratch bytes. -/
def inScratch (x : Ctx) (w : ExtM) (ls : List Nat) : Prop :=
  ∀ l ∈ ls, offset x w l % sizeBytes w.size = 0 ∧ offset x w l + sizeBytes w.size ≤ x.team.scr

/-- The value of a handler's B registers in a lane: a small immediate takes the format of the handler, FP32 for 3, 10 and 11, two halves of
BF16 for 4 and of FP16 for 5, and is an integer for the others (R57, R238, R240). -/
def operandB (x : Ctx) (hnd regs : Nat) (o : Operand) (l : Nat) : Nat :=
  let kind : Kind := if hnd = 3 ∨ hnd = 10 ∨ hnd = 11 then .f32 else if hnd = 4 then .half false else if hnd = 5 then .half true else .int
  if regs = 1 then (LVec.at (x.src kind o) l).toNat else x.srcData o l regs

/-- One read-modify-write of scratch for every lane in order, with the old values (R159). -/
def atomsRun (x : Ctx) (w : ExtM) (regs : Nat) : List Nat → Mem → Mem × List (Nat × Nat)
  | [], m => (m, [])
  | l :: r, m =>
    let a := x.team.scrBase + offset x w l
    let n := sizeBytes w.size
    let old := m.readN a n
    let m := match handler (atomsHnd w.mod) old (operandB x (atomsHnd w.mod) regs w.b l) with
      | some v => m.writeN a n v
      | none => m
    let (m, olds) := atomsRun x w regs r m
    (m, (l, old) :: olds)

/-- Only the scratch of the core may differ. -/
def scratchOnly (x : Ctx) (s t : State) : Prop :=
  sameHomes s t ∧ t.teams = s.teams ∧ t.nodes = s.nodes ∧ t.outst = s.outst ∧ t.net = s.net ∧
  (∀ c, c ≠ x.core → t.core c = s.core c) ∧ ({ t.core x.core with scratch := [] } : Core) = { s.core x.core with scratch := [] }

/-- The lanes whose access covers a scratch byte. -/
def covering (x : Ctx) (w : ExtM) (ls : List Nat) (a : Nat) : List Nat :=
  ls.filter fun l => decide (x.team.scrBase + offset x w l ≤ a) && decide (a < x.team.scrBase + offset x w l + sizeBytes w.size)

end Sys2Proof.Rules

/-- R157: LDS completes: with no lane that loads nothing happens; else, when every executing lane passes the checks, an operation is outstanding that holds the value of every lane's bytes
of scratch for its destination, and scratch is unchanged. STS completes: every byte that a lane's access covers takes the highest such lane's
value, under n4 one nibble of it, and every other byte of scratch, and everything beside scratch, is unchanged. -/
def Sys2Proof.Rules.ScratchAccess : Prop :=
  (∀ w s x s', Issues (.lds w) s x s' →
    let ls := Rules.loading x w.dst
    let n := sizeBytes w.size
    (ls = [] → Machine.exec (.lds w) s = .next (passed (.lds w) x s')) ∧
    (ls ≠ [] → Rules.inScratch x w (Mask.list x.ex) → ∃ t o, Machine.exec (.lds w) s = .next (passed (.lds w) x t) ∧
      Rules.sameHomes s' t ∧ t.cores = s'.cores ∧ t.outst.get? s'.nextId = some o ∧ o.g = x.ref ∧ o.dst = w.dst ∧
      o.regs = sizeRegs w.size ∧ o.sx = w.sx ∧ o.lanes = x.ex ∧ o.sb = (if w.h.sbset = 15 then none else some w.h.sbset.toNat) ∧
      o.pieces.map Piece.vals = [some (ls.map fun l =>
        (l, BitVec.ofNat 128 ((Rules.scratch x s').readN (x.team.scrBase + Rules.offset x w l) n)))])) ∧
  (∀ w s x s', Issues (.sts w) s x s' → Memory.wf (Rules.scratch x s') = true →
    let ls := Mask.list x.ex
    Rules.inScratch x w ls → ∃ t, Machine.exec (.sts w) s = .next (passed (.sts w) x t) ∧
      Rules.scratchOnly x s' t ∧ Memory.wf (Rules.scratch x t) = true ∧
      ∀ a, let old := (Rules.scratch x s').read a
        (Rules.covering x w ls a = [] → (Rules.scratch x t).read a = old) ∧
        (∀ l, (Rules.covering x w ls a).getLast? = some l →
          let v := x.srcData w.b l (sizeRegs w.size) / 256 ^ (a - (x.team.scrBase + Rules.offset x w l)) % 256
          ((Rules.scratch x t).read a).toNat
            = if w.size ≠ 5 then v else if w.mod % 2 = 1 then old.toNat % 16 + v % 16 * 16 else old.toNat / 16 * 16 + v % 16))

/-- R159: ATOMS completes: the executing lanes act on scratch one after another in ascending order, each seeing the results of those before
it; with a destination an operation is outstanding with the old values. Nothing beside scratch changes otherwise. -/
def Sys2Proof.Rules.ScratchAtomics : Prop :=
  ∀ w s x s', Issues (.atoms w) s x s' → Rules.inScratch x w (Mask.list x.ex) →
    let regs := if w.mod = 13 then 4 else if w.mod = 1 ∨ w.mod = 12 then 2 else 1
    let r := Rules.atomsRun x w regs (Mask.list x.ex) (Rules.scratch x s')
    ∃ t, Machine.exec (.atoms w) s = .next (passed (.atoms w) x t) ∧ Rules.sameHomes s' t ∧ Rules.scratch x t = r.1 ∧
      (w.dst = .zero → t.outst = s'.outst ∧ t.teams = s'.teams) ∧
      (w.dst ≠ .zero → x.ex ≠ 0 → ∃ o, t.outst.get? s'.nextId = some o ∧ o.g = x.ref ∧ o.dst = w.dst ∧ o.lanes = x.ex ∧
        o.pieces.map Piece.vals = [some ((match w.dst with | .s _ => r.2.take 1 | _ => r.2).map fun p : Nat × Nat => (p.1, BitVec.ofNat 128 p.2))])

/-- R148, R156, R157: scratch accesses have MOD2 01; of the executing lanes a misaligned one raises 0x008 with the lowest such lane's offset; else
one that passes the team's rounded scratch bytes raises 0x040; and no lane performs. For a load these are all executing lanes too, also
where the destination is uniform. -/
def Sys2Proof.Rules.ScratchChecks : Prop :=
  (∀ w : ExtM, ((Instr.lds w).wf = true → w.mod2 = 1) ∧ ((Instr.sts w).wf = true → w.mod2 = 1) ∧ ((Instr.atoms w).wf = true → w.mod2 = 1)) ∧
  ∀ w s s0 x s' i, (i = Instr.lds w ∨ i = .sts w ∨ i = .atoms w) → IssuesFrom i s s0 x s' →
    let ls := Mask.list x.ex
    (∀ l, ls.find? (fun l => Rules.offset x w l % sizeBytes w.size != 0) = some l →
      Machine.exec i s = .next (raised x 0x008 (BitVec.ofNat 64 (Rules.offset x w l)) s0)) ∧
    ((∀ l ∈ ls, Rules.offset x w l % sizeBytes w.size = 0) →
      (∃ l ∈ ls, x.team.scr < Rules.offset x w l + sizeBytes w.size) → Machine.exec i s = .next (raised x 0x040 0 s0))

/-- R157, R159: scratch loads, stores and atomics complete, with their checks over all executing lanes. R148: an access at or beyond the team's
rounded scratch bytes raises 0x040 and none of its bytes performs. -/
def Obligations.Scratch : Prop := Rules.ScratchAccess ∧ Rules.ScratchAtomics ∧ Rules.ScratchChecks

namespace Sys2Proof.Rules

/-- The tag of a slot, the index after one, and the slot word (R150, R160). -/
def tag (h : Hoop) (i : Nat) : Tag := h.tag.getD i .empty
def after (h : Hoop) (i : Nat) : Nat := (i + 1) % h.nslot
def slotWord (h : Hoop) (i : Nat) : Word :=
  BitVec.ofNat 32 (h.off + i * h.ssz + i * 2 ^ 24 + (if h.ph.getD i false then 2 ^ 28 else 0))

/-- A hoop of the issuing group's team. -/
def hoop (x : Ctx) (s : State) (n : Nat) : Option Hoop := (s.team? x.ref.team).bind fun t => t.hoops.get? n

end Sys2Proof.Rules

/-- R151, R155, R161: the hoop instructions complete. ACQ on an EMPTY slot makes it FILLING, moves NACQ on and writes the slot word and true;
else it writes false alone. WAIT on a FULL slot makes it DRAINING, moves NWT on and writes the slot word; else the split waits as the hoop's
newest waiter. REL on a DRAINING slot makes it EMPTY, flips its phase, clears its fill counter and moves NREL on; else it raises 0x042. With no
executing lane nothing happens, and an unconfigured hoop raises 0x041. When a slot becomes FULL or NWT moves, the oldest waiter takes the slot that NWT
names if it is FULL, and then the next waiter the next slot. -/
def Obligations.HoopResults : Prop :=
  (∀ w s s0 x s' i, (i = Instr.hoopAcq w ∨ i = .hoopWait w ∨ i = .hoopRel w) → IssuesFrom i s s0 x s' →
    (x.ex = 0 → Machine.exec i s = .next (passed i x s')) ∧
    (x.ex ≠ 0 → Rules.hoop x s' (w.f 11 9) = none → Machine.exec i s = .next (raised x 0x041 0 s0))) ∧
  (∀ w s x s' h, Issues (.hoopAcq w) s x s' → x.ex ≠ 0 → Rules.hoop x s' (w.f 11 9) = some h →
    Machine.exec (.hoopAcq w) s = .next (passed (.hoopAcq w) x
      (if Rules.tag h h.nacq = .empty then
        x.nowP (w.f 14 12) x.ex ((x.now (fun _ => Rules.slotWord h h.nacq) s').tagHoop x.ref.team (w.f 11 9) fun h : Hoop =>
          { h with tag := h.tag.set h.nacq .filling, nacq := Rules.after h h.nacq })
       else x.nowP (w.f 14 12) 0 s'))) ∧
  (∀ w s x s' h, Issues (.hoopWait w) s x s' → x.ex ≠ 0 → Rules.hoop x s' (w.f 11 9) = some h →
    Machine.exec (.hoopWait w) s = .next
      (if Rules.tag h h.nwt = .full then
        passed (.hoopWait w) x ((x.now (fun _ => Rules.slotWord h h.nwt) s').tagHoop x.ref.team (w.f 11 9) fun h =>
          { h with tag := h.tag.set h.nwt .draining, nwt := Rules.after h h.nwt })
       else
        slept x { on := .hoop (w.f 11 9), ipc := x.pc, dst := w.dst, wide := false, pd := none, lanes := x.ex }
          (s'.modHoop x.ref.team (w.f 11 9) fun h => { h with waiters := h.waiters ++ [{ g := x.ref, slot := x.g.cur }] }))) ∧
  (∀ w s s0 x s' h, IssuesFrom (.hoopRel w) s s0 x s' → x.ex ≠ 0 → Rules.hoop x s' (w.f 11 9) = some h →
    Machine.exec (.hoopRel w) s = .next
      (if Rules.tag h h.nrel = .draining then
        passed (.hoopRel w) x (s'.tagHoop x.ref.team (w.f 11 9) fun h =>
          { h with tag := h.tag.set h.nrel .empty, ph := h.ph.set h.nrel (!h.ph.getD h.nrel false), fill := h.fill.erase h.nrel
                   nrel := Rules.after h h.nrel })
       else raised x 0x042 0 s0)) ∧
  (∀ (s : State) (t n k : Nat) (tm : Team) (h : Hoop), s.team? t = some tm → tm.hoops.get? n = some h →
    (∀ w r, h.waiters = w :: r → Rules.tag h h.nwt = .full →
      s.hoopWake t n (k + 1) =
        ((s.tagHoop t n fun h => { h with tag := h.tag.set h.nwt .draining, nwt := Rules.after h h.nwt, waiters := r }).wake
          w.g w.slot { flag := true, lo := LVec.splat (Rules.slotWord h h.nwt), hi := LVec.zero }).hoopWake t n k) ∧
    (h.waiters = [] ∨ Rules.tag h h.nwt ≠ .full → s.hoopWake t n (k + 1) = s))

namespace Sys2Proof.Rules

/-- The command of CP (R164, R165): its source and destination, virtual or in scratch, and its length. -/
def cp (x : Ctx) (w : ExtA) : CopyCmd :=
  let sk := w.h.mod.getLsbD 0
  let dk := w.h.mod.getLsbD 1
  { kind := 1, pad := 0, clip := false, dk, sk, n := 0
    src := if sk then (LVec.at (x.src .int w.a) 0).toNat else (x.src64 w.a 0).toNat
    dst := if dk then (LVec.at (x.src .int w.b) 0).toNat else (x.src64 w.b 0).toNat
    sstr := 0, dstr := 0, rowb := 0, boxh := 0, bstr := 0, idx := 0, srows := 0, srowb := 0
    len := (LVec.at (x.src .int w.c) 0).toNat }

/-- The state in which a command has been entered (R163). -/
def entered (x : Ctx) (w : ExtA) (c : CopyCmd) (s : State) : State :=
  x.nowP (w.f 14 12) x.ex (({ s with nextId := s.nextId + 1 } : State).modCore x.core fun k =>
    { k with cq := k.cq ++ [{ id := s.nextId, team := x.ref.team, cmd := c }] })

end Sys2Proof.Rules

/-- R163 to R166, R169: the copy instructions of a copy group complete. A full queue of 32 entries writes false and changes nothing else; else a
command that passes the checks is entered last, with true in the predicate, and one that does not raises 0x047. CP forms its command from its
operands; the others take their 64-byte block from scratch, which must be aligned and in range. A group of another role raises 0x043, even
with no lane executing (log 73). CPQ reads the free entries and the team's own. -/
def Sys2Proof.Rules.CopyResults : Prop :=
  (∀ w s s0 x s' i k, ((i = Instr.cp w ∧ k = 1) ∨ (i = .cp2d w ∧ k = 2) ∨ (i = .cpg w ∧ k = 3) ∨ (i = .cps w ∧ k = 4)) →
    IssuesFrom i s s0 x s' →
    (x.g.role ≠ .copy → Machine.exec i s = .next (raised x 0x043 0 s0)) ∧
    (x.g.role = .copy →
      (x.ex = 0 → Machine.exec i s = .next (passed i x s')) ∧
      (x.ex ≠ 0 → 32 ≤ (s'.core x.core).cq.length → Machine.exec i s = .next (passed i x (x.nowP (w.f 14 12) 0 s'))) ∧
      (x.ex ≠ 0 → (s'.core x.core).cq.length < 32 →
        let off := (LVec.at (x.src .int w.a) 0).toNat
        let block := (Rules.scratch x s').bytes (x.team.scrBase + off) 64
        let c := Rules.cp x w
        let fits := c.len = 0 ∨ ((c.sk = true → c.src + c.len ≤ x.team.scr) ∧ (c.dk = true → c.dst + c.len ≤ x.team.scr))
        (k = 1 → fits → Machine.exec i s = .next (passed i x (Rules.entered x w c s'))) ∧
        (k = 1 → ¬ fits → Machine.exec i s = .next (raised x 0x047 0 s0)) ∧
        (k ≠ 1 → (off % 64 ≠ 0 ∨ x.team.scr < off + 64 ∨ blockOk block k x.team.scr = false) →
          Machine.exec i s = .next (raised x 0x047 0 s0)) ∧
        (k ≠ 1 → off % 64 = 0 → off + 64 ≤ x.team.scr → blockOk block k x.team.scr = true →
          Machine.exec i s = .next (passed i x (Rules.entered x w (cmdOf block) s')))))) ∧
  (∀ w s x s', Issues (.cpq w) s x s' →
    let cq := (s'.core x.core).cq
    Machine.exec (.cpq w) s = .next (passed (.cpq w) x
      (x.now (fun _ => BitVec.ofNat 32 ((32 - cq.length) * 256 + (cq.filter fun e => e.team == x.ref.team).length)) s')))

/-- R165, R166: the fields of a command block, little-endian, and that an accepted block has the KIND of its opcode, a row size from 1 to
2^20, boxes of 1 to 4,096 rows, aligned patch records, and every byte that it can address in scratch within the team's scratch. -/
def Sys2Proof.Rules.CommandBlocks : Prop :=
  ∀ (b : List Byte) (kind scr : Nat), b.length = 64 → 2 ≤ kind → kind ≤ 4 →
    let u (off n : Nat) : Nat := ((List.range n).map fun i => (b.getD (off + i) 0).toNat * 256 ^ i).sum
    let c := cmdOf b
    c.n = u 0x04 4 ∧ c.src = u 0x08 8 ∧ c.dst = u 0x10 8 ∧ c.sstr = u 0x18 4 ∧ c.dstr = u 0x1C 4 ∧ c.rowb = u 0x20 4 ∧
    c.boxh = u 0x24 4 ∧ c.bstr = u 0x28 4 ∧ c.idx = u 0x2C 4 ∧ c.srows = u 0x30 4 ∧ c.srowb = u 0x34 4 ∧
    c.kind = u 0 4 % 16 ∧ c.sk = (u 0 4).testBit 4 ∧ c.dk = (u 0 4).testBit 5 ∧ c.clip = (u 0 4).testBit 7 ∧
    c.pad.toNat = u 0 4 / 256 % 256 ∧
    (blockOk b kind scr = true →
      c.kind = kind ∧ 1 ≤ c.rowb ∧ c.rowb ≤ 2 ^ 20 ∧ (kind = 3 → c.dk = true) ∧ (kind = 4 → c.sk = true ∧ c.dk = false) ∧
      (kind ≠ 2 → 1 ≤ c.boxh ∧ c.boxh ≤ 4096 ∧ c.idx % 16 = 0 ∧ c.idx + 16 * c.n ≤ scr) ∧
      (kind = 2 → c.n ≠ 0 → (c.sk = true → c.src + (c.n - 1) * c.sstr + c.rowb ≤ scr) ∧
        (c.dk = true → c.dst + (c.n - 1) * c.dstr + c.rowb ≤ scr)) ∧
      (kind = 3 → c.n ≠ 0 → c.dst + (c.n - 1) * c.bstr + (c.boxh - 1) * c.dstr + c.rowb ≤ scr) ∧
      (kind = 3 → c.sk = true → c.srows ≠ 0 → c.srowb ≠ 0 → c.src + (c.srows - 1) * c.sstr + c.srowb ≤ scr) ∧
      (kind = 4 → c.n ≠ 0 → c.src + (c.n - 1) * c.bstr + (c.boxh - 1) * c.sstr + c.rowb ≤ scr))

/-- R163 to R166, R169: the copy instructions complete: CP, CP2D, CPG and CPS for a copy group, CPQ for any role; and the fields and bounds of
command blocks. (That a group of another role raises 0x043 even with no lane executing is the model's reading, log 73.) -/
def Obligations.CopyCommands : Prop := Rules.CopyResults ∧ Rules.CommandBlocks

namespace Sys2Proof.Rules

/-- The lanes that have arrived cover the live lanes of a group. -/
def covered (lanes : NMap Mask) (i : Nat) (g : Group) : Bool := g.live &&& ~~~(lanes.getD i 0) == 0

/-- Every group of a team with a live lane has arrived. -/
def everyGroup (tm : Team) (lanes : NMap Mask) : Prop := ∀ i g, tm.groups[i]? = some g → g.live = 0 ∨ covered lanes i g = true

/-- Role barrier k after the arrival of a split with n (R170): its lanes, the groups that have arrived, and the n of the first of them. -/
def roleBar (x : Ctx) (tm : Team) (k n : Nat) : Bar :=
  let b := tm.barr.getD k {}
  let lanes := b.lanes.set x.ref.grp (b.lanes.getD x.ref.grp 0 ||| x.act)
  let counts := b.counts.set x.ref.grp n
  let all := (tm.groups.zipIdx.filter fun y => (lanes.get? y.2).isSome && !b.arrived.contains y.2 && covered lanes y.2 y.1).map Prod.snd
  { b with lanes, counts, first := b.first.or (all.head?.bind counts.get?), arrived := b.arrived ++ all }

/-- The state in which role barrier k has completed: a new generation, the progress counts of the roles that arrived reset, and the
waiters woken (R141, R170). -/
def roleDone (x : Ctx) (tm : Team) (k : Nat) (b : Bar) (s : State) : State :=
  let roles := b.arrived.filterMap fun i => (tm.groups[i]?).map Group.role
  (s.modTeam x.ref.team fun t =>
    { t with barr := t.barr.set k { gen := b.gen + 1 }
             groups := t.groups.map fun g => if roles.contains g.role then { g with progress := 0 } else g }).wakeAll b.waiters

/-- The issuing split as a waiter. -/
def me (x : Ctx) : Waiter := { g := x.ref, slot := x.g.cur }

/-- A wait without a result. -/
def plain (x : Ctx) (on : WaitFor) : Wait := { on, ipc := x.pc, dst := .zero, wide := false, pd := none, lanes := x.ex }

end Sys2Proof.Rules

/-- R141, R170, R171, R228: the barriers of a team complete. None issues while an earlier event of its split's lanes has not performed: its
arrival is a boundary of scope CORE, and only then counts (log 39). BART adds the split's lanes; when every group with a live lane has arrived, the generation ends, all progress counts
are 0, the waiters wake and the split goes on, else it waits. BARR adds its lanes to role barrier k, whose n is that of the first group to
arrive; the generation ends when n groups have arrived, with the progress of their roles reset; ARV goes on always, WT waits unless its own arrival
ended it. A group that has arrived already raises 0x04A. -/
def Sys2Proof.Rules.TeamBarriers : Prop :=
  (∀ w s x s' i, (i = Instr.bart w ∨ i = .barrArv w ∨ i = .barrWt w) → Issues i s x s' → s'.unperformed x.ref x.act ≠ [] →
    Machine.exec i s = .next (Rules.waits x s')) ∧
  (∀ w s x s' tm, Issues (.bart w) s x s' → s'.unperformed x.ref x.act = [] → s'.team? x.ref.team = some tm →
    let lanes := tm.bart.lanes.set x.ref.grp (tm.bart.lanes.getD x.ref.grp 0 ||| x.act)
    (Rules.everyGroup tm lanes → Machine.exec (.bart w) s = .next (passed (.bart w) x
      ((s'.modTeam x.ref.team fun t =>
        { t with bart := { gen := tm.bart.gen + 1 }, groups := t.groups.map fun g => { g with progress := 0 } }).wakeAll tm.bart.waiters))) ∧
    (¬ Rules.everyGroup tm lanes → Machine.exec (.bart w) s = .next (slept x (Rules.plain x .bart)
      (s'.modTeam x.ref.team fun t => { t with bart := { t.bart with lanes, waiters := t.bart.waiters ++ [Rules.me x] } })))) ∧
  (∀ w s s0 x s' tm i, (i = Instr.barrArv w ∨ i = .barrWt w) → IssuesFrom i s s0 x s' → s'.unperformed x.ref x.act = [] →
    s'.team? x.ref.team = some tm →
    let k := w.f 11 9
    let b := Rules.roleBar x tm k (w.f 15 12 + 1)
    let stored (b : Bar) := s'.modTeam x.ref.team fun t => { t with barr := t.barr.set k b }
    ((tm.barr.getD k {}).arrived.contains x.ref.grp = true → Machine.exec i s = .next (raised x 0x04A 0 s0)) ∧
    ((tm.barr.getD k {}).arrived.contains x.ref.grp = false →
      (b.first = some b.arrived.length → Machine.exec i s = .next (passed i x (Rules.roleDone x tm k b s'))) ∧
      (b.first ≠ some b.arrived.length → i = .barrArv w → Machine.exec i s = .next (passed i x (stored b))) ∧
      (b.first ≠ some b.arrived.length → i = .barrWt w →
        Machine.exec i s = .next (slept x (Rules.plain x (.barr k)) (stored { b with waiters := b.waiters ++ [Rules.me x] })))))

namespace Sys2Proof.Rules

/-- A command of the core's copy queue that is not paused writes among the bytes of the scratch ways by which two numbers of ways differ:
an engine may still write them (R146, R163). -/
def mayWrite (s : State) (core n k : Nat) : Prop :=
  ∃ e ∈ (s.core core).cq, ∃ t, s.team? e.team = some t ∧ e.cmd.dk = true ∧ e.paused = false ∧
    t.scrBase + e.cmd.dst < max n k * 2 ^ 17 ∧ min n k * 2 ^ 17 < t.scrBase + e.cmd.dst + e.cmd.span

end Sys2Proof.Rules

/-- R155, R172, R173, R146: FENCES completes and advances the generation of every operand handle of its team's matrix unit. WAYM completes in
privileged code: it makes the ways asked for, and no fewer than the resident teams need, scratch, and reads back WMASK; in other code it raises
0x044; while a copy command may still write a way that would change, it issues again later. The ways asked for are the run of one-bits from
way 8 on, which has no gap (log 20). Victim translations go as far as the cache units left to them are too few (R149). With no executing lane
neither does anything, WAYM of kernel code too (log 73). -/
def Obligations.FencesAndWays : Prop :=
  (∀ w s x s', Issues (.fences w) s x s' →
    Machine.exec (.fences w) s = .next (passed (.fences w) x (if x.ex = 0 then s' else s'.bumpGens x.ref.team))) ∧
  (∀ (s : State) (t : Nat) (tm : Team) (c : Nat), s.team? t = some tm → tm.core? = some c →
    ((s.core c).mx.owner = some t → ∀ i, i < 8 →
      ((s.bumpGens t).core c).mx.hnd.getD i {} = { (s.core c).mx.hnd.getD i {} with gen := ((s.core c).mx.hnd.getD i {}).gen + 1 }) ∧
    ((s.core c).mx.owner ≠ some t → s.bumpGens t = s)) ∧
  (∀ w s s0 x s', IssuesFrom (.waym w) s s0 x s' →
    (x.ex = 0 → Machine.exec (.waym w) s = .next (passed (.waym w) x s')) ∧
    (x.ex ≠ 0 → x.team.priv = false → Machine.exec (.waym w) s = .next (raised x 0x044 0 s0)) ∧
    (x.ex ≠ 0 → x.team.priv = true →
      let asked := ((List.range 8).takeWhile fun i => (LVec.at (x.src .int w.a) (Mask.lowest x.ex)).getLsbD (8 + i)).length
      let n := max asked (s'.heldWays x.core)
      let k := (s'.core x.core).scrWays
      (Rules.mayWrite s' x.core n k → Machine.exec (.waym w) s = .next (Rules.waits x s')) ∧
      (¬ Rules.mayWrite s' x.core n k → Machine.exec (.waym w) s = .next (passed (.waym w) x
        (x.now (fun _ => BitVec.ofNat 32 ((2 ^ n - 1) * 256)) ((s'.setWays x.core x.ref n).trimVictims x.core)))) ∧
      (let t := (s'.setWays x.core x.ref n).trimVictims x.core
       (t.core x.core).victims.length ≤ t.victimRoom x.core ∧ ∀ c, c ≠ x.core → (t.core c).victims = (s'.core c).victims) ∧
      ((s'.setWays x.core x.ref n).core x.core).wmask = BitVec.ofNat 32 ((2 ^ n - 1) * 256) ∧
      (∀ a, a < n * 2 ^ 17 → ((s'.setWays x.core x.ref n).core x.core).scratch.read a = (s'.core x.core).scratch.read a)))

namespace Sys2Proof.Rules

/-- Cluster barrier k after an arrival of the issuing split with n (R204). -/
def clusterBar (x : Ctx) (b : CBar) (n : Nat) : CBar :=
  let ls := b.lanes.getD x.ref.team []
  { b with lid := some x.team.lid, counts := b.counts.set x.ref.team n
           lanes := b.lanes.set x.ref.team (ls.set x.ref.grp (ls.getD x.ref.grp 0 ||| x.act)) }

end Sys2Proof.Rules

/-- R204: BARC with PH begins a PHASE of scope PKG and issues again after it (log 39). BARC without PH, or after its PHASE, completes: the split's lanes arrive for its team; when every live group of the team has arrived
the team has, and when n teams have, n that of the first, the generation ends, the waiters wake and the split goes on; else it waits. A barrier held
by another launch raises 0x081; a team that has arrived, or names another n than before, 0x082. -/
def Sys2Proof.Rules.ClusterBarriers : Prop :=
  (∀ w s x s', Issues (.barc w) s x s' → w.mod % 2 = 1 → x.g.phased = false →
    Machine.exec (.barc w) s =
      .next (Rules.waits x ((s'.phasePkg x.core x.ref x.act).modGroup x.ref fun g => { g with phased := true }))) ∧
  ∀ w s s0 x s' tm, IssuesFrom (.barc w) s s0 x s' → s'.team? x.ref.team = some tm → (w.mod % 2 = 0 ∨ x.g.phased = true) →
    let cl := x.core / 8
    let k := w.f 10 9
    let n := w.f 17 12 + 1
    let b := (s'.cluster cl).links.bars.getD k {}
    let b' := Rules.clusterBar x b n
    let all := Rules.everyGroup tm (b'.lanes.getD x.ref.team [])
    let first := b.first.or (some n)
    ((∃ l, b.lid = some l ∧ l ≠ x.team.lid) → Machine.exec (.barc w) s = .next (raised x 0x081 0 s0)) ∧
    ((b.lid = none ∨ b.lid = some x.team.lid) →
      ((x.ref.team ∈ b.arrived ∨ ∃ m, b.counts.get? x.ref.team = some m ∧ m ≠ n) →
        Machine.exec (.barc w) s = .next (raised x 0x082 0 s0)) ∧
      (x.ref.team ∉ b.arrived → (∀ m, b.counts.get? x.ref.team = some m → m = n) →
        (all → first = some (b.arrived.length + 1) →
          Machine.exec (.barc w) s = .next (passed (.barc w) x ((s'.modBar cl k fun _ => { gen := b.gen + 1 }).wakeAll b.waiters))) ∧
        (all → first ≠ some (b.arrived.length + 1) →
          Machine.exec (.barc w) s = .next (slept x (Rules.plain x (.barc k)) (s'.modBar cl k fun _ =>
            { b' with first, arrived := b.arrived ++ [x.ref.team], waiters := b.waiters ++ [Rules.me x] }))) ∧
        (¬ all → Machine.exec (.barc w) s = .next (slept x (Rules.plain x (.barc k)) (s'.modBar cl k fun _ =>
            { b' with waiters := b.waiters ++ [Rules.me x] })))))

/-- R141, R170, R171, R204, R228: BART, BARR.ARV, BARR.WT and BARC complete. (That an arrival issues, and counts, only once the earlier events
have performed, and that BARC with PH issues again after its phase, are the model's mechanism, log 39.) -/
def Obligations.Barriers : Prop := Rules.TeamBarriers ∧ Rules.ClusterBarriers

/-! ### The matrix unit's instructions -/

namespace Sys2Proof.Rules

/-- The matrix unit of the issuing group's core. -/
def mx (x : Ctx) (s : State) : MxUnit := (s.core x.core).mx

def modMx (x : Ctx) (f : MxUnit → MxUnit) (s : State) : State := s.modCore x.core fun c => { c with mx := f c.mx }

/-- A value of a group-uniform operand: that of the lowest executing lane (R155, R184). -/
def uni (x : Ctx) (o : Operand) : Nat := (LVec.at (x.src .int o) (Mask.lowest x.ex)).toNat

/-- The state in which an instruction has entered work as the last entry, and its predicate is true (R183, R187). -/
def enter (x : Ctx) (pd : Nat) (work : MxWork) (s : State) : State :=
  x.nowP pd x.ex (modMx x (fun m => { m with entries := m.entries ++
    [{ id := s.nextId, work, ready := if (mx x s).entries.isEmpty then x.clk + 3 else x.clk }] }) { s with nextId := s.nextId + 1 })

/-- The matrix instructions. -/
def matrixInstr (w : ExtA) : List Instr :=
  [.wbld w, .mloop w, .mstep w, .mwait w, .accrd w, .accwr w, .accclr w, .ohnd w, .ohndClr w]

/-- The instruction enters an accumulator operation on tiles, behind the outstanding entries that name them (R186). -/
def queued (x : Ctx) (op : AccOp) (tile n : Nat) (s : State) : State :=
  modMx x (fun m => { m with accq := m.accq ++ [{ op, after := m.entries.filterMap fun e =>
    match e.work with
    | .loop t _ _ _ _ _ _ _ _ => if tile ≤ t ∧ t < tile + n then some e.id else none
    | _ => none }] }) s

/-- The formats of a step's A and B handles, with the elements and scales of a row, and whether the tile holds INT32 (R175); MXINT8 stands by
itself. -/
def stepSets : List (Fmt × Fmt × Nat × Nat × Bool) :=
  [(.bf16, .bf16, 48, 0, false), (.e4m3, .e4m3, 96, 0, false), (.e4m3, .e5m2, 96, 0, false), (.e5m2, .e4m3, 96, 0, false)
   , (.e5m2, .e5m2, 96, 0, false), (.mxf8e4m3, .mxf8e4m3, 96, 3, false), (.mxf8e4m3, .mxf8e5m2, 96, 3, false)
   , (.mxf8e5m2, .mxf8e4m3, 96, 3, false), (.mxf8e5m2, .mxf8e5m2, 96, 3, false), (.s8, .s8, 96, 0, true), (.l6, .l6, 128, 0, false)
   , (.mxl6, .mxl6, 128, 4, false), (.e2m1, .e2m1, 192, 0, false), (.mxf4, .mxf4, 192, 6, false)]

/-- The reserved fields of a loop block are zero, and its offsets are multiples of 16 and 8 (R177, R185). -/
def blockZero (r : Nat → Nat) : Prop := r 4 < 2 ^ 18 ∧ r 6 < 2 ^ 18 ∧ r 7 < 2 ^ 16
def blockAligned (r : Nat → Nat) : Prop := r 0 % 16 = 0 ∧ r 1 % 16 = 0 ∧ r 2 / 2 ^ 16 % 16 = 0 ∧ r 4 % 8 = 0 ∧ r 5 % 8 = 0

/-- In every step of `cnt`, each of `n` rows of `len` bytes, `str` apart, lies from 0 up to a limit (R177, R185). -/
def within (base inc : Int) (cnt n str len limit : Nat) : Prop :=
  ∀ t i : Nat, t < cnt → i < n → 0 ≤ base + inc * t + str * i ∧ base + inc * t + str * i + len ≤ limit

/-- The A rows and scales of every step lie in scratch, the B rows and scales in the weight buffer; the scale fields count only where the set
has scales (R177, R185). -/
def rowsInScratch (r : Nat → Nat) (os : OpSet) (cnt scr : Nat) : Prop :=
  within (r 0) (BitVec.ofNat 32 (r 1)).toInt cnt 16 (r 2 / 2 ^ 16) 96 scr ∧
  (os.nb ≠ 0 → within (r 3) (BitVec.ofNat 16 (r 2)).toInt cnt 16 os.nb os.nb scr)
def rowsInBuffer (r : Nat → Nat) (os : OpSet) (wb : Word) (cnt : Nat) : Prop :=
  within (r 4) (BitVec.ofNat 32 (r 5)).toInt cnt 12 (rowSize wb) (rowSize wb) 262144 ∧
  (os.nb ≠ 0 → within (r 6) (BitVec.ofNat 16 (r 7)).toInt cnt 12 os.nb os.nb 262144)

end Sys2Proof.Rules

/-- R139, R155, R183, R184: a matrix instruction of a group of another role raises 0x043; with no executing lane it does nothing. WBLD checks its
multiples of 8, scratch and the weight buffer, in this order; a failing check raises its cause. Then, with four entries outstanding, its
predicate becomes false and nothing else changes; with fewer it completes: its copy is entered last and the predicate becomes true. (EINFO 0 of
0x008 is the model's reading, log 11.) -/
def Sys2Proof.Rules.MatrixEntries : Prop :=
  (∀ w i s s0 x s', i ∈ Rules.matrixInstr w → IssuesFrom i s s0 x s' → x.g.role ≠ .matrix →
    Machine.exec i s = .next (raised x 0x043 0 s0)) ∧
  (∀ w i s x s', i ∈ Rules.matrixInstr w → (∀ v, i ≠ .accrd v) → Issues i s x s' → x.g.role = .matrix → x.ex = 0 →
    Machine.exec i s = .next (passed i x s')) ∧
  (∀ w s s0 x s', IssuesFrom (.wbld w) s s0 x s' → x.g.role = .matrix → x.ex ≠ 0 →
    let a := Rules.uni x w.a
    let b := Rules.uni x w.b
    let c := Rules.uni x w.c
    ((a % 8 ≠ 0 ∨ b % 8 ≠ 0 ∨ c % 8 ≠ 0) → Machine.exec (.wbld w) s = .next (raised x 0x008 0 s0)) ∧
    (a % 8 = 0 → b % 8 = 0 → c % 8 = 0 →
      (x.team.scr < a + b → Machine.exec (.wbld w) s = .next (raised x 0x040 0 s0)) ∧
      (a + b ≤ x.team.scr → 262144 < c + b → Machine.exec (.wbld w) s = .next (raised x 0x051 0 s0)) ∧
      (a + b ≤ x.team.scr → c + b ≤ 262144 →
        (4 ≤ (Rules.mx x s').entries.length → Machine.exec (.wbld w) s = .next (passed (.wbld w) x (x.nowP (w.f 14 12) 0 s'))) ∧
        ((Rules.mx x s').entries.length < 4 →
          Machine.exec (.wbld w) s = .next (passed (.wbld w) x (Rules.enter x (w.f 14 12) (.wbld a b c 0) s'))))))

/-- R175, R177, R181, R183, R185: MLOOP and MSTEP make their checks in order, each failing one with its cause: a tile above 63 0x050; a clear handle 0x052;
handles that form no set, or stand on the wrong side, 0x054; reserved fields of the block 0x002; misaligned offsets 0x008 (EINFO 0: the model's reading,
log 11); an A row or scale outside scratch 0x040; a B row or scale outside the weight buffer 0x051. When every check passes, then with four entries
outstanding the predicate becomes false and nothing else changes; with fewer the instruction completes: the loop is entered last, with both
handle words and the block, and the predicate becomes true. The sets give the elements and scales of a row. -/
def Sys2Proof.Rules.LoopChecks : Prop :=
  (∀ w s s0 x s' i tile cnt, IssuesFrom i s s0 x s' → x.g.role = .matrix → x.ex ≠ 0 →
    ((i = .mloop w ∧ tile = w.f 31 26 ∧ cnt = Rules.uni x w.b % 2 ^ 16) ∨
      (i = .mstep w ∧ tile = w.f 31 26 + Rules.uni x w.c ∧ cnt = 1)) →
    let m := Rules.mx x s'
    let r (k : Nat) : Nat := (x.srcReg w.a k 0).toNat
    let a := m.hnd.getD (w.f 22 20) {}
    let b := m.hnd.getD (w.f 25 23) {}
    let raises (c : Nat) : Prop := Machine.exec i s = .next (raised x c 0 s0)
    (63 < tile → raises 0x050) ∧
    (tile ≤ 63 → a.set = false ∨ b.set = false → raises 0x052) ∧
    (tile ≤ 63 → a.set = true → b.set = true →
      (opSet a.word b.word = none ∨ hSide a.word = true ∨ hSide b.word = false → raises 0x054) ∧
      ∀ os, opSet a.word b.word = some os → hSide a.word = false → hSide b.word = true →
        (¬ Rules.blockZero r → raises 0x002) ∧
        (Rules.blockZero r → ¬ Rules.blockAligned r → raises 0x008) ∧
        (Rules.blockZero r → Rules.blockAligned r → ¬ Rules.rowsInScratch r os cnt x.team.scr → raises 0x040) ∧
        (Rules.blockZero r → Rules.blockAligned r → Rules.rowsInScratch r os cnt x.team.scr → ¬ Rules.rowsInBuffer r os b.word cnt →
          raises 0x051) ∧
        (Rules.blockZero r → Rules.blockAligned r → Rules.rowsInScratch r os cnt x.team.scr → Rules.rowsInBuffer r os b.word cnt →
          (4 ≤ m.entries.length → Machine.exec i s = .next (passed i x (x.nowP (w.f 14 12) 0 s'))) ∧
          (m.entries.length < 4 → Machine.exec i s = .next (passed i x (Rules.enter x (w.f 14 12)
            (.loop tile (w.mod == 1) (w.f 22 20) (w.f 25 23) a.word b.word (loopBlk r) cnt 0) s')))))) ∧
  (∀ r : Nat → Nat, (∀ k, r k < 2 ^ 32) →
    let k := loopBlk r
    k.aoff = r 0 ∧ k.ainc = (BitVec.ofNat 32 (r 1)).toInt ∧ k.sainc = (BitVec.ofNat 16 (r 2)).toInt ∧ k.astr = r 2 / 2 ^ 16 ∧ k.saoff = r 3 ∧
    k.boff = r 4 % 2 ^ 18 ∧ k.binc = (BitVec.ofNat 32 (r 5)).toInt ∧ k.sboff = r 6 % 2 ^ 18 ∧ k.sbinc = (BitVec.ofNat 16 (r 7)).toInt) ∧
  (∀ (wa wb : Word) (fa fb : Fmt), hFmt wa = some fa → hFmt wb = some fb → (fa ≠ .mxi8 ∨ fb ≠ .mxi8) →
    opSet wa wb = (Rules.stepSets.find? fun y => y.1 == fa && y.2.1 == fb).map fun y => ⟨y.2.2.1, y.2.2.2.1, y.2.2.2.2⟩) ∧
  (∀ wa wb : Word, hFmt wa = some .mxi8 → hFmt wb = some .mxi8 →
    opSet wa wb = (if hNosc wa ∧ hNosc wb then some ⟨96, 0, true⟩ else if ¬hNosc wa ∧ ¬hNosc wb then some ⟨96, 3, false⟩ else none)) ∧
  (∀ wa wb : Word, (hFmt wa = none ∨ hFmt wb = none) → opSet wa wb = none)

/-- R139, R155, R175, R177, R181, R183 to R185: WBLD, MLOOP and MSTEP complete: what each enters when its checks pass, and the cause that each
failing check raises. (EINFO 0 of 0x008 and 0x052, log 11, 0x043 with no executing lane, log 73, and when an idle sequencer begins, log 74,
are the model's readings.) -/
def Obligations.MatrixEntries : Prop := Rules.MatrixEntries ∧ Rules.LoopChecks

/-- R181, R184, R186, R188 to R191: the other matrix instructions complete for a matrix group. MWAIT with at most n entries outstanding writes the
status word, else its split waits. ACCRD, ACCWR and ACCCLR queue their operation behind the entries that name their tiles, ACCRD with an
outstanding result for its destination; a tile above 63 raises 0x050. OHND sets a handle and OHND.clr clears one, each with its
generation advanced; a faulty handle word raises 0x054. -/
def Obligations.MatrixResults : Prop :=
  (∀ w s x s', Issues (.mwait w) s x s' → x.g.role = .matrix → x.ex ≠ 0 →
    let n := (Rules.mx x s').entries.length
    Machine.exec (.mwait w) s = .next
      (if n ≤ w.f 11 9 then
        passed (.mwait w) x (x.now (fun _ => BitVec.ofNat 32 (2 * n + if (Rules.mx x s').sticky then 1 else 0)) s')
       else slept x { on := .mwait (w.f 11 9), ipc := x.pc, dst := w.dst, wide := false, pd := none, lanes := x.ex } s')) ∧
  (∀ w s s0 x s', IssuesFrom (.accrd w) s s0 x s' → x.g.role = .matrix →
    let sr := w.f 19 17 == 4
    let tile := w.f 31 26 + Rules.uni x w.a
    (x.ex = 0 → Machine.exec (.accrd w) s = .next (passed (.accrd w) x (x.advance sr s'))) ∧
    (x.ex ≠ 0 → 63 < tile → Machine.exec (.accrd w) s = .next (raised x 0x050 0 s0)) ∧
    (x.ex ≠ 0 → tile ≤ 63 → ∃ t o, Machine.exec (.accrd w) s = .next (passed (.accrd w) x t) ∧ Rules.sameHomes s' t ∧
      t.outst.get? s'.nextId = some o ∧ o.g = x.ref ∧ o.kind = .accrd ∧ o.dst = w.dst ∧ o.lanes = x.ex ∧
      o.sb = (if w.h.sbset = 15 then none else some w.h.sbset.toNat) ∧
      Rules.mx x t = Rules.mx x (Rules.queued x
        (.read tile (w.f 25 23) (w.f 22 22 == 1) (w.f 21 21 == 1) (w.f 20 20 == 1) (w.f 19 17) w.mod (x.sr sr) s'.nextId) tile 1 s'))) ∧
  (∀ w s s0 x s', IssuesFrom (.accwr w) s s0 x s' → x.g.role = .matrix → x.ex ≠ 0 →
    let tile := w.f 31 26 + Rules.uni x w.a
    Machine.exec (.accwr w) s = .next
      (if 63 < tile then raised x 0x050 0 s0
       else passed (.accwr w) x (Rules.queued x (.write tile (w.f 25 23) (w.f 22 22 == 1) x.ex (x.src .int w.b)) tile 1 s'))) ∧
  (∀ w s s0 x s', IssuesFrom (.accclr w) s s0 x s' → x.g.role = .matrix → x.ex ≠ 0 →
    let tile := w.f 31 26 + Rules.uni x w.a
    let n := w.f 25 20 + 1
    Machine.exec (.accclr w) s = .next
      (if 63 < tile + n - 1 then raised x 0x050 0 s0
       else passed (.accclr w) x (Rules.queued x (.clear tile n (w.f 19 19 == 1)) tile n s'))) ∧
  (∀ w s s0 x s', IssuesFrom (.ohnd w) s s0 x s' → x.g.role = .matrix → x.ex ≠ 0 →
    let v := LVec.at (x.src .int w.a) (Mask.lowest x.ex)
    Machine.exec (.ohnd w) s = .next
      (if handleOk v = true then passed (.ohnd w) x (Rules.modMx x (fun m =>
        { m with hnd := m.hnd.set (w.f 11 9) { word := v, set := true, gen := (m.hnd.getD (w.f 11 9) {}).gen + 1 } }) s')
       else raised x 0x054 0 s0)) ∧
  (∀ w s x s', Issues (.ohndClr w) s x s' → x.g.role = .matrix → x.ex ≠ 0 →
    Machine.exec (.ohndClr w) s = .next (passed (.ohndClr w) x (Rules.modMx x (fun m =>
      { m with hnd := m.hnd.set (w.f 11 9) { m.hnd.getD (w.f 11 9) {} with set := false, gen := (m.hnd.getD (w.f 11 9) {}).gen + 1 } }) s')))

/-! ### Links -/

namespace Sys2Proof.Rules

/-- Direction, channel and predicate of a link instruction (R201). -/
def dir (w : ExtA) : Nat := w.f 16 15
def chan (w : ExtA) : Nat := w.f 18 17

/-- The FIFO of the issuing group's cluster that a link instruction names, after stale heads have gone (R199, R203). -/
def settled (x : Ctx) (w : ExtA) (s : State) : State := s.settleFifo (x.core / 8) x.team.part (dir w) (chan w) 17
def fifo (x : Ctx) (w : ExtA) (s : State) : List LinkMsg := (s.links (x.core / 8) x.team.part).fifo.getD (4 * dir w + chan w) []

end Sys2Proof.Rules

/-- R155, R197, R198, R201 to R203: the link instructions complete. With no executing lane nothing happens; a direction without a neighbour in the
partition raises 0x080. NSEND with 16 credits spent writes false; else it spends one, writes true, and a message with the executing lanes' words, 0
elsewhere, the launch id and %tlin sets out to the opposite side of the neighbour, 24 cycles off or 96 on another die. NRECV takes the
head of its launch, else the split waits. A message for a cluster of the same die joins those in flight; one for another die crosses
UCIe modules. It arrives behind those that its side has yet to accept. NPOLL reads the count and the head's %tlin, and tells whether the head is of its launch. -/
def Obligations.LinkResults : Prop :=
  (∀ w s s0 x s' i, (i = Instr.nsend w ∨ i = .nrecv w ∨ i = .npoll w) → IssuesFrom i s s0 x s' →
    (x.ex = 0 → Machine.exec i s = .next (passed i x s')) ∧
    (x.ex ≠ 0 → s'.partNeighbour x.team.part (x.core / 8) (Rules.dir w) = none → Machine.exec i s = .next (raised x 0x080 0 s0))) ∧
  (∀ w s x s' n, Issues (.nsend w) s x s' → x.ex ≠ 0 → s'.partNeighbour x.team.part (x.core / 8) (Rules.dir w) = some n →
    let k := 4 * Rules.dir w + Rules.chan w
    let used := (s'.links (x.core / 8) x.team.part).spent.getD k 0
    (16 ≤ used → Machine.exec (.nsend w) s = .next (passed (.nsend w) x (x.nowP (w.f 14 12) 0 s'))) ∧
    (used < 16 → ∃ m : FlyMsg,
      Machine.exec (.nsend w) s = .next (passed (.nsend w) x (x.nowP (w.f 14 12) x.ex
        ((s'.modLinks (x.core / 8) x.team.part fun l => { l with spent := l.spent.set k (used + 1) }).launch
          { from_ := x.core / 8 / 21, to_ := n / 21, pair := (x.core / 8, n), msg := .fly m }))) ∧
      m.cluster = n ∧ m.side = (Rules.dir w + 2) % 4 ∧ m.channel = Rules.chan w ∧ m.part = x.team.part ∧
      s'.clk + (if n / 21 = x.core / 8 / 21 then 24 else 96) ≤ m.at_ ∧
      ((∀ f ∈ s'.flying, f.cluster = n → f.side ≠ m.side) → m.at_ = s'.clk + (if n / 21 = x.core / 8 / 21 then 24 else 96)) ∧
      m.msg.lanes = x.ex ∧ m.msg.lid = x.team.lid ∧ m.msg.tlin = x.team.tlin ∧
      ∀ l, l < 32 → LVec.at m.msg.words l = if x.ex.getLsbD l then LVec.at (x.src .int w.b) l else 0)) ∧
  (∀ w s x s' n, Issues (.nrecv w) s x s' → x.ex ≠ 0 → s'.partNeighbour x.team.part (x.core / 8) (Rules.dir w) = some n →
    let s1 := Rules.settled x w s'
    (∀ m r, Rules.fifo x w s1 = m :: r → m.lid = x.team.lid →
      Machine.exec (.nrecv w) s = .next (passed (.nrecv w) x (Rules.settled x w
        (x.now (LVec.at m.words) (s1.popFifo (x.core / 8) x.team.part (Rules.dir w) (Rules.chan w)))))) ∧
    ((∀ m r, Rules.fifo x w s1 = m :: r → m.lid ≠ x.team.lid) →
      Machine.exec (.nrecv w) s = .next (slept x
        { on := .nrecv (Rules.dir w) (Rules.chan w), ipc := x.pc, dst := w.dst, wide := false, pd := none, lanes := x.ex }
        (s1.modLinks (x.core / 8) x.team.part fun l =>
          { l with waiters := l.waiters.update (4 * Rules.dir w + Rules.chan w) [] (· ++ [Rules.me x]) })))) ∧
  (∀ w s x s' n, Issues (.npoll w) s x s' → x.ex ≠ 0 → s'.partNeighbour x.team.part (x.core / 8) (Rules.dir w) = some n →
    let s1 := Rules.settled x w s'
    Machine.exec (.npoll w) s = .next (passed (.npoll w) x
      (match Rules.fifo x w s1 with
       | [] => x.nowP (w.f 14 12) 0 (x.now (fun _ => 0) s1)
       | m :: r => x.nowP (w.f 14 12) (if m.lid = x.team.lid then x.ex else 0)
         (x.now (fun _ => BitVec.ofNat 32 ((r.length + 1) * 2 ^ 24 + m.tlin % 2 ^ 24)) s1)))) ∧
  (∀ (s : State) (c : Crossing) (m : FlyMsg), c.from_ = c.to_ → c.msg = .fly m → s.launch c = { s with fly := s.fly ++ [m] }) ∧
  (∀ (s : State) (c : Crossing), c.from_ ≠ c.to_ → ∃ m : UcieRef, s.launch c = s.ucieSend m c ∧
    m.edge = (if c.from_ % 2 ≠ c.to_ % 2 then c.from_ / 2 else 2 + c.from_ % 2)) ∧
  (∀ c d n, c < 84 → d < 4 → neighbour c d = some n → n < 84 ∧ neighbour n ((d + 2) % 4) = some c)

/-! ### Slice operations -/

namespace Sys2Proof.Rules

/-- The addresses of an instruction pass steps 1 and 3 of R239: aligned, and neither in the scratch window nor, for an instruction that
does not go to the fabric, in the peer window. -/
def sliceAddresses (x : Ctx) (w : ExtM) (fabric : Bool) : Prop :=
  ∀ a ∈ accesses x w (Mask.list x.ex), a.va.toNat % sizeBytes w.size = 0 ∧ notLocal fabric a.va = false

/-- The physical address of the lowest executing lane, its class and its arena bit, once every lane has been translated. -/
def lowest (ts : List (VAcc × Tgt)) : Option (Nat × Cls × Bool) :=
  match ts.head? with
  | some (_, .mem pa c ar) => some (pa, c, ar)
  | _ => none

/-- A request of the group to a line (R238). -/
def request (x : Ctx) (s : State) (op : Nat) (line : Nat) (c : Cls) (ar : Bool) (body : ReqOp) : Req :=
  { op, piece := 0, src := .core x.core, line, cls := c, arena := ar, g := x.ref, part := x.team.part, epoch := (s.part x.team.part).epoch
    body }

/-- Accesses translate one after another, each with a result or with a page cause (R239 step 2). -/
def translates (x : Ctx) (write : Bool) : List VAcc → State → Prop
  | [], _ => True
  | a :: r, s =>
    match s.translateLane x.from x.ref a.lane a.va write with
    | (s, .err c) => (c = 0x100 ∨ c = 0x101 ∨ c = 0x102) ∧ translates x write r s
    | (_, .busy) => False
    | (s, _) => translates x write r s

/-- A request is on its way to the home of its line: in its die, or at a module between dies (R207, R320). -/
def onWay (s : State) (q : Req) : Prop :=
  (s.sliceOf q.line, q) ∈ s.net ∨
  ∃ e ∈ s.ucie, (∃ y ∈ e.2.replay, ∃ c ∈ y.2, c.msg = .req (s.sliceOf q.line) q) ∨ ∃ y ∈ e.2.waiting, y.msg = .req (s.sliceOf q.line) q

/-- A load of the group on one of the lines has not performed: a slice operation waits for it (timing; log 30). -/
def reading (x : Ctx) (s : State) (ts : List (VAcc × Tgt)) : Prop := ∃ l ∈ linesOf ts, s.unread x.ref l (fun _ => true) = true

/-- Operations of the group that hold earlier events of its executing lanes which have not performed: write-backs and reads of the accumulator
are none, and stores to other packages count for scope POD alone, while slice operations at homes in other packages count for every scope
(R226, R229, R236, R338). -/
def pending (x : Ctx) (s : State) (id : Nat) : Prop :=
  ∃ o, (id, o) ∈ s.outst ∧ o.g = x.ref ∧ o.lanes &&& x.ex ≠ 0 ∧ o.kind ≠ .wb ∧ o.kind ≠ .accrd ∧
    o.fabStore = false ∧ ∃ p ∈ o.pieces, p.landed = false ∧ p.vals = none
def pendingFar (x : Ctx) (s : State) (id : Nat) : Prop :=
  ∃ o, (id, o) ∈ s.outst ∧ o.g = x.ref ∧ o.lanes &&& x.ex ≠ 0 ∧ o.kind ≠ .wb ∧ o.kind ≠ .accrd ∧
    ∃ p ∈ o.pieces, p.landed = false ∧ p.vals = none ∧ p.remote = true

end Sys2Proof.Rules

/-- R239, R240, R241: ATOM and RED complete. With no executing lane nothing happens; with every lane's address aligned, allowed and translated,
one request for each line goes to its home, in ascending order of the lowest lane that names it, with the operations of its lanes; ATOM has an
outstanding result for its destination and slot, RED none. No home changes before the request performs there. While a load of the group on
one of the lines has not performed, the instruction does not issue yet (timing, log 30). -/
def Sys2Proof.Rules.AtomicResults : Prop :=
  (∀ w s x s' i kind sb, ((i = Instr.atom w ∧ kind = OutKind.atom ∧ sb = slotOf w.h) ∨ (i = .red w ∧ kind = .effect ∧ sb = none)) →
    Issues i s x s' →
    (x.ex = 0 → Machine.exec i s = .next (passed i x s')) ∧
    (x.ex ≠ 0 → Rules.sliceAddresses x w true → ∀ s1 ts,
      Rules.reached x (hndWrites w.hnd || (match i with | .red _ => true | _ => false)) (Rules.accesses x w (Mask.list x.ex)) s' = some (s1, ts) →
      (Rules.reading x s1 ts → Machine.exec i s = .next (Rules.waits x s1)) ∧
      (¬ Rules.reading x s1 ts → Machine.exec i s = .next (passed i x (x.startAtom w kind sb s1 ts))))) ∧
  (∀ (x : Ctx) (w : ExtM) (kind : OutKind) (sb : Option Nat) (s1 : State) (ts : List (VAcc × Tgt)),
    (∀ y ∈ ts, ∃ pa c ar, y.2 = .mem pa c ar) →
    let t := x.startAtom w kind sb s1 ts
    Rules.sameHomes s1 t ∧
    (∃ o, t.outst.get? s1.nextId = some o ∧ o.g = x.ref ∧ o.kind = kind ∧ o.sb = sb ∧ o.dst = w.dst ∧ o.lanes = x.ex ∧
      o.pieces.map Piece.line = linesOf ts) ∧
    (∀ line ∈ linesOf ts, ∃ q, Rules.onWay t q ∧ q.op = s1.nextId ∧ q.line = line ∧ q.g = x.ref ∧
      q.body = .atom w.hnd (sizeBytes w.size) ((accsIn ts none line).map fun a =>
        { lane := a.lane, off := a.off, b := BitVec.ofNat 128 (Rules.operandB x w.hnd (match hndB w.hnd with | some u => u.n | none => 0) w.b a.lane) })))

/-- R221, R239, R242, R243: LR, SC and WAITC complete, for the group at the address of its lowest executing lane, once every lane's address has passed
the checks. LR gives up the group's reservation, takes one of the line, and has an outstanding result; SC has one too, takes with it whether the group
held a reservation of the line, and ends it, or gives up one of another line; WAITC holds the group until its request has performed, with what
its split waits for; the split is not WAITING yet. Each sends one request to the line's home, and none issues before the group's loads of the line have performed (timing, log 30). -/
def Sys2Proof.Rules.ReserveResults : Prop :=
  (∀ w s x s' i, (i = Instr.lr w ∨ i = .sc w ∨ i = .waitc w) → Issues i s x s' → x.ex = 0 → Machine.exec i s = .next (passed i x s')) ∧
  (∀ w s x s' i wr s1 ts, ((i = Instr.lr w ∧ wr = false) ∨ (i = .sc w ∧ wr = true) ∨ (i = .waitc w ∧ wr = false)) → Issues i s x s' →
    x.ex ≠ 0 → Rules.sliceAddresses x w false → Rules.reached x wr (Rules.accesses x w (Mask.list x.ex)) s' = some (s1, ts) →
    Rules.reading x s1 ts → Machine.exec i s = .next (Rules.waits x s1)) ∧
  (∀ w s x s' s1 ts pa c ar, Issues (.lr w) s x s' → x.ex ≠ 0 → Rules.sliceAddresses x w false →
    Rules.reached x false (Rules.accesses x w (Mask.list x.ex)) s' = some (s1, ts) → ¬ Rules.reading x s1 ts →
    Rules.lowest ts = some (pa, c, ar) → ∃ t o,
    Machine.exec (.lr w) s = .next (passed (.lr w) x t) ∧ Rules.sameHomes s1 t ∧ t.outst.get? s1.nextId = some o ∧ o.kind = .lr ∧
    o.dst = w.dst ∧ o.lanes = x.ex ∧ o.sb = slotOf w.h ∧
    (∀ g, t.group? x.ref = some g → g.rsv = some (pa / 128)) ∧
    Rules.onWay t (Rules.request x s1 s1.nextId (pa / 128) c ar (.lr (pa % 128) (sizeBytes w.size))) ∧
    (∀ g line, s1.group? x.ref = some g → g.rsv = some line → ∃ q, Rules.onWay t q ∧ q.line = line ∧ q.g = x.ref ∧ q.body = .release)) ∧
  (∀ w s x s' s1 ts pa c ar, Issues (.sc w) s x s' → x.ex ≠ 0 → Rules.sliceAddresses x w false →
    Rules.reached x true (Rules.accesses x w (Mask.list x.ex)) s' = some (s1, ts) → ¬ Rules.reading x s1 ts →
    Rules.lowest ts = some (pa, c, ar) → ∀ g, s1.group? x.ref = some g → ∃ t o,
    Machine.exec (.sc w) s = .next (passed (.sc w) x t) ∧ Rules.sameHomes s1 t ∧ t.outst.get? s1.nextId = some o ∧ o.kind = .sc ∧
    o.dst = w.dst ∧ o.lanes = x.ex ∧ o.sb = slotOf w.h ∧
    Rules.onWay t (Rules.request x s1 s1.nextId (pa / 128) c ar (.sc (pa % 128) (sizeBytes w.size)
      (BitVec.ofNat 64 (x.srcData w.b (Mask.lowest x.ex) (sizeRegs w.size))) (g.rsv == some (pa / 128)))) ∧
    (∀ g', t.group? x.ref = some g' → g'.rsv = none) ∧
    (∀ line, g.rsv = some line → line ≠ pa / 128 → ∃ q, Rules.onWay t q ∧ q.line = line ∧ q.g = x.ref ∧ q.body = .release)) ∧
  (∀ w s x s' s1 ts pa c ar, Issues (.waitc w) s x s' → x.ex ≠ 0 → Rules.sliceAddresses x w false →
    Rules.reached x false (Rules.accesses x w (Mask.list x.ex)) s' = some (s1, ts) → ¬ Rules.reading x s1 ts →
    Rules.lowest ts = some (pa, c, ar) →
    let b := x.src64 w.b (Mask.lowest x.ex)
    let swap := w.mod / 8 == 1
    ∃ t, Machine.exec (.waitc w) s = .next (passed (.waitc w) x t) ∧ Rules.sameHomes s1 t ∧
    (∀ g1 g, s1.group? x.ref = some g1 → t.group? x.ref = some g → s1.nextId ∈ g.hold ∧
      let wt : Wait := { on := .waitc pa (b.setWidth 32) (BitVec.ofNat 3 w.mod) none swap, ipc := x.pc, dst := w.dst, wide := false
                         pd := some (BitVec.ofNat 3 w.fld), lanes := x.ex, iss := s.clk }
      g.split x.g.cur = { g1.split x.g.cur with wait := some wt }) ∧
    ((x.g.split x.g.cur).wait = none →
      Rules.onWay t (Rules.request x s1 s1.nextId (pa / 128) c ar
        (.waitc (pa % 128) (b.setWidth 32) (BitVec.ofNat 3 w.mod) ((b >>> 32).setWidth 32) swap x.g.cur))))

/-- R239: the checks of ATOM, RED, LR, SC and WAITC in their order, over all executing lanes, none of which performs: a misaligned lane raises 0x008
with its address, the lowest such; with every lane aligned, an address of some lane that the instruction may not name raises 0x0C3 with the
lowest lane's address, when the other lanes translate, or meet page causes, which are checked later. An address that is refused for its window
is not translated (log 44). -/
def Sys2Proof.Rules.SliceAddressChecks : Prop :=
  ∀ w s s0 x s' i fabric,
    ((i = Instr.atom w ∧ fabric = true) ∨ (i = .red w ∧ fabric = true) ∨
      ((i = .lr w ∨ i = .sc w ∨ i = .waitc w) ∧ fabric = false)) →
    IssuesFrom i s s0 x s' →
    let accs := Rules.accesses x w (Mask.list x.ex)
    (∀ a, accs.find? (fun a => a.va.toNat % a.len != 0) = some a → Machine.exec i s = .next (raised x 0x008 (a.va.setWidth 64) s0)) ∧
    ((∀ a ∈ accs, a.va.toNat % a.len = 0) → (∃ a ∈ accs, notLocal fabric a.va = true) →
      Rules.translates x (match i with | .atom _ => hndWrites w.hnd | .lr _ | .waitc _ => false | _ => true)
        (accs.filter fun a => !notLocal fabric a.va) s' →
      Machine.exec i s = .next (raised x 0x0C3
        (((x.src64 w.a (Mask.lowest x.ex)).setWidth 56 + w.offset.signExtend 56).setWidth 64) s0))

/-- R221, R239, R242, R243: LR, SC and WAITC complete, and the checks of slice addresses, for lanes that mix refused windows with others too.
(That an address refused for its window is not translated, log 44, and that a request waits for the group's loads of its line, log 30, are
the model's readings.) -/
def Obligations.Reservations : Prop := Rules.ReserveResults ∧ Rules.SliceAddressChecks

/-- R226, R229, R245, R246, R338: PHASE completes where a lane executes: of scope CORE it holds the group until the earlier events of its executing
lanes have performed, slice operations in other packages among them; of scope PKG every dirty line of its core's L1 is on its way to its home as well, no line stays, and the group is held
for those too; of scope POD the lanes' stores to other packages hold it in addition. With no executing lane it does nothing. (That the
boundary of scope PKG waits for write-backs which evictions started, and for bypass stores of the core, is the model's reading, log 30.) -/
def Sys2Proof.Rules.PhaseResults : Prop :=
  ∀ w s x s', Issues (.phase w) s x s' →
    (x.ex = 0 → Machine.exec (.phase w) s = .next (passed (.phase w) x s')) ∧
    (x.ex ≠ 0 → w.mod = 1 → ∃ ids, (∀ id, id ∈ ids ↔ Rules.pending x s' id) ∧
      Machine.exec (.phase w) s = .next (passed (.phase w) x (s'.modGroup x.ref fun g => { g with hold := g.hold ++ ids }))) ∧
    (x.ex ≠ 0 → w.mod ≠ 1 → ∃ t, Machine.exec (.phase w) s = .next (passed (.phase w) x t) ∧ Rules.sameHomes s' t ∧
      (∀ line, (t.core x.core).l1Find line = none) ∧
      (∀ set ∈ (s'.core x.core).l1, ∀ l ∈ set.2, l.dirty ≠ 0 → ∃ q, Rules.onWay t q ∧ q.line = l.line ∧ q.body = .write l.data l.dirty true ∧
        ∀ g, t.group? x.ref = some g → q.op ∈ g.hold) ∧
      (∀ g, t.group? x.ref = some g → (∀ id, Rules.pending x s' id → id ∈ g.hold) ∧
        ((∀ e ∈ s'.outst, e.1 < s'.nextId) →
          ∀ e ∈ s'.outst, e.2.core = x.core → e.2.kind = .effect → e.2.bypass = true → e.1 ∈ g.hold) ∧
        (w.mod ≠ 2 → ∀ id, Rules.pendingFar x s' id → id ∈ g.holdFar) ∧ (w.mod = 2 → g.holdFar = x.g.holdFar)))

/-- R239, R247: DISC, CWB and CINV complete. DISC drops each line from L1 without a write-back and sends its discard home; CWB sends the dirty
nibbles of each line home and leaves it clean; CINV sends them and drops it. Each holds its group for what it has sent. CWB and CINV skip
lanes that translation stops, and with no executing lane all three do nothing but issue. DISC issues after the group's loads of its lines have
performed (timing, log 30). -/
def Sys2Proof.Rules.LineResults : Prop :=
  (∀ w s x s', Issues (.disc w) s x s' →
    (x.ex = 0 → Machine.exec (.disc w) s = .next (passed (.disc w) x s')) ∧
    (x.ex ≠ 0 → (∀ a ∈ Rules.accesses x w (Mask.list x.ex), notLocal false a.va = false) → ∀ s1 ts,
      Rules.reached x true (Rules.accesses x w (Mask.list x.ex)) s' = some (s1, ts) →
      (Rules.reading x s1 ts → Machine.exec (.disc w) s = .next (Rules.waits x s1)) ∧
      (¬ Rules.reading x s1 ts → ∃ t, Machine.exec (.disc w) s = .next (passed (.disc w) x t) ∧ Rules.sameHomes s1 t ∧
        ∀ line ∈ linesOf ts, (t.core x.core).l1Find line = none ∧ ∃ q, Rules.onWay t q ∧ q.line = line ∧ q.body = .disc ∧
          ∀ g, t.group? x.ref = some g → q.op ∈ g.hold))) ∧
  (∀ w s x s' i, (i = Instr.cwb w ∨ i = .cinv w) → Issues i s x s' → ∀ s1 ts,
    Rules.skipped x (Rules.accesses x w (Mask.list x.ex)) s' = some (s1, ts) → ∃ t,
    Machine.exec i s = .next (passed i x t) ∧ Rules.sameHomes s1 t ∧
    ∀ line ∈ linesOf ts, ∀ l, (s1.core x.core).l1Find line = some l →
      (i = .cwb w → ∃ k, (t.core x.core).l1Find line = some k ∧ k.dirty = 0 ∧ k.data = l.data ∧ k.valid = l.valid) ∧
      (i = .cinv w → (t.core x.core).l1Find line = none) ∧
      (l.dirty ≠ 0 → ∃ q, Rules.onWay t q ∧ q.line = line ∧ q.body = .write l.data l.dirty true ∧
        ∀ g, t.group? x.ref = some g → q.op ∈ g.hold))

/-- R226, R229, R239, R245 to R247, R338: PHASE, DISC, CWB and CINV complete. (What a boundary of scope PKG waits for, and that DISC waits for
loads of its lines, are the model's readings, log 30.) -/
def Obligations.PhasesAndLines : Prop := Rules.PhaseResults ∧ Rules.LineResults

/-- R95, R96, R98, R240: the handlers of the atomic unit, by number: the sum modulo 2^32 or 2^64 and with saturation; the smaller and larger of signed,
unsigned and 64-bit values; AND, OR and XOR; SWAP; CAS, which writes only where the old value is the expected one; the wrapping INC
and DEC; the sum of a signed 64-bit and a signed 32-bit value; set and clear of one bit; bytes added with saturation; FETCH, which writes nothing.
The floating handlers give the exact sum rounded once to nearest, of FP32, of each half in BF16 or FP16, or of each FP32 half of a pair; and
the smaller or larger FP32 value. -/
def Sys2Proof.Rules.AtomicHandlers : Prop :=
  (∀ a b : Word,
    let h (n : Nat) : Option Nat := handler n a.toNat b.toNat
    h 0 = some (a + b).toNat ∧ h 2 = some (min (a.toNat + b.toNat) 0xFFFFFFFF) ∧
    h 6 = some (if b.toInt < a.toInt then b.toNat else a.toNat) ∧ h 7 = some (if a.toInt < b.toInt then b.toNat else a.toNat) ∧
    h 8 = some (min a.toNat b.toNat) ∧ h 9 = some (max a.toNat b.toNat) ∧
    h 12 = some (a &&& b).toNat ∧ h 13 = some (a ||| b).toNat ∧ h 14 = some (a ^^^ b).toNat ∧ h 18 = some b.toNat ∧
    h 22 = some (if b.toNat ≤ a.toNat then 0 else a.toNat + 1) ∧
    h 23 = some (if a = 0 ∨ b.toNat < a.toNat then b.toNat else a.toNat - 1) ∧
    h 28 = some (a ||| 1#32 <<< (b.toNat % 32)).toNat ∧ h 29 = some (a &&& ~~~(1#32 <<< (b.toNat % 32))).toNat ∧
    (∃ v, h 30 = some v ∧ v < 2 ^ 32 ∧
      ∀ i, i < 4 → v / 256 ^ i % 256 = min (a.toNat / 256 ^ i % 256 + b.toNat / 256 ^ i % 256) 255) ∧ h 31 = none ∧
    (let sum (f : FltFmt) (x y : Nat) : Nat := f.round .rne false 0 ((f.val x).add (f.val y) .rne)
     let halves (f : FltFmt) : Nat := Rules.two fun j => sum f (a.toNat / 2 ^ (16 * j) % 2 ^ 16) (b.toNat / 2 ^ (16 * j) % 2 ^ 16)
     h 3 = some (sum fp32 a.toNat b.toNat) ∧ h 4 = some (halves bf16) ∧ h 5 = some (halves fp16) ∧
     h 10 = some (Rules.pick false a.toNat b.toNat) ∧ h 11 = some (Rules.pick true a.toNat b.toNat))) ∧
  (∀ a b : DWord,
    let h (n : Nat) : Option Nat := handler n a.toNat b.toNat
    h 1 = some (a + b).toNat ∧ h 15 = some (a &&& b).toNat ∧ h 16 = some (a ||| b).toNat ∧ h 17 = some (a ^^^ b).toNat ∧
    h 19 = some b.toNat ∧ h 25 = some (if a.toInt < b.toInt then b.toNat else a.toNat) ∧
    h 26 = some (if b.toInt < a.toInt then b.toNat else a.toNat) ∧
    (let sum (x y : Nat) : Nat := fp32.round .rne false 0 ((fp32.val x).add (fp32.val y) .rne)
     h 27 = some (sum (a.toNat % 2 ^ 32) (b.toNat % 2 ^ 32) + 2 ^ 32 * sum (a.toNat / 2 ^ 32) (b.toNat / 2 ^ 32)))) ∧
  (∀ a e n : Word, handler 20 a.toNat (e.toNat + 2 ^ 32 * n.toNat) = if a = e then some n.toNat else none) ∧
  (∀ a e n : DWord, handler 21 a.toNat (e.toNat + 2 ^ 64 * n.toNat) = if a = e then some n.toNat else none) ∧
  (∀ (a : DWord) (b : Word), handler 24 a.toNat b.toNat = some (a + b.signExtend 64).toNat)

/-- R95, R96, R98, R239 to R241: ATOM and RED complete, and what the handlers compute. (That they wait for loads of their lines is the model's
reading, log 30.) -/
def Obligations.Atomics : Prop := Rules.AtomicResults ∧ Rules.AtomicHandlers

/-! ### Queue posts and collectives -/

/-- R301: QPOST completes: into a full queue it writes false and changes nothing else; else its packet, with STS zero, is written at the slot of
WIDX, WIDX rises by one and the predicate becomes true; the node of a COPY packet is kept until the packet starts (R311). Its checks raise 0x008, 0x040
and 0x125, in this order (EINFO of 0x008 is the offset: the model's reading, log 11; an LSZ below 4 raises 0x125 too, log 36). A write that its home or another package has not performed yet, or a packet of another group that is on its way to the
same place, leaves the instruction to issue again; one that ends with a cause raises it. With no executing lane it does nothing. -/
def Sys2Proof.Rules.QueuePosts : Prop :=
  ∀ w s s0 x s', IssuesFrom (.qpost w) s s0 x s' →
    let off := Rules.uni x w.a
    let n := Rules.uni x w.b
    let q := (s'.part x.team.part).queues.getD n {}
    let lsz := q.ctl.toNat % 16
    let va : BitVec 56 := BitVec.ofNat 56 (q.base.toNat + 64 * (q.widx.toNat % 2 ^ lsz))
    (x.ex = 0 → Machine.exec (.qpost w) s = .next (passed (.qpost w) x s')) ∧
    (x.ex ≠ 0 →
      (off % 64 ≠ 0 → Machine.exec (.qpost w) s = .next (raised x 0x008 (BitVec.ofNat 64 off) s0)) ∧
      (off % 64 = 0 → x.team.scr < off + 64 → Machine.exec (.qpost w) s = .next (raised x 0x040 0 s0)) ∧
      (off % 64 = 0 → off + 64 ≤ x.team.scr →
        ((63 < n ∨ q.ctl.getLsbD 7 = false ∨ lsz < 4) → Machine.exec (.qpost w) s = .next (raised x 0x125 0 s0)) ∧
        (n ≤ 63 → q.ctl.getLsbD 7 = true → 4 ≤ lsz →
          ((q.widx - q.ridx).toNat = 2 ^ lsz →
            Machine.exec (.qpost w) s = .next (passed (.qpost w) x (x.nowP (w.f 14 12) 0 s'))) ∧
          ((q.widx - q.ridx).toNat ≠ 2 ^ lsz → ∀ s1 p, s'.reach x.from va true = (s1, .spot p) →
            let bytes := ((Rules.scratch x s1).bytes (x.team.scrBase + off) 64).set 3 0
            let s2 := if p.peer = none then s1.leaveL1 x.core x.ref (p.pa / 128) else s1
            (s1.postAhead x.ref p = true → Machine.exec (.qpost w) s = .next (Rules.waits x s1)) ∧
            (s1.postAhead x.ref p = false →
              (∀ s3 v, s2.spotWrite (.post x.ref) p bytes = (s3, .old v) →
                Machine.exec (.qpost w) s = .next (passed (.qpost w) x (x.nowP (w.f 14 12) x.ex
                  (s3.modQueue x.team.part n fun q =>
                    { q with widx := q.widx + 1
                             posted := if bytes.head? = some 5 then q.posted.set q.widx.toNat x.team.node else q.posted })))) ∧
              (∀ s3, s2.spotWrite (.post x.ref) p bytes = (s3, .busy) → Machine.exec (.qpost w) s = .next (Rules.waits x s3)) ∧
              (∀ s3 c, s2.spotWrite (.post x.ref) p bytes = (s3, .kill c) → Machine.exec (.qpost w) s = .next (raised x c 0 s0)))))))

/-- R350, R352, R353, R354, R338: COLL, once its POD phase has run, completes: with no FREE slot it writes false; else the lowest FREE slot is POSTED with the
descriptor's fields and tag, the post is on its way, and the slot's number and true are written. COLLW with POLL, or on a terminal slot, writes the
status and, without KEEP, frees a terminal slot; a slot that is DONE also runs a POD phase; else the split waits. COLLC sends its cancellation and
waits for the reply. Failing checks raise 0x142 to 0x146 and the causes of R352; a buffer in the peer window kills the node with 0x141. With no
executing lane none does anything. A message goes to the primary as a packet of the channel COLL; to a primary in this package it goes without
the fabric (the model's reading, log 45). -/
def Sys2Proof.Rules.CollectiveResults : Prop :=
  (∀ w s x s' i, (i = Instr.coll w ∨ i = .collw w ∨ i = .collc w) → Issues i s x s' → x.ex = 0 →
    Machine.exec i s = .next (passed i x s')) ∧
  (∀ w s s0 x s', IssuesFrom (.coll w) s s0 x s' → x.ex ≠ 0 →
    let off := Rules.uni x w.a
    let tag := LVec.at (x.src .int w.b) (Mask.lowest x.ex)
    let d := x.collAt s' off
    let slots := (List.range 64).filter fun i => ((s'.part x.team.part).slots.getD i {}).st == .free
    (∀ c, x.collCause s' off tag = some c → Machine.exec (.coll w) s =
      .next (if c = 0x141 then Rules.killed x c s0 else raised x c (if c = 0x008 then BitVec.ofNat 64 off else 0) s0)) ∧
    (x.collCause s' off tag = none → x.g.phased = false → Machine.exec (.coll w) s =
      .next (Rules.waits x ((s'.phasePod x.core x.ref x.ex).modGroup x.ref fun g => { g with phased := true }))) ∧
    (x.collCause s' off tag = none → x.g.phased = true →
      (slots = [] → Machine.exec (.coll w) s = .next (passed (.coll w) x (x.nowP (w.f 14 12) 0 s'))) ∧
      (∀ i r, slots = i :: r → ∃ t, Machine.exec (.coll w) s = .next (passed (.coll w) x
          (x.nowP (w.f 14 12) x.ex (x.now (fun _ => BitVec.ofNat 32 i) (t.tellPrim (.post d.comm tag d.key))))) ∧
        (t.part x.team.part).slots.getD i {} = { st := .posted, comm := d.comm, tag, key := d.key, sbuf := d.sbuf, dbuf := d.dbuf
                                                 node := x.team.node, order := s'.nextId } ∧
        (∀ j, j ≠ i → (t.part x.team.part).slots.getD j {} = (s'.part x.team.part).slots.getD j {}) ∧
        Rules.sameHomes s' t ∧ t.teams = s'.teams ∧ t.cores = s'.cores ∧ t.inbox = s'.inbox ∧ t.outStreams = s'.outStreams))) ∧
  (∀ (s : State) (m : CollMsg),
    (s.prim = s.pkg → s.tellPrim m = { s with inbox := s.inbox ++ [(s.pkg, m)] }) ∧
    (s.prim ≠ s.pkg → ∃ u : Unacked, ((s.tellPrim m).outStream ⟨s.prim, .coll⟩).unacked = (s.outStream ⟨s.prim, .coll⟩).unacked ++ [u] ∧
      u.pkt.op = .message m ∧ u.pkt.seq = (s.outStream ⟨s.prim, .coll⟩).next)) ∧
  (∀ w s s0 x s', IssuesFrom (.collw w) s s0 x s' → x.ex ≠ 0 →
    let i := Rules.uni x w.a
    let sl := (s'.part x.team.part).slots.getD i {}
    let poll := w.mod % 2 = 1
    let keep := w.mod / 2 = 1
    let status : DWord := (sl.tap.getD 0) ++ BitVec.ofNat 32 sl.st.code
    ((63 < i ∨ sl.st = .free) → Machine.exec (.collw w) s = .next (raised x 0x146 0 s0)) ∧
    (i ≤ 63 → sl.st ≠ .free →
      (¬ poll → sl.st.terminal = false → Machine.exec (.collw w) s = .next (slept x
        { on := .collw i (w.mod / 2 == 1), ipc := x.pc, dst := w.dst, wide := true, pd := none, lanes := x.ex } s')) ∧
      ((poll ∨ sl.st.terminal = true) →
        let s1 := x.now64 (fun _ => status) s'
        let s2 := if sl.st = .done then s1.phasePod x.core x.ref x.ex else s1
        Machine.exec (.collw w) s = .next (passed (.collw w) x
          (if sl.st.terminal = true ∧ ¬ keep then s2.modPart x.team.part fun p => { p with slots := p.slots.set i {} } else s2))))) ∧
  (∀ w s s0 x s', IssuesFrom (.collc w) s s0 x s' → x.ex ≠ 0 →
    let c := Rules.uni x w.a
    let tag := LVec.at (x.src .int w.b) (Mask.lowest x.ex)
    Machine.exec (.collc w) s = .next
      (if s'.commValid c x.team.part = true then
        slept x { on := .collc c tag, ipc := x.pc, dst := .zero, wide := false, pd := some (BitVec.ofNat 3 (w.f 14 12)), lanes := x.ex }
          (s'.tellPrim (.cancel c tag))
       else raised x 0x142 0 s0))

/-- R301, R338, R350, R352 to R354: QPOST, COLL, COLLW and COLLC complete. (EINFO of 0x008, log 11, 0x125 for a queue with LSZ below 4, log 36,
and a post to a primary in this package without the fabric, log 45, are the model's readings.) -/
def Obligations.PostsAndCollectives : Prop := Rules.QueuePosts ∧ Rules.CollectiveResults

/-! ### Events of the quarters, the teams and the core's engines -/

namespace Sys2Proof.Rules

/-- Cycles before this one for which a group has been eligible since its last issue. -/
def waitedOf (s : State) (g : GRef) : Nat :=
  match s.group? g with
  | some gr => if s.clk < gr.waitMark then gr.waited - 1 else gr.waited
  | none => 0

/-- A group takes an active place; the cycle is kept (R140). -/
def seated (s : State) (g : GRef) (p : Nat) : State := s.modGroup g fun gr => { gr with place := some p, readySince := s.clk }

/-- A group leaves its active place (R140, R281). -/
def left (s : State) (g : GRef) : State := s.modGroup g fun gr => { gr with place := none, readySince := s.clk, lastPage := [] }

/-- Every operation of a list has performed. -/
def performed (s : State) (ids : List Nat) : Prop := ∀ i ∈ ids, s.outst.get? i = none

/-- Where a core's fetches for a team come from. -/
def coreFrom (t : Team) (c : Nat) : From := { core := some c, cluster := clusterOf c, part := t.part, lid := t.lid }

end Sys2Proof.Rules

/-- R140, R142: QUARTER_ISSUE, once in a cycle and while no group has been picked, picks one of the eligible active groups of the quarter: when
one has waited 63 cycles, the one that has waited longest; else a laggard, if any is eligible, and among the candidates the one that has waited
longest; the others have waited one cycle more, counted once in a cycle, and a choice made again in a cycle does not see it. ACTIVE_PLACE_GRANT gives a free place to a waiting group: a laggard
first, and among the candidates the one that has been ready longest. ACTIVE_PLACE_YIELD takes the places of the groups that at a run end are
not ready, retired or stopped; else that of the first group at a run end which has issued since it took its place goes to the group that has
waited longest, when that one has been ready and inactive for 512 cycles and no place is free. A group that leaves its place loses its
last-page registers. (Which of several groups at a run end yields, and which of several laggards, or of several groups ready since one
cycle, is seated, R140 leaves open: log 72.) -/
def Obligations.QuarterEvents : Prop :=
  (∀ (core q : Nat) (s s1 : State) (es : List GRef), s.cur = none → (s.core core).issued.getD q 0 ≤ s.clk →
    s.eligible (s.quarterGroups core q fun _ g => g.place.isSome) = (s1, es) → es ≠ [] →
    ∃ g ∈ es,
      Machine.exec (.quarterIssue core q) s
        = .next { (es.filter (· != g)).foldl (fun u h => u.modGroup h fun gr =>
            if gr.waitMark ≤ u.clk then { gr with waited := gr.waited + 1, waitMark := u.clk + 1 } else gr) s1 with cur := some g } ∧
      ((∃ h ∈ es, 63 ≤ Rules.waitedOf s1 h) → ∀ h ∈ es, Rules.waitedOf s1 h ≤ Rules.waitedOf s1 g) ∧
      ((∀ h ∈ es, Rules.waitedOf s1 h < 63) → (∃ h ∈ es, s1.laggard h = true) →
        s1.laggard g = true ∧ ∀ h ∈ es, s1.laggard h = true → Rules.waitedOf s1 h ≤ Rules.waitedOf s1 g) ∧
      ((∀ h ∈ es, s1.laggard h = false) → ∀ h ∈ es, Rules.waitedOf s1 h ≤ Rules.waitedOf s1 g)) ∧
  (∀ (core q p : Nat) (s : State), s.freePlace core q = some p → s.awaitPlace core q ≠ [] →
    ∃ g ∈ s.awaitPlace core q,
      Machine.exec (.activePlaceGrant core q) s = .next (Rules.seated s g p) ∧
      ((∃ h ∈ s.awaitPlace core q, s.laggard h = true) → s.laggard g = true) ∧
      (∀ h ∈ s.awaitPlace core q, (s.laggard h = true ∨ ∀ k ∈ s.awaitPlace core q, s.laggard k = false) →
        ∀ x y, s.group? g = some x → s.group? h = some y → x.readySince ≤ y.readySince)) ∧
  (∀ (core q : Nat) (s : State),
    let atEnd := s.quarterGroups core q fun _ g => g.place.isSome && g.atEnd
    let gone := atEnd.filter fun g =>
      match s.team? g.team, s.group? g with
      | some t, some gr => !gr.ready || gr.live == 0 || s.stopped t gr
      | _, _ => true
    let mayYield := s.quarterGroups core q fun _ g => g.place.isSome && g.atEnd && decide (g.readySince ≤ g.lastIssue)
    (gone ≠ [] → Machine.exec (.activePlaceYield core q) s = .next (gone.foldl Rules.left s)) ∧
    (∀ g r p, gone = [] → mayYield = g :: r → s.freePlace core q = none → (s.group? g).bind Group.place = some p →
      (∀ h ∈ s.awaitPlace core q, ∃ y, s.group? h = some y) →
      (∃ h ∈ s.awaitPlace core q, ∃ y, s.group? h = some y ∧ y.readySince + 512 ≤ s.clk) →
      ∃ old ∈ s.awaitPlace core q,
        Machine.exec (.activePlaceYield core q) s
          = .next (Rules.seated (Rules.left s g) old p) ∧
        ∀ h ∈ s.awaitPlace core q, ∀ x y, s.group? old = some x → s.group? h = some y → x.readySince ≤ y.readySince))

/-- R42, R44, R47, R58, R131, R189, R282: the arrival of results at a group. PORT_RESULT_LANDS makes the results that are due visible.
LOAD_DATA_RETURN writes the values that a piece of an outstanding operation is bound to, once, from the cycle on in which they may land and when an answer from another die has come (R321); the line of
a constant load enters the constant cache. CONSTANT_CACHE_FILL and INSTRUCTION_FETCH_FILL bring the line at its home into the constant or the
instruction cache of the core, and the group waits for it no more; poison raises 0x0C1 and a shadow region 0x0C2, which end the node; what
translation finds is met by the instruction, which issues again. -/
def Obligations.ArrivalEvents : Prop :=
  (∀ (g : GRef) (s : State), Machine.exec (.portResultLands g) s = .next (s.modGroup g fun gr => gr.landDue s.clk)) ∧
  (∀ (id k : Nat) (s : State) (o : Outst) (p : Piece), s.outst.get? id = some o → o.pieces[k]? = some p → p.landed = false →
    (∀ vs, p.vals = some vs → p.away = false → o.at_ ≤ s.clk →
      ((o.kind ≠ .ldc ∨ p.data = none) → Machine.exec (.loadDataReturn id k) s = .next (s.landVals id k vs)) ∧
      (∀ d, o.kind = .ldc → p.data = some d → ∃ t : State, Machine.exec (.loadDataReturn id k) s = .next (t.landVals id k vs) ∧
        (t.core o.core).ccache.get? p.line = some d ∧ t.mem = s.mem ∧ t.slices = s.slices ∧ t.teams = s.teams ∧ t.outst = s.outst)) ∧
    ((p.vals = none ∨ p.away = true ∨ s.clk < o.at_) → Machine.exec (.loadDataReturn id k) s = .next s)) ∧
  (∀ (g : GRef) (s s1 s2 : State) (gr : Group) (t : Team) (c pa : Nat) (va : BitVec 56) (e : TlbEnt) (d : BitVec 1024),
    s.group? g = some gr → s.team? g.team = some t → t.core? = some c → isPeer va = false →
    s.translate (Rules.coreFrom t c) va false = (s1, .ok pa e) →
    (s1.agentLine (.fetch g) (pa / 128) e.cls = (s2, .line d) →
      (gr.want = some (.const va) → ∃ s3 : State, Machine.exec (.constantCacheFill g) s = .next (s3.modGroup g fun gr => { gr with want := none }) ∧
        (s3.core c).ccache.get? (pa / 128) = some d ∧ (s3.core c).icache = (s2.core c).icache) ∧
      (gr.want = some (.fetch va) → ∃ s3 s4 : State, Machine.exec (.instructionFetchFill g) s = .next s4 ∧
        (s4 = s3.modGroup g (fun gr => { gr with want := none }) ∨
          ∃ k, s4 = (s3.modGroup g fun gr => { gr with want := none }).trimVictims k) ∧
        (s3.core c).icache.head? = some (pa / 128, (List.range 32).map fun i => d.extractLsb' (32 * i) 32) ∧
        (s3.core c).ccache = (s2.core c).ccache)) ∧
    (∀ code, s1.agentLine (.fetch g) (pa / 128) e.cls = (s2, .kill code) →
      let u := (s2.modGroup g fun gr => { gr with want := none }).killNode t.node code
      (gr.want = some (.const va) → Machine.exec (.constantCacheFill g) s = .next u) ∧
      (gr.want = some (.fetch va) →
        Machine.exec (.instructionFetchFill g) s = .next u ∨ ∃ k, Machine.exec (.instructionFetchFill g) s = .next (u.trimVictims k)))) ∧
  (∀ (g : GRef) (s s1 : State) (gr : Group) (t : Team) (c : Nat) (va : BitVec 56) (code : Nat), s.group? g = some gr → s.team? g.team = some t →
    t.core? = some c → gr.want = some (.const va) → s.translate (Rules.coreFrom t c) va false = (s1, .err code) →
    Machine.exec (.constantCacheFill g) s = .next (s1.modGroup g fun gr => { gr with want := none })) ∧
  (∀ (s : State) (c : Nat), s.trimVictims c = s.modCore c fun k => { k with victims := k.victims.take (s.victimRoom c) })

namespace Sys2Proof.Rules

/-- Where the record of a team's launch lies, with the state after looking: as its weaver read it; after a shootdown, with no access to it
on its way, as its virtual address translates then (R267, R285). -/
def recordOf (s : State) (n : Node) (t : Team) (core : Nat) (sr : State) (p : Spot) : Prop :=
  (t.recStale = false ∧ sr = s ∧ p = t.recAt) ∨
  (t.recStale = true ∧ (s.far.all fun x => x.who != .team t.id) = true ∧ ∃ s1 : State,
    s.reach { core := none, cluster := clusterOf core, part := n.part, lid := n.lid } (BitVec.ofNat 56 (n.tensor.recs + 32 * t.record)) true
      = (s1, .spot p) ∧
    sr = s1.modTeam t.id fun t => { t with recAt := p, recStale := false })

end Sys2Proof.Rules

/-- R152, R195, R196, R267: the residency of teams. DISPATCHER_ADMIT, of a cluster that has a partition and does not switch: a head whose demands
exceed an empty core kills its node with 0x084; else the first team of the queue that fits leaves the queue and takes its places, and once the
head has waited 4,096 cycles, which DISPATCHER_HEAD_TIMEOUT records, only the head may. TEAM_SAVE and TEAM_RETIRE of a team that is ready for it
first write back and invalidate the whole L1 of its core; once those write-backs have performed, the save writes the frame and gives the core's
resources back, and the retirement takes 1 from LIVE of the team's record at its home, by adding 2^32 − 1 to it, and removes the team, once the
record translates (log 79). TEAM_RESTORE reads the frame back
once its boundary has performed and the copy queue has room. -/
def Obligations.TeamResidency : Prop :=
  (∀ (cl h : Nat) (r : List Nat) (s : State) (tm : Team), (s.cluster cl).part ≠ none → (s.cluster cl).switching = none →
    (s.cluster cl).links.dq = h :: r → s.team? h = some tm →
    let l := (s.cluster cl).links
    (tooLarge tm = true → Machine.exec (.dispatcherAdmit cl) s = .next (s.killNode tm.node 0x084)) ∧
    (tooLarge tm = false →
      (∀ t c f, s.firstFit cl (h :: r) = some (t, c, f) → l.alone = false → s.clk < l.headSince + 4096 →
        Machine.exec (.dispatcherAdmit cl) s = .next ((s.unqueue cl t.id).seat c t f)) ∧
      (∀ t c f, s.firstFit cl [h] = some (t, c, f) → (l.alone = true ∨ l.headSince + 4096 ≤ s.clk) →
        Machine.exec (.dispatcherAdmit cl) s = .next ((s.unqueue cl t.id).seat c t f)))) ∧
  (∀ (cl : Nat) (ts : List Nat) (s : State) (t : Team) (c : Nat) (f : Fit), s.firstFit cl ts = some (t, c, f) →
    (∃ a n b, ts = a ++ n :: b ∧ s.team? n = some t ∧
      ∀ k ∈ a, ∀ u, s.team? k = some u → s.frameRoom cl u = false ∨ ∀ d, d / 8 = cl → s.fits d u = none) ∧ c / 8 = cl ∧ s.frameRoom cl t = true ∧ s.fits c t = some f) ∧
  (∀ (cl : Nat) (s : State), (s.cluster cl).links.dq ≠ [] → (s.cluster cl).links.headSince + 4096 ≤ s.clk →
    Machine.exec (.dispatcherHeadTimeout cl) s
      = .next (s.modCluster cl fun c => { c with links := { c.links with alone := true } })) ∧
  (∀ (tid c : Nat) (s : State) (t : Team) (why : SaveWhy), s.team? tid = some t → t.core? = some c → t.saving = some why →
    let s0 := if s.nodeRuns t = true then s.dropRefused tid else (s.dropRefused tid).stopAcc t
    s0.saveReady c t = true →
    let s1 := s0.flushL1 c { team := tid, grp := 0 }
    (t.boundary = none → Machine.exec (.teamSave tid) s = .next (s1.modTeam tid fun t => { t with boundary := some (s1.coreWrites c) })) ∧
    (∀ ids, t.boundary = some ids → Rules.performed s0 ids → Machine.exec (.teamSave tid) s = .next (s0.writeFrame c t why))) ∧
  (∀ (tid c : Nat) (s : State) (t : Team) (fr : Frame) (ids : List Nat), s.team? tid = some t → t.place = .restoring c →
    t.frame = some fr → t.boundary = some ids → Rules.performed s ids → (s.core c).cq.length + fr.copies.length ≤ 32 →
    ∃ u : State, Machine.exec (.teamRestore tid) s = .next (u.bumpGens tid) ∧
      (u.core c).cq = (s.core c).cq ++ fr.copies ∧ (∀ m, fr.mx = some m → (u.core c).mx = { m with owner := some tid }) ∧
      (∃ t', u.team? tid = some t' ∧ t'.place = .resident c ∧ t'.frame = none ∧ t'.boundary = none ∧
        t'.groups = t.groups.map fun g => { applyOuts (backGroup g) with readySince := s.clk }) ∧
      u.mem = s.mem ∧ u.poison = s.poison) ∧
  (∀ (tid c : Nat) (s : State) (t : Team) (n : Node), s.team? tid = some t → t.core? = some c → s.retireReady c t = true →
    s.node? t.node = some n → n.st = .running → t.id = tid →
    let s1 := s.flushL1 c { team := tid, grp := 0 }
    (t.boundary = none → Machine.exec (.teamRetire tid) s = .next (s1.modTeam tid fun t => { t with boundary := some (s1.coreWrites c) })) ∧
    (∀ ids s2 sr p v, t.boundary = some ids → Rules.performed s ids → Rules.recordOf s n t c sr p →
      sr.spotRmw (.team tid) { p with pa := p.pa + 0x18 } 0 4 0xFFFFFFFF = (s2, .old v) →
      ∃ u : State, Machine.exec (.teamRetire tid) s = .next (u.release c tid) ∧ u.mem = s2.mem ∧ u.team? tid = none ∧
        ∀ t' : Nat, t' ≠ tid → u.team? t' = s2.team? t'))

namespace Sys2Proof.Rules

/-- A command of a core's copy queue with one change. -/
def copyWith (s : State) (core cmd : Nat) (f : CopyEnt → CopyEnt) : State :=
  s.modCore core fun c => { c with cq := c.cq.map fun e => if e.id = cmd then f e else e }

/-- A command leaves its core's copy queue. -/
def copyGone (s : State) (core cmd : Nat) : State := s.modCore core fun c => { c with cq := c.cq.filter fun e => e.id != cmd }

/-- Where the copy engine's accesses for a team come from. -/
def engineFrom (t : Team) (core : Nat) : From := { core := none, cluster := clusterOf core, part := t.part, lid := t.lid }

/-- A command ends with a cause: it leaves the queue, its node is killed, and ways that it held back return (R146, R168). -/
def copyFails (s : State) (core : Nat) (t : Team) (cmd code : Nat) : State :=
  ((copyGone s core cmd).killNode t.node code).returnWays core { team := t.id, grp := 0 }

/-- A queued or posted fault entry is that of a copy command. -/
def copyFaulty (s : State) (part cmd : Nat) : Prop :=
  (∃ e ∈ (s.part part).posts, ∃ c, e.agent = .copy c cmd) ∨ ∃ e ∈ (s.part part).watch, ∃ c, e.2.agent = .copy c cmd

end Sys2Proof.Rules

/-- R146, R151, R163, R167, R168, R334: the copy engine. COPY_COMMAND_START starts the oldest command not started, with at most four in progress.
COPY_ENGINE_WRITE performs the next bytes of a started command: it ends with 0x048, skips bytes, or writes them, as R167 says of the next byte, with
the patch record as it was read before the box's first write;
between scratch and scratch the bytes move at once, unless the
slot that they reach is not FILLING, 0x045, or cannot take them, 0x046; bytes to or from virtual memory go line by line, at their homes.
COPY_RESUME lets a paused command go on once its fault entry has been
resolved. COPY_COMMAND_COMPLETE frees the entry of a command all of whose bytes have been written; ways that it held back return. An address in
the peer window ends a command with 0x141. (How many bytes one write has is the model's choice, log 31.) -/
def Obligations.CopyEngine : Prop :=
  (∀ (core : Nat) (s : State) (e : CopyEnt) (t : Team), ((s.core core).cq.filter CopyEnt.started).length < 4 →
    (s.core core).cq.find? (fun e => !e.started) = some e → s.team? e.team = some t → t.saving = none → s.nodeRuns t = true →
    Machine.exec (.copyCommandStart core) s = .next (Rules.copyWith s core e.id fun e => { e with started := true })) ∧
  (∀ (core cmd n : Nat) (s : State) (e : CopyEnt) (t : Team), (s.core core).cq.find? (fun e => e.id == cmd) = some e → s.team? e.team = some t →
    e.started = true → e.paused = false → e.pos < e.cmd.total → s.nodeRuns t = true →
    let box := e.cmd.box e.pos
    let now := patchOf ((s.core core).scratch.bytes (t.scrBase + e.cmd.idx + 16 * box) 16)
    let p := match e.rec_ with | some (i, p) => if i = box then p else now | none => now
    let s1 := Rules.copyWith s core cmd fun e => { e with rec_ := some (box, p) }
    let k := e.cmd.run p e.pos (min n 128)
    (e.cmd.act p e.pos = .bad → Machine.exec (.copyEngineWrite core cmd n) s = .next (Rules.copyFails s1 core t e.id 0x048)) ∧
    (e.cmd.act p e.pos = .skip → Machine.exec (.copyEngineWrite core cmd n) s
      = .next (Rules.copyWith s1 core cmd fun e => { e with pos := e.pos + k })) ∧
    (∀ a b, e.cmd.act p e.pos = .write a b → k ≠ 0 →
      Machine.exec (.copyEngineWrite core cmd n) s = .next (s1.copyRun core t e (a.map (e.cmd.src + ·)) (e.cmd.dst + b) k))) ∧
  (∀ (core : Nat) (s : State) (t : Team) (e : CopyEnt) (a b n : Nat), e.cmd.sk = true → e.cmd.dk = true →
    let k := let k := t.clear b n; if a < b ∧ b < a + k then b - a else k
    let bytes := (s.core core).scratch.bytes (t.scrBase + a) k
    (t.slotCause b k ≠ 0 → s.copyRun core t e (some a) b n = Rules.copyFails s core t e.id (t.slotCause b k)) ∧
    (t.slotCause b k = 0 → s.copyRun core t e (some a) b n
      = (Rules.copyWith (s.modCore core fun c => { c with scratch := c.scratch.writeBytes (t.scrBase + b) bytes }) core e.id
          fun e => { e with pos := e.pos + k }).slotFill t b k)) ∧
  (∀ (core : Nat) (s s1 s2 : State) (t : Team) (e : CopyEnt) (a b n : Nat) (p : Spot), e.cmd.sk = true → e.cmd.dk = false →
    let k := min n (128 - p.pa % 128)
    s.reachOwn (Rules.engineFrom t core) (BitVec.ofNat 56 b) true = (s1, .spot p) →
    s1.tryWriteN (.copy core e.id) p.pa k (leNat ((s1.core core).scratch.bytes (t.scrBase + a) k)) p.cls = (s2, true) →
    s.copyRun core t e (some a) b n = Rules.copyWith s2 core e.id fun e => { e with pos := e.pos + k }) ∧
  (∀ (core : Nat) (s s1 s2 : State) (t : Team) (e : CopyEnt) (a b n : Nat) (p : Spot) (d : BitVec 1024), e.cmd.sk = false →
    e.cmd.dk = true → s.reachOwn (Rules.engineFrom t core) (BitVec.ofNat 56 a) false = (s1, .spot p) →
    s1.engineLine (.copy core e.id) (clusterOf core) (p.pa / 128) p.cls p.arena = (s2, .line d) →
    let k := t.clear b (min n (128 - p.pa % 128))
    t.slotCause b k = 0 →
    s.copyRun core t e (some a) b n
      = (Rules.copyWith (s2.modCore core fun c =>
            { c with scratch := c.scratch.writeBytes (t.scrBase + b) ((List.range k).map fun i => lineByte d (p.pa % 128 + i)) }) core e.id
          fun e => { e with pos := e.pos + k }).slotFill t b k) ∧
  (∀ (t : Team) (off n : Nat),
    (t.slotAt off = none → t.slotCause off n = 0) ∧
    (∀ h i lo hp, t.slotAt off = some (h, i, lo) → t.hoops.get? h = some hp →
      t.slotCause off n = if lo + hp.ssz < off + n then 0x046 else if hp.tag.getD i .empty ≠ .filling then 0x045
        else if hp.ssz < hp.fill.getD i 0 + n then 0x046 else 0)) ∧
  (∀ (core cmd : Nat) (s : State) (e : CopyEnt) (t : Team), (s.core core).cq.find? (fun e => e.id == cmd) = some e → s.team? e.team = some t →
    e.paused = true → t.saving = none → ¬ Rules.copyFaulty s t.part cmd →
    Machine.exec (.copyResume core cmd) s = .next (Rules.copyWith s core cmd fun e => { e with paused := false })) ∧
  (∀ (core cmd : Nat) (s : State) (e : CopyEnt), (s.core core).cq.find? (fun e => e.id == cmd) = some e → e.started = true →
    e.paused = false → e.cmd.total ≤ e.pos → Machine.exec (.copyCommandComplete core cmd) s
      = .next ((Rules.copyGone s core cmd).returnWays core { team := e.team, grp := 0 })) ∧
  (∀ (s : State) (f : From) (va : BitVec 56) (wr : Bool), isPeer va = true → s.reachOwn f va wr = (s, .kill 0x141))

namespace Sys2Proof.Rules

/-- An entry of the matrix sequencer that performs next: the oldest not all of whose steps have started. -/
def nextEntry (mx : MxUnit) (e : MxEnt) : Prop := ∃ b, mx.current = some (e, b)

/-- A change to the matrix unit of a core. -/
def onMx (s : State) (core : Nat) (f : MxUnit → MxUnit) : State := s.modCore core fun c => { c with mx := f c.mx }

/-- One element of an accumulator, as ACCRD and ACCWR number them (R189). -/
def accAt (mx : MxUnit) (tr : Bool) (tile e : Nat) : Word :=
  mx.acc.getD (192 * tile + (if tr then 12 * (e % 16) + e / 16 else 12 * (e / 12) + e % 12)) 0

end Sys2Proof.Rules

/-- R176, R182, R185 to R191: the matrix sequencer. OPERAND_CACHE_FILL brings up to four of the lines that the next step needs and that neither are
present nor arrive, once a cycle, present a cycle later. MATRIX_STEP_START starts the next step once its lines are present: the operands are
read now, the entry moves on, the next step starts no earlier than a cycle later; a slot neither FULL nor DRAINING ends the node with 0x053.
MATRIX_STEP_UPDATE makes the oldest step's tile update visible 8 cycles after its start. WBLD_TRANSFER copies up to 256 bytes of the oldest
entry into the weight buffer, or ends the node with 0x053. MATRIX_ENTRY_COMPLETE removes the oldest entry once it has finished, and the MWAITs
whose count is reached end as the next cycle begins, with the status word of that moment. ACCUMULATOR_PERFORM performs the oldest accumulator
instruction once the entries before it have completed; what ACCRD reads lands 6 cycles later. (Which entries go on while their team is being
saved, log 59, that a slot's tags are checked when the step starts, log 38, and what makes the sequencer idle, log 74, are the model's readings.) -/
def Obligations.MatrixSequencer : Prop :=
  (∀ (core : Nat) (s : State) (t : Team) (mx : MxUnit) (e : MxEnt) (tile ha hb total next : Nat) (z : Bool) (wa wb : Word) (blk : LoopBlk)
    (os : OpSet), s.mxRuns core = some (t, mx) → Rules.nextEntry mx e → e.work = .loop tile z ha hb wa wb blk total next → opSet wa wb = some os →
    e.ready ≤ s.clk → mx.goesOn t e = true →
    let now := mx.arrive s.clk
    let parts := blk.places next os.nb
    let lines := rangeLines parts
    let gen := (mx.hnd.getD ha {}).gen
    (mx.fillFree ≤ s.clk → now.missing ha lines ≠ [] → Machine.exec (.operandCacheFill core) s
      = .next (Rules.onMx s core fun _ =>
          { now with
            fills := now.fills ++ ((now.missing ha lines).take 4).map fun l =>
              ({ h := ha, gen, off := l, bytes := (s.core core).scratch.bytes (t.scrBase + 128 * l) 128 }, s.clk + 1)
            fillFree := s.clk + 1 })) ∧
    (mx.lastStep ≤ s.clk → mx.accBefore e.id tile = false → (∀ l ∈ lines, (now.ocFind ha l).isSome = true) →
      ((∃ p ∈ parts, t.slotsReady p.1 p.2 = false) → Machine.exec (.matrixStepStart core) s = .next (s.killNode t.node 0x053)) ∧
      ((∀ p ∈ parts, t.slotsReady p.1 p.2 = true) →
        ∃ m : MxUnit, Machine.exec (.matrixStepStart core) s = .next (Rules.onMx s core fun _ => m) ∧
          m.steps = mx.steps ++ [now.stepOf e.id tile z ha wa wb os blk next s.clk] ∧ m.lastStep = s.clk + 1 ∧
          m.acc = mx.acc ∧ m.wb = mx.wb ∧ m.accq = mx.accq ∧
          m.entries = mx.entries.map fun x =>
            if x.id = e.id then { x with work := .loop tile z ha hb wa wb blk total (next + 1), started := true, lastStart := s.clk } else x))) ∧
  (∀ (core : Nat) (s : State) (m : MxStep) (r : List MxStep), (s.core core).mx.steps = m :: r → m.at_ ≤ s.clk →
    Machine.exec (.matrixStepUpdate core) s = .next (Rules.onMx s core fun mx => { mx.applyStep m with steps := r })) ∧
  (∀ (core : Nat) (s : State) (t : Team) (mx : MxUnit) (e : MxEnt) (src len dst done : Nat), s.mxRuns core = some (t, mx) →
    mx.current = some (e, true) → e.work = .wbld src len dst done → e.ready ≤ s.clk → done < len → (e.started = false ∨ e.lastStart ≠ s.clk) →
    mx.goesOn t e = true →
    let n := min 256 (len - done)
    (t.slotsReady (src + done) n = false → Machine.exec (.wbldTransfer core) s = .next (s.killNode t.node 0x053)) ∧
    (t.slotsReady (src + done) n = true →
      ∃ m : MxUnit, Machine.exec (.wbldTransfer core) s = .next (Rules.onMx s core fun _ => m) ∧
        m.wb = (s.core core).mx.wb.writeBytes (dst + done) ((s.core core).scratch.bytes (t.scrBase + src + done) n) ∧
        m.acc = (s.core core).mx.acc ∧
        m.entries = (s.core core).mx.entries.map fun x =>
          if x.id = e.id then { x with work := .wbld src len dst (done + n), started := true, lastStart := s.clk } else x)) ∧
  (∀ (core : Nat) (s : State) (t : Team) (mx : MxUnit) (e : MxEnt) (r : List MxEnt), s.mxRuns core = some (t, mx) → mx.entries = e :: r →
    mx.finished e s.clk = true →
    let s1 := Rules.onMx s core fun mx => { mx with entries := r }
    Machine.exec (.matrixEntryComplete core) s = .next
      (t.mwaits.foldl (fun u w => if r.length ≤ w.2.2 then { u with wakes := u.wakes ++ [({ g := w.1, slot := w.2.1 }, none)] } else u) s1)) ∧
  (∀ (s : State) (w : Waiter), s.wakes = [(w, none)] →
    s.applyWakes = ({ s with wakes := [] } : State).wake w.g w.slot (WaitOut.word true (({ s with wakes := [] } : State).mxStatus w.g.team))) ∧
  (∀ (mx : MxUnit) (t : Team) (e : MxEnt), t.saving = none → mx.goesOn t e = true) ∧
  (∀ (core : Nat) (s : State) (a : AccIns) (r : List AccIns), (s.core core).mx.accq = a :: r →
    (∀ e ∈ (s.core core).mx.entries, e.id ∉ a.after) →
    let mx := (s.core core).mx
    let s1 := Rules.onMx s core fun mx => { mx with accq := r }
    (∀ tile q tr ik sat rnd conv sr load, a.op = .read tile q tr ik sat rnd conv sr load →
      let xs := (List.range 32).map fun l => Rules.accAt mx tr tile (32 * q + l)
      Machine.exec (.accumulatorPerform core) s = .next (s1.modOut load fun o =>
        { o.modPiece 0 (fun p => { p with vals := some (p.accs.map fun x =>
            (x.lane, (accConv conv ik sat (Rnd.ofField rnd) sr xs x.lane).setWidth 128)) }) with at_ := s.clk + 6 })) ∧
    (∀ tile q tr lanes val, a.op = .write tile q tr lanes val →
      ∃ m : MxUnit, Machine.exec (.accumulatorPerform core) s = .next (Rules.onMx s1 core fun _ => m) ∧ m.wb = mx.wb ∧ m.sticky = mx.sticky ∧
        ∀ l, l < 32 → 32 * q + l < 192 →
          Rules.accAt m tr tile (32 * q + l) = if lanes.getLsbD l then LVec.at val l else Rules.accAt mx tr tile (32 * q + l)) ∧
    (∀ tile n sticky, a.op = .clear tile n sticky →
      ∃ m : MxUnit, Machine.exec (.accumulatorPerform core) s = .next (Rules.onMx s1 core fun _ => m) ∧
        m.sticky = (mx.sticky && !sticky) ∧
        ∀ k, m.acc.getD k 0 = if 192 * tile ≤ k ∧ k < 192 * (tile + n) then 0 else mx.acc.getD k 0))

/-! ### Events of the slices, the links and the weavers -/

namespace Sys2Proof.Rules

/-- A request joins the chain of its blocked set: its line is not held, and no older request to it is in the bypass queue. -/
def chained (sl : Slice) (set : Nat) (r : Req) : Bool :=
  sl.blocked.any (fun b => b.set == set) && !(sl.held.any fun x => x.line == r.line) && !((sl.queueOf set).any fun x => x.line == r.line)

/-- The bank of a set stops at a request: the chains that it would join hold 64 requests, or the bypass queue 16, or it needs a fill while
16 sets of the bank are blocked (R213). -/
def bankStops (sl : Slice) (set : Nat) (r : Req) : Bool :=
  if chained sl set r then decide (64 ≤ ((sl.blocked.filter fun b => b.set % 4 == set % 4).map fun b => b.chain.length).sum)
  else decide (16 ≤ (sl.queueOf set).length)
    || (!(sl.blocked.any fun b => b.set == set) && !(sl.held.any fun x => x.line == r.line) && sl.needsFill set r && sl.bankFull set)

/-- The bank takes a request: into a chain, or at the end of its bypass queue, which goes on. -/
def bankEnters (s : State) (h : HomeAt) (r : Req) : State :=
  let sl := s.slice h.slice
  if chained sl h.set r then s.modSlice h.slice fun sl =>
    { sl with blocked := sl.blocked.map fun b => if b.set = h.set then { b with chain := b.chain ++ [r] } else b }
  else (s.modSlice h.slice fun sl => { sl with queues := sl.queues.set (h.set % 4) (sl.queueOf h.set ++ [r]) }).drainBank h.slice (h.set % 4) 16

/-- An ended monitor: its waiter wakes with the word at its home; where the read of it meets a shadow region or poison, the node of a waiting
group is killed, and an agent's monitor is only given up (R212, R218, R223). -/
def monEnds (s : State) (m : Mon) (flag : Bool) : State :=
  let cause := if s.inShadow (128 * (m.word / 128)) then 0x0C2 else if s.homePoison (m.word / 128) then 0x0C1 else 0
  if cause = 0 then s.wakeMon m flag (s.homeWord m.word)
  else
    match m.who with
    | .group g _ | .team g _ => (match s.team? g.team with | some t => s.killNode t.node cause | none => s)
    | _ => s

/-- The line of a group's request leaves the L1 of its core. -/
def lineLeaves (s : State) (r : Req) : State :=
  match (s.team? r.g.team).bind Team.core? with
  | some c => s.leaveL1 c r.g r.line
  | none => s

end Sys2Proof.Rules

/-- R147, R198, R199, R210, R213, R215 to R218, R222 to R224: the events of a slice complete. SLICE_REQUEST takes a source's oldest request,
and L1_WRITEBACK_ARRIVAL its oldest write-back, unless its far channel is not ready: at its home it joins the chain of a blocked set, or
enters the bypass queue of its bank, which performs what it holds in order as far as it can; where the bank stops, it and those behind it wait at
the crossbar and go on in their order (that the bank goes on in the same event as far as it can, and that a request whose line is queued does not
join the chain, is the model's choice, log 15). At another slice a replica answers, or the request goes on to its home. SLICE_FILL_RETURN frees the
set, brings the line and handles the request that missed and its chain in order. The answer to a core of another die crosses to it as a message
(R321). REPLICA_INVALIDATION_ACK drops a replica and answers, by a message to another die, and REPLICA_DROP_NOTICE reports one; the home clears the bit
and, with no answer outstanding, handles the held requests in order; a replica that has come from another die takes its place while its home counts
it. MONITOR_DEADLINE wakes a late waiter with false and the word, which poison and shadow regions stop. OVERFLOW_REEVALUATION looks at every overflow
entry in every 1,024th cycle. WAITC_OVERFLOW_RETRY sends a refused WAITC again with 4 units less, or answers it with false. VAULT_SCRUB poisons a
vault line that cannot be corrected. MESSAGE_ARRIVAL moves a message whose way is over into its FIFO. (That a read does not turn to a replica behind a
request of its source that waits at the home, that the line of a refused WAITC leaves L1, and that a drop notice older than the present replica, or
than one on its way, says nothing, are the model's readings, log 30.) -/
def Obligations.SliceEvents : Prop :=
  (∀ (slice : Nat) (src : Src) (r : Req) (s : State) (h : HomeAt), s.net.find? (fun x => x.1 == slice && x.2.src == src) = some (slice, r) →
    s.home r.line = some h →
    let wb := r.body.isWb
    let i : Instr := if wb then .l1WritebackArrival slice src else .sliceRequest slice src
    let answers (t : State) : Prop := Machine.exec i s = .next (if wb then t else t.drain slice)
    let s1 : State := { s with net := s.net.eraseP fun x => x.1 == slice && x.2.src == src }
    let waiting := (s.slice slice).xbar.getD (h.set % 4) []
    (s.farWaits r.line = true → answers s) ∧
    (s.farWaits r.line = false →
      (h.slice = slice →
        ((waiting ≠ [] ∨ Rules.bankStops (s.slice slice) h.set r = true) →
          answers (s1.modSlice slice fun sl => { sl with xbar := sl.xbar.set (h.set % 4) (waiting ++ [r]) })) ∧
        (waiting = [] → Rules.bankStops (s.slice slice) h.set r = false → answers (Rules.bankEnters s1 h r))) ∧
      (h.slice ≠ slice → srcSector r.src = none → answers (s1.toSlice h.slice r)) ∧
      (∀ die sec, h.slice ≠ slice → srcSector r.src = some (die, sec) →
        (∀ l, s1.homePending r.src r.line = false → s1.replica? die sec r.line = some l →
          (l.poison = true → answers ((s1.failReq r 0x0C1).endOut r.op)) ∧
          (l.poison = false → answers
            ((s1.modSlice (s1.placeIn die sec r.line).slice fun sl => sl.touch (s1.placeIn die sec r.line).set r.line id).bindRead r l.data []))) ∧
        ((s1.homePending r.src r.line = true ∨ s1.replica? die sec r.line = none) →
          answers (s1.toHolder h.slice (3 * die + sec) (.req h.slice r) true))))) ∧
  (∀ (slice bank n : Nat) (s : State) (r : Req) (rs : List Req) (h : HomeAt), (s.slice slice).queues.getD bank [] = r :: rs →
    s.home r.line = some h →
    (s.bankTakes h r = true → s.drainBank slice bank (n + 1)
      = ((s.modSlice slice fun sl => { sl with queues := sl.queues.set bank rs }).handle h r []).drainBank slice bank n) ∧
    (s.bankTakes h r = false → s.drainBank slice bank (n + 1) = s)) ∧
  (∀ (slice bank n : Nat) (s : State) (r : Req) (rs : List Req) (h : HomeAt), (s.slice slice).xbar.getD bank [] = r :: rs →
    s.home r.line = some h →
    (Rules.bankStops (s.slice slice) h.set r = false → s.drainXbar slice bank (n + 1)
      = (Rules.bankEnters (s.modSlice slice fun sl => { sl with xbar := sl.xbar.set bank rs }) h r).drainXbar slice bank n) ∧
    (Rules.bankStops (s.slice slice) h.set r = true → s.drainXbar slice bank (n + 1) = s)) ∧
  (∀ (slice : Nat) (s : State) (set : Nat) (l : SLine) (h : HomeAt), (s.slice slice).arrivals = [(set, l)] → s.home l.line = some h →
    let u := s.modSlice slice fun sl => { sl with arrivals := [] }
    let at_ : HomeAt := { die := slice / 66, sector := slice % 66 / 22, slice, set }
    s.settleIn slice
      = if ((u.slice h.slice).holders.getD l.line 0).getLsbD (3 * at_.die + at_.sector) then u.place at_ l else u) ∧
  (∀ (s : State) (slice : Nat) (r : Req) (c : Nat), r.src = .core c →
    s.expectAnswer slice r = (if c / 168 = slice / 66 then s else s.modOut r.op fun o => o.modPiece r.piece fun p => { p with away := true }) ∧
    ∀ o p, s.outst.get? r.op = some o → o.pieces[r.piece]? = some p →
      s.reply slice r = (if p.away = true ∧ (p.landed = true ∨ p.vals ≠ none ∨ p.data ≠ none) then
        s.launch { from_ := slice / 66, to_ := c / 168, pair := (4000 + slice, c), msg := .rsp r.op r.piece p.data p.vals } else s)) ∧
  (∀ (s : State) (h : HomeAt) (r : Req) (later : List Req),
    let sl := s.slice h.slice
    let isHeld := sl.held.any fun x => x.line == r.line
    let isBlocked := sl.blocked.any fun b => b.set == h.set
    (isHeld = true → s.handle h r later = s.modSlice h.slice fun sl =>
      { sl with held := sl.held.map fun x => if x.line = r.line then { x with reqs := x.reqs ++ [r] } else x }) ∧
    (isHeld = false → isBlocked = true → s.handle h r later = s.modSlice h.slice fun sl =>
      { sl with blocked := sl.blocked.map fun b => if b.set = h.set then { b with chain := b.chain ++ [r] } else b }) ∧
    (isHeld = false → isBlocked = false →
      (s.faulty r ≠ 0 → s.handle h r later
        = (((s.expectAnswer h.slice r).failReq r (s.faulty r)).endOut r.op).reply h.slice r) ∧
      (s.faulty r = 0 → r.body.writes = true → sl.holders.getD r.line 0 ≠ 0 → s.handle h r later = s.invalidate h r.line [r]) ∧
      (s.faulty r = 0 → (r.body.writes = false ∨ sl.holders.getD r.line 0 = 0) → sl.misses h.set r.line r.cls = true →
        r.body ≠ .release → r.body ≠ .disc → s.handle h r later = s.block h r.line r.cls (some r)) ∧
      (s.faulty r = 0 → (r.body.writes = false ∨ sl.holders.getD r.line 0 = 0) →
        (sl.misses h.set r.line r.cls = false ∨ r.body = .release ∨ r.body = .disc) → (∀ a w, r.body ≠ .agent a w) → s.isWhole r.op = false →
        s.handle h r later = ((s.expectAnswer h.slice r).perform h r later).reply h.slice r))) ∧
  (∀ (slice set : Nat) (s : State) (b : Blocked) (h : HomeAt), (s.slice slice).blocked.find? (fun b => b.set == set) = some b →
    s.home b.line = some h →
    Machine.exec (.sliceFillReturn slice set) s = .next
      ((((s.modSlice slice fun sl => { sl with blocked := sl.blocked.filter fun x => x.set != set }).ensure h b.line b.cls).handleAll h
        (b.first.toList ++ b.chain)).drain slice)) ∧
  (∀ (line holder : Nat) (s : State), (line, holder) ∈ s.invals →
    let u := ({ s with invals := s.invals.erase (line, holder) } : State).dropReplica line holder
    ∀ h, u.home line = some h →
      Machine.exec (.replicaInvalidationAck line holder) s
        = .next (if holder / 3 = h.die then u.clearHolder line holder else u.toHolder h.slice holder (.ack h.slice line holder) true)) ∧
  (∀ (line holder : Nat) (s : State), (line, holder) ∈ s.drops →
    let s1 : State := { s with drops := s.drops.erase (line, holder) }
    let coming := s.granting (s.placeIn (holder / 3) (holder % 3) line).slice line
    (s.replica? (holder / 3) (holder % 3) line = none → coming = false →
      Machine.exec (.replicaDropNotice line holder) s = .next (s1.clearHolder line holder)) ∧
    ((s.replica? (holder / 3) (holder % 3) line ≠ none ∨ coming = true) → Machine.exec (.replicaDropNotice line holder) s = .next s1)) ∧
  (∀ (line bit : Nat) (s : State) (h : HomeAt), s.home line = some h →
    s.clearHolder line bit = (s.modSlice h.slice fun sl => sl.clearHolder line bit).drain h.slice) ∧
  (∀ (slice : Nat) (s : State) (h : HomeAt) (x : Held), (s.slice slice).held = [x] → s.home x.line = some h → x.owner = none →
    (x.awaiting = 0 → s.settleSlice slice = (s.modSlice slice fun sl => { sl with held := [] }).handleAll h x.reqs) ∧
    (x.awaiting ≠ 0 → s.settleSlice slice = s)) ∧
  (∀ (slice k d : Nat) (s : State) (m : Mon), (s.slice slice).mons.get? k = some m → m.deadl = some d → d ≤ s.clk / 256 →
    Machine.exec (.monitorDeadline slice k) s = .next (Rules.monEnds (s.freeMon slice k) m false)) ∧
  (∀ (slice : Nat) (s : State), s.clk % 1024 = 0 →
    Machine.exec (.overflowReevaluation slice) s = .next ((s.slice slice).overflow.foldl
      (fun u m =>
        if u.inShadow (128 * (m.word / 128)) = true ∨ u.homePoison (m.word / 128) = true ∨ monSat m.mode (u.homeWord m.word) m.opnd = true then
          Rules.monEnds u m true
        else if u.late m then Rules.monEnds u m false
        else u.modSlice slice fun sl => { sl with overflow := sl.overflow ++ [m] })
      (s.modSlice slice fun sl => { sl with overflow := [] }))) ∧
  (∀ (slice n at_ off slot : Nat) (s : State) (r : Req) (opnd timeout : Word) (mode : BitVec 3) (swap : Bool),
    (s.slice slice).refused[n]? = some (r, at_) → at_ ≤ s.clk → r.body = .waitc off opnd mode timeout swap slot →
    let s1 := Rules.lineLeaves (s.modSlice slice fun sl => { sl with refused := sl.refused.eraseIdx n }) r
    ((timeout = 0 ∨ 4 < timeout.toNat) → Machine.exec (.waitcOverflowRetry slice n) s
      = .next (s1.send { r with body := .waitc off opnd mode (if timeout = 0 then 0 else timeout - 4) swap slot })) ∧
    (timeout ≠ 0 → timeout.toNat ≤ 4 → s1.inShadow (128 * r.line) = false → s1.homePoison r.line = false →
      Machine.exec (.waitcOverflowRetry slice n) s
        = .next (((s1.answerWait r.g slot (WaitOut.word false (s1.homeWord (128 * r.line + off)))).landPiece r.op r.piece).reply slice r))) ∧
  (∀ (line : Nat) (s : State), 128 * line < vaultEnd →
    ∃ t : State, Machine.exec (.vaultScrub line true) s = .next t ∧ (∀ l, l ∈ t.poison ↔ l = line ∨ l ∈ s.poison) ∧ t.mem = s.mem ∧
      t.slices = s.slices ∧ t.teams = s.teams) ∧
  (∀ (cl side ch : Nat) (s : State) (f : FlyMsg), s.fly.find? (fun f => f.cluster == cl && f.side == side && f.channel == ch) = some f →
    f.at_ ≤ s.clk → Machine.exec (.messageArrival cl side ch) s = .next
      ((({ s with fly := s.fly.erase f } : State).modLinks cl f.part fun l =>
          { l with fifo := l.fifo.update (4 * side + ch) [] (· ++ [f.msg]) }).settleFifo cl f.part side ch 17))

namespace Sys2Proof.Rules

/-- A weaver of a running node of a resident partition. -/
def weaves (s : State) (node die : Nat) (n : Node) (w : Weaver) : Prop :=
  s.node? node = some n ∧ n.weavers.get? die = some w ∧ n.st = .running ∧ (s.part n.part).resident = true

/-- A weaver takes a new state. -/
def weaverTo (s : State) (node die : Nat) (st : WSt) : State := s.modWeaver node die fun w => { w with st }

/-- The STATE word with ST FAULTED (R264). -/
def faultedWord (w : Word) : Word := (w &&& ~~~3#32) ||| 2#32

end Sys2Proof.Rules

/-- R222, R253 to R264: the weavers. WEAVER_RECORD_READ reads the record in hand at its home and branches on it; an unmapped one is reported, or waits
for the weaver that reports it. WEAVER_CLAIM performs one step of a claim: a malformed or FAULTED record goes to the fault procedure with reason
1 or 3, a MIGRATING one is deferred; a RESIDENT one has its teams added to LIVE, then (STATE, STAMP) swapped for (STATE, the launch id), which
fails if either has changed, whereupon LIVE is restored and the record is read again; a launch that writes then clears the V bits of
the replicas. TEAM_CREATE creates the next team, its cluster chosen by R260 to R262, and WEAVER_SPILL_RESCAN looks for room again. The waits end
after 1,024 cycles, or when the watched word differs, or when the entry holds RESUME, and the record is read again; the wait of a fault procedure
begins once its entry has been posted. After a shootdown the record is translated again before its next use; while it cannot be, the step
waits (R285, log 79). Which weaver owns a record is fixed at the first read of it by any weaver of the launch (log 78). (A record whose migration target alone has been cleared counts as MIGRATING: the model's
reading, log 60.) -/
def Sys2Proof.Rules.WeaverEvents : Prop :=
  (∀ (node die : Nat) (s : State) (n : Node) (w : Weaver), Rules.weaves s node die n w → w.st = .read →
    (w.deferring = true ∨ w.k < n.tensor.nrec) →
    let k := match w.deferring, w.defer with | true, d :: _ => d.k | _, _ => w.k
    let va := BitVec.ofNat 56 (n.tensor.recs + 32 * k)
    let reached := s.reach (weaverFrom n die) va true
    (∀ s1 p, reached = (s1, .spot p) →
      (∀ s2 d, s1.spotLine (.weaver node die) p = (s2, .line d) → Machine.exec (.weaverRecordRead node die) s
        = .next (s2.weaverGot n w die p (recOf ((List.range 32).map fun i => lineByte d (p.pa % 128 + i))) va)) ∧
      (∀ s2 code, s1.spotLine (.weaver node die) p = (s2, .kill code) →
        Machine.exec (.weaverRecordRead node die) s = .next (s2.killNode node code)) ∧
      (∀ s2, s1.spotLine (.weaver node die) p = (s2, .busy) → Machine.exec (.weaverRecordRead node die) s = .next s2)) ∧
    (∀ s1 code, reached = (s1, .kill code) → Machine.exec (.weaverRecordRead node die) s = .next (s1.killNode node code)) ∧
    (∀ s1 code, reached = (s1, .pause code) →
      let s2 := s1.fixOwner node k (k % 4)
      (w.deferring = false → k % 4 ≠ die → Machine.exec (.weaverRecordRead node die) s
        = .next (s2.modWeaver n.id die fun w => { w with st := .nonowner (s2.clk + 1024) })) ∧
      ((w.deferring = true ∨ k % 4 = die) → Machine.exec (.weaverRecordRead node die) s
        = .next ((s2.weaverPost n die k 4 va).modWeaver n.id die fun w => { w with st := .resume })))) ∧
  (∀ (s : State) (n : Node) (w : Weaver) (die : Nat) (p : Spot) (r : Rec) (va : BitVec 56),
    let k := w.here.1
    let owner := n.owners.getD k (r.owner k w.here.2.1 n.tensor)
    let s1 := s.fixOwner n.id k owner
    (r.covers k w.here.2.1 n.tensor = true → w.deferring = false → owner ≠ die →
      s.weaverGot n w die p r va = s1.passed n.id die r.count.toNat (r.teams n.desc.tpt)) ∧
    (r.covers k w.here.2.1 n.tensor = true → w.deferring = false → owner = die → s.weaverGot n w die p r va
      = s1.modWeaver n.id die fun w => { w with st := .claim 0, rec_ := some r, recAt := p, recStale := false, defer := if w.deferring then
          (match w.defer with | d :: l => { d with w := r.state } :: l | [] => []) else w.defer }) ∧
    (r.covers k w.here.2.1 n.tensor = false → (w.deferring = true ∨ k % 4 = die) →
      s.weaverGot n w die p r va = s1.weaverFault n die k 2 p r.state va)) ∧
  (∀ (s : State) (node k owner : Nat) (n : Node), s.node? node = some n →
    (s.fixOwner node k owner).node? node = some { n with owners := if (n.owners.get? k).isSome then n.owners else n.owners.set k owner }) ∧
  (∀ (node die : Nat) (s : State) (n : Node) (w : Weaver) (r : Rec) (i : Nat), Rules.weaves s node die n w → w.rec_ = some r → n.id = node →
    w.st = .claim i → w.recStale = true → (s.far.all fun x => x.who != .weaver node die) = true →
    let k := match w.deferring, w.defer with | true, d :: _ => d.k | _, _ => w.k
    let reached := s.reach (weaverFrom n die) (BitVec.ofNat 56 (n.tensor.recs + 32 * k)) true
    (∀ s1 p, reached = (s1, .spot p) → Machine.exec (.weaverClaim node die) s = .next
      ((s1.modWeaver node die fun w => { w with recAt := p, recStale := false }).claimStep n { w with recAt := p } die r)) ∧
    (∀ s1 code, reached = (s1, .pause code) → Machine.exec (.weaverClaim node die) s = .next s1)) ∧
  (∀ (node die : Nat) (s : State) (n : Node) (w : Weaver) (r : Rec), Rules.weaves s node die n w → w.rec_ = some r → n.id = node →
    w.recStale = false →
    let k := match w.deferring, w.defer with | true, d :: _ => d.k | _, _ => w.k
    let va := BitVec.ofNat 56 (n.tensor.recs + 32 * k)
    let nt := (r.count.toNat + n.desc.tpt - 1) % 2 ^ 32 / n.desc.tpt
    let rmw (off hnd size b : Nat) := s.spotRmw (.weaver node die) { w.recAt with pa := w.recAt.pa + off } hnd size b
    let pair := r.state.toNat + 2 ^ 32 * r.stamp.toNat
    (w.st = .claim 0 →
      (r.usable = false → Machine.exec (.weaverClaim node die) s = .next (s.weaverFault n die k 1 w.recAt r.state va)) ∧
      (r.usable = true → r.state.toNat % 4 = 2 →
        Machine.exec (.weaverClaim node die) s = .next (s.weaverFault n die k 3 w.recAt r.state va)) ∧
      (r.usable = true → r.state.toNat % 4 = 1 → w.deferring = false → Machine.exec (.weaverClaim node die) s
        = .next ((s.modWeaver node die fun x => { x with defer := x.defer ++ [{ k := w.k, tf := w.tf, tm := w.tm, w := r.state }] }).passed
            node die r.count.toNat nt)) ∧
      (r.usable = true → r.state.toNat % 4 = 1 → w.deferring = true →
        Machine.exec (.weaverClaim node die) s = .next (Rules.weaverTo s node die (.deferWait (some s.clk)))) ∧
      (r.usable = true → r.state.toNat % 4 = 0 → ∀ s1 v, rmw 0x18 0 4 nt = (s1, .old v) →
        Machine.exec (.weaverClaim node die) s
          = .next (s1.modWeaver node die fun x => { x with st := .claim 1, claims := x.claims ++ [(k, nt, 0)] }))) ∧
    (w.st = .claim 1 → ∀ s1 v, rmw 0x10 21 8 (pair + 2 ^ 64 * (r.state.toNat + 2 ^ 32 * n.lid.toNat)) = (s1, .old v) →
      Machine.exec (.weaverClaim node die) s = .next
        (Rules.weaverTo s1 node die (if v ≠ pair then .claim 2 else if n.desc.rw = true then .claim 3 else .create 0))) ∧
    (w.st = .claim 2 → ∀ s1 v, rmw 0x18 0 4 (2 ^ 32 - nt) = (s1, .old v) →
      Machine.exec (.weaverClaim node die) s
        = .next (s1.modWeaver node die fun w => { w with st := .read, claims := w.claims.dropLast })) ∧
    (w.st = .claim 3 → ∀ s1 v, rmw 0x08 12 4 0x7F7F7FFF = (s1, .old v) →
      Machine.exec (.weaverClaim node die) s = .next (Rules.weaverTo s1 node die (.create 0)))) ∧
  (∀ (die k reason v : Nat) (s s1 : State) (n : Node) (p : Spot) (w : Word) (va : BitVec 56),
    s.spotRmw (.weaver n.id die) { p with pa := p.pa + 0x10 } 20 4 (w.toNat + 2 ^ 32 * (Rules.faultedWord w).toNat) = (s1, .old v) →
    (v ≠ w.toNat → s.weaverFault n die k reason p w va = Rules.weaverTo s1 n.id die .read) ∧
    (v = w.toNat → ∃ t : State, s.weaverFault n die k reason p w va
        = t.modWeaver n.id die (fun x => { x with st := .repair (Rules.faultedWord w) (some s1.clk), recAt := p, recStale := false }) ∧
      (t.part n.part).posts = ((s1.part n.part).posts ++ [{ cause := 0x0C0, kind := 6, lid := n.lid, va := va.setWidth 64, team := 0xFFFFFFFF
                                                            loc := BitVec.ofNat 8 (0x80 + 32 * die), record := BitVec.ofNat 32 k
                                                            reason := BitVec.ofNat 32 reason, frame := 0, node := n.id
                                                            agent := .weaver n.id die }]))) ∧
  (∀ (node die j : Nat) (s : State) (n : Node) (w : Weaver) (r : Rec), Rules.weaves s node die n w → w.rec_ = some r →
    (w.st = .create j → Machine.exec (.teamCreate node die) s
      = .next (s.putTeam n w die r j (s.target n die r).1 (s.target n die r).2)) ∧
    (∀ c0 copy, w.st = .spill j c0 copy → Machine.exec (.weaverSpillRescan node die) s = .next (s.putTeam n w die r j c0 copy))) ∧
  (∀ (node die at_ : Nat) (s : State) (n : Node) (w : Weaver), Rules.weaves s node die n w → w.st = .nonowner at_ → at_ ≤ s.clk →
    Machine.exec (.weaverNonownerWait node die) s = .next (Rules.weaverTo s node die .read)) ∧
  (∀ (node die : Nat) (s : State) (n : Node) (w : Weaver), Rules.weaves s node die n w →
    let state (p : Spot) : Spot := { p with pa := p.pa + 0x10 }
    let word (p : Spot) (d : BitVec 1024) : Word := BitVec.ofNat 32 (lineGet d ((p.pa + 0x10) % 128) 4)
    let given := s.withdrawMons fun m => m == .weaver node die
    (w.st = .deferWait none → (s.monArmed (.weaver node die) = false ∨ w.recStale = true) →
      Machine.exec (.weaverDeferWake node die) s = .next (Rules.weaverTo given node die .read)) ∧
    (∀ at_ d r, w.st = .deferWait (some at_) → w.defer = d :: r → at_ ≤ s.clk →
      let reached := s.reach (weaverFrom n die) (BitVec.ofNat 56 (n.tensor.recs + 32 * d.k)) true
      (∀ s1 p s2 x, reached = (s1, .spot p) → s1.spotLine (.weaver node die) (state p) = (s2, .line x) →
        (word p x ≠ d.w → Machine.exec (.weaverDeferWake node die) s = .next (Rules.weaverTo s2 node die .read)) ∧
        (word p x = d.w → ∃ (t : State) (at' : Option Nat), Machine.exec (.weaverDeferWake node die) s
          = .next (t.modWeaver node die fun x => { x with st := .deferWait at', recAt := p, recStale := false }))) ∧
      (∀ s1 code, reached = (s1, .pause code) →
        Machine.exec (.weaverDeferWake node die) s = .next (Rules.weaverTo s1 node die (.deferWait (some (s1.clk + 1024)))))) ∧
    (∀ f, w.st = .repair f none → s.monArmed (.weaver node die) = false →
      Machine.exec (.weaverRepairWake node die) s = .next (Rules.weaverTo s node die .read)) ∧
    (∀ f, w.st = .repair f none → s.monArmed (.weaver node die) = true → w.recStale = true →
      Machine.exec (.weaverRepairWake node die) s = .next (Rules.weaverTo given node die (.repair f (some s.clk)))) ∧
    (∀ f at_, w.st = .repair f (some at_) → w.recStale = false → at_ ≤ s.clk → (∀ e ∈ (s.part n.part).posts, e.agent ≠ .weaver node die) →
      ∀ s2 x, s.spotLine (.weaver node die) (state w.recAt) = (s2, .line x) →
      (word w.recAt x ≠ f → Machine.exec (.weaverRepairWake node die) s = .next (Rules.weaverTo s2 node die .read)) ∧
      (word w.recAt x = f → ∃ (t : State) (at' : Option Nat), Machine.exec (.weaverRepairWake node die) s
        = .next (t.modWeaver node die fun x => { x with st := .repair f at', recAt := w.recAt, recStale := false }))) ∧
    (w.st = .resume → s.faultOpen n.part (.weaver node die) = false →
      Machine.exec (.weaverRepairWake node die) s = .next (Rules.weaverTo s node die .read)))

/-- R24, R252, R254, R259 to R262: the team of a claimed record. It goes to the first cluster in the spill order that the partition has and that
holds fewer unplaced teams than SD, or any with SD 0; there it is last in the queue. Its tiles begin at FIRST + j × TPT, at most TPT of them
and none beyond the record; its address is that of its first tile, in the copy chosen; every group starts runnable at its role's entry with
all lanes, its uniform registers holding the address, the tile bytes, the arguments, the tile count and its role's group count. -/
def Sys2Proof.Rules.TeamCreation : Prop :=
  (∀ (s : State) (n : Node) (w : Weaver) (die j c0 copy : Nat) (r : Rec),
    let room (c : Nat) : Bool := (s.part n.part).pclus.getLsbD c && (n.desc.sd == 0 || decide ((s.links c n.part).dq.length < n.desc.sd))
    ((∀ c ∈ spillOrder c0, room c = false) →
      s.putTeam n w die r j c0 copy = Rules.weaverTo s n.id die (.spill j c0 copy)) ∧
    (∀ c a b, spillOrder c0 = a ++ c :: b → (∀ x ∈ a, room x = false) → room c = true →
      let nt := (r.count.toNat + n.desc.tpt - 1) % 2 ^ 32 / n.desc.tpt
      let tm := newTeam n r w.here.1 w.here.2.2 j (if (s.part n.part).pclus.getLsbD c0 then copy else 0) w.recAt c s.nextId
      let s1 := ({ s with nextId := s.nextId + 1 } : State).enqueue { tm with recStale := w.recStale } c
      (j + 1 < nt → s.putTeam n w die r j c0 copy = Rules.weaverTo s1 n.id die (.create (j + 1))) ∧
      (nt ≤ j + 1 → s.putTeam n w die r j c0 copy = s1.passed n.id die r.count.toNat nt))) ∧
  (∀ (c : Nat), c < 84 → (spillOrder c).head? = some c ∧ ∀ d, d < 84 → d ∈ spillOrder c) ∧
  (∀ (n : Node) (r : Rec) (k tm j copy cluster id : Nat) (at_ : Spot),
    let t := newTeam n r k tm j copy at_ cluster id
    t.tlin = r.first.toNat + j * n.desc.tpt ∧ t.tiles = min n.desc.tpt (r.count.toNat - j * n.desc.tpt) ∧ t.num = (tm + j) % 2 ^ 32 ∧
    t.addr = BitVec.ofNat 64 (n.tensor.base + t.tlin * n.tensor.tstr + copy * n.tensor.repstr * 2 ^ 16) ∧
    t.groups.length = n.desc.gcnt.1 + n.desc.gcnt.2.1 + n.desc.gcnt.2.2 ∧
    (∀ g ∈ t.groups, g.live = 0xFFFFFFFF ∧
      (g.split 0).st = .runnable ∧ (g.split 0).mask = 0xFFFFFFFF ∧
      (g.split 0).pc = BitVec.ofNat 56 (n.desc.code +
        (match g.role with | .copy => n.desc.entry.1 | .matrix => n.desc.entry.2.1 | .vector => n.desc.entry.2.2)) ∧
      g.sreg 0 = t.addr.setWidth 32 ∧ g.sreg 1 = (t.addr >>> 32).setWidth 32 ∧ g.sreg 2 = BitVec.ofNat 32 n.tensor.tb ∧
      g.sreg 3 = n.desc.args.setWidth 32 ∧ g.sreg 4 = (n.desc.args >>> 32).setWidth 32 ∧ g.sreg 5 = BitVec.ofNat 32 t.tiles ∧
      g.sreg 6 = BitVec.ofNat 32 (match g.role with | .copy => n.desc.gcnt.1 | .matrix => n.desc.gcnt.2.1 | .vector => n.desc.gcnt.2.2)))

/-- R24, R252 to R264: the steps of the weavers, and the team of a claimed record (logs 60, 78 and 79: the model's readings). -/
def Obligations.WeaverEvents : Prop := Rules.WeaverEvents ∧ Rules.TeamCreation

/-! ### Events of the queue engine, the nodes and the partitions -/

namespace Sys2Proof.Rules

/-- A little-endian field of a packet (R296). -/
def field (b : List Byte) (off n : Nat) : Nat := ((List.range n).map fun i => (b.getD (off + i) 0).toNat * 256 ^ i).sum

/-- What a packet's start gives it to do: its STS at once, or its work (R297, R298). -/
def started (s : State) (p q : Nat) (b : List Byte) (st : PktSt) : State := (s.startPkt p q b st).1

/-- A packet with one change. -/
def pktTo (s : State) (id : Nat) (st : PktSt) : State := s.modPkt id fun p => { p with st }

/-- A read-modify-write of the queue engine at a signal: SWAP.B64 or ADD.U64 at its home (R240, R298, R299). -/
def atSignal (s : State) (id part va : Nat) (swap : Bool) (b : DWord) : State × Wrote :=
  s.agentRmw (.packet id) (queueFrom part) (BitVec.ofNat 56 va) (if swap then 19 else 1) b

/-- A line is free at its home for an agent's access: present, not poisoned, not in a shadow region, and nothing stands before it; the agent is on
the home's die, and has not asked for a place there. -/
def freeHome (s : State) (a : Agent) (h : HomeAt) (line : Nat) (cls : Cls) (write : Bool) : Prop :=
  s.home line = some h ∧ s.farWaits line = false ∧ (s.slice h.slice).freeFor h.set line cls write = true ∧
  (∀ x ∈ (s.slice h.slice).held, ¬ (x.line = line ∧ x.owner.map (·.1) = some a)) ∧ s.homePoison line = false ∧
  s.inShadow (128 * line) = false ∧ s.asked a h.slice line = false ∧ s.agentFar a h.slice = none

/-- Bytes of a line are written at its home by an agent (R212). -/
def put (s : State) (h : HomeAt) (pa n v : Nat) (cls : Cls) : State :=
  s.writeHome h (pa / 128) (atByte (pa % 128) (v % 256 ^ n)) (nibbles (pa % 128) n) cls none

/-- The pairs of a range block, from the offsets given, whose length is not 0 (R297). -/
def ranges (b : List Byte) (is : List Nat) : List (Nat × Nat) :=
  (is.map fun i => (field b (16 * i) 8, field b (16 * i + 8) 8)).filter fun x => x.2 ≠ 0

end Sys2Proof.Rules

/-- R292 to R296: queues. QUEUE_DOORBELL takes a WIDX that is ahead of the present one, in serial order, and no more than the ring size ahead
of RIDX; any other it ignores. QUEUE_CLR makes an ABORTING queue ACTIVE. QUEUE_HEAD_START, once a cycle and while the engine is ready, tries the
startable heads, that of highest effective priority first and among equals the next after the last one served at that priority, until one
starts. A head is startable when no earlier packet with BAR is incomplete and its own condition holds; one that is not loses its aging, but a read
that has not performed leaves it. While its queue is not enabled or is aborting, or an access waits for a fault entry, it does not start but goes
on aging. PRIORITY_AGING raises a head by 1 for
each full 65,536 cycles as startable. ABORTED_PACKET_DRAIN completes the packet at RIDX of an ABORTING queue with STS 2.
QUEUE_ENGINE_ACCESS_PAUSE lets the paused accesses of a queue go on once their entries have been resolved. That a queue with a paused access of
a started packet starts no later one is the model's reading (log 62). -/
def Obligations.QueueEvents : Prop :=
  (∀ (p q : Nat) (w : Word) (s : State), p < 8 → q < 64 →
    let k := s.queue p q
    let n := 2 ^ (k.ctl.toNat % 16)
    let ahead := (w - k.widx).toNat
    ((0 < ahead ∧ ahead ≤ 2 ^ 31 ∧ (w - k.ridx).toNat ≤ n) →
      Machine.exec (.queueDoorbell p q w) s = .next (s.modQueue p q fun k => { k with widx := w })) ∧
    (¬ (0 < ahead ∧ ahead ≤ 2 ^ 31 ∧ (w - k.ridx).toNat ≤ n) → Machine.exec (.queueDoorbell p q w) s = .next s)) ∧
  (∀ (p q : Nat) (s : State), (s.queue p q).ctl.getLsbD 17 = true →
    Machine.exec (.queueClr p q) s = .next (s.modQueue p q fun k => { k with ctl := k.ctl &&& ~~~0x20000#32 })) ∧
  (∀ (s s1 : State) (hs : List (Nat × Machine.Head)), s.qeNext ≤ s.clk → s.rdy.getLsbD 4 = true → s.startable s.busyQueues = (s1, hs) →
    Machine.exec .queueHeadStart s = .next (s1.startBest hs hs.length)) ∧
  (∀ s : State, s.clk < s.qeNext ∨ s.rdy.getLsbD 4 = false → Machine.exec .queueHeadStart s = .next s) ∧
  (∀ (s t : State) (hs : List (Nat × Machine.Head)) (n fuel : Nat) (h : Machine.Head), s.bestHead hs = some (n, h) →
    (s.startHead n h = (t, true) → s.startBest hs (fuel + 1)
      = { t with rr := t.rr.set (s.queue (n / 64) (n % 64)).effective n, qeNext := t.clk + 1 }) ∧
    (s.startHead n h = (t, false) → s.startBest hs (fuel + 1) = t.startBest (hs.filter fun x => x.1 ≠ n) fuel)) ∧
  (∀ (s : State) (hs : List (Nat × Machine.Head)), hs ≠ [] →
    let eff (n : Nat) : Nat := (s.queue (n / 64) (n % 64)).effective
    let after (n : Nat) : Nat := match s.rr.get? (eff n) with | some l => (n + 511 - l) % 512 | none => n
    ∃ x ∈ hs, s.bestHead hs = some x ∧ (∀ y ∈ hs, eff y.1 ≤ 7) ∧
      ((∀ y ∈ hs, y.1 < 512) → ∀ y ∈ hs, eff y.1 < eff x.1 ∨ (eff y.1 = eff x.1 ∧ after x.1 ≤ after y.1))) ∧
  (∀ (s s1 : State) (p q : Nat) (b : List Byte), (s.queue p q).enabled = true → (s.queue p q).aborting = false → s.barred p q = false →
    s.keeps p q = false → s.readHead p q = (s1, .packet b) →
    let may := pktMalformed b = true ∨ ((Rules.field b 0 1 = 2 → (s1.part p).matcher.length < 256) ∧
      (Rules.field b 0 1 = 3 → (s1.queue p q).eval ≠ none))
    (may → s.lookHead p q = (s1.modQueue p q fun k => { k with since := k.since.or (some s1.clk) }, some (.packet b))) ∧
    (¬ may → s.lookHead p q = (s1.modQueue p q fun k => { k with since := none, age := 0 }, none))) ∧
  (∀ (s s1 : State) (p q : Nat), (s.queue p q).enabled = true → (s.queue p q).aborting = false → s.barred p q = false →
    s.keeps p q = false → s.readHead p q = (s1, .busy) → s.lookHead p q = (s1, none)) ∧
  (∀ (s : State) (p q : Nat), (s.queue p q).count = 0 ∨ s.barred p q = true →
    s.lookHead p q = (s.modQueue p q fun k => { k with since := none, age := 0 }, none)) ∧
  (∀ (s : State) (p q : Nat), (s.queue p q).count ≠ 0 → s.barred p q = false →
    ((s.queue p q).enabled = false ∨ (s.queue p q).aborting = true ∨ (s.queue p q).paused = true ∨ s.keeps p q = true) →
    ((s.queue p q).got = none → s.lookHead p q = (s, none)) ∧
    ∀ b, (s.queue p q).got = some b →
      let may := pktMalformed b = true ∨ ((Rules.field b 0 1 = 2 → (s.part p).matcher.length < 256) ∧
        (Rules.field b 0 1 = 3 → (s.queue p q).eval ≠ none))
      (may → s.lookHead p q = (s.modQueue p q fun k => { k with since := k.since.or (some s.clk) }, none)) ∧
      (¬ may → s.lookHead p q = (s.modQueue p q fun k => { k with since := none, age := 0 }, none))) ∧
  (∀ (p q t : Nat) (s : State), (s.queue p q).since = some t → t + 65536 * ((s.queue p q).age + 1) ≤ s.clk →
    Machine.exec (.priorityAging p q) s = .next (s.modQueue p q fun k => { k with age := k.age + 1 })) ∧
  (∀ (p q : Nat) (s s1 : State) (b : List Byte), (s.queue p q).ctl.getLsbD 17 = true → s.keeps p q = false →
    s.readHead p q = (s1, .packet b) → Machine.exec (.abortedPacketDrain p q) s = .next (Rules.started s1 p q b (.completing 2 0))) ∧
  (∀ (p q : Nat) (s : State), (s.queue p q).paused = true → s.faultOpen p (.head (64 * p + q)) = false →
    ∃ t : State, Machine.exec (.queueEngineAccessPause p q) s = .next t ∧ (t.queue p q).paused = false ∧ t.mem = s.mem) ∧
  (∀ (p q id : Nat) (s : State) (pk : Pkt), s.pkts.get? id = some pk → pk.part = p → pk.queue = q → pk.paused = true →
    s.faultOpen p (.packet id) = false →
    ∃ t : State, Machine.exec (.queueEngineAccessPause p q) s = .next t ∧ t.pkts.get? id = some { pk with paused := false } ∧ t.mem = s.mem)

/-- R297 to R300, R311, R367: packets. A head that starts: a malformed one is to complete with STS 4, an unreadable one is passed over, a NOP is to
complete with STS 1, a BARRIER with 1 when it has passed and else with 2, its queue ABORTING; a SIGNAL starts unless its target pauses it, a
LAUNCH enters the range matcher once its range block has been read, and a COPY starts. A packet is malformed by any of the fields of R296 and
R297, and by an STS that is not 0, which is the model's reading (log 22).
PACKET_BARRIER_EVALUATE reads the signals one by one: a negative one aborts, all zero pass. PACKET_SIGNAL swaps or adds its value;
PACKET_COPY copies the next run and ends with its last byte, or with STS 3 when the node that posted it has been killed.
PACKET_COMPLETION first adds −CDEC, or writes the abort value, then writes STS, then sends the vector; a completion signal that cannot be
written makes the STS 3. CSIG is taken down to a multiple of 8, and the vector goes to both host ports: the model's choices (log 22).
Each of PACKET_BARRIER_EVALUATE, PACKET_SIGNAL, PACKET_COPY and PACKET_COMPLETION completes: its next state is given for every state in
which the packet is due and the lines it needs are free at their homes. -/
def Obligations.PacketEvents : Prop :=
  (∀ (s : State) (p q : Nat) (b : List Byte), p < 8 → q < 64 →
    let t := Rules.field b 0 1
    (pktMalformed b = true → s.startHead (64 * p + q) (.packet b) = (Rules.started s p q b (.completing 4 0), true)) ∧
    (s.startHead (64 * p + q) .unreadable = (s.advance p q, true)) ∧
    (pktMalformed b = false →
      (t = 1 → s.startHead (64 * p + q) (.packet b) = (Rules.started s p q b (.completing 1 0), true)) ∧
      (t = 2 → Rules.field b 24 8 = 0 → s.startHead (64 * p + q) (.packet b) = (s.enterMatcher p q b ([], []), true)) ∧
      (t = 2 → Rules.field b 24 8 ≠ 0 → ∀ s1 r, s.agentRead (.head (64 * p + q)) (queueFrom p) (Rules.field b 24 8) 128 = (s1, r) →
        (∀ rb, r = .bytes rb → s.startHead (64 * p + q) (.packet b)
          = (s1.enterMatcher p q b (Rules.ranges rb [0, 1, 2, 3], Rules.ranges rb [4, 5, 6, 7]), true)) ∧
        (∀ c va, r = .pause c va → s.startHead (64 * p + q) (.packet b) = (s1.pauseHead p q c va, false)) ∧
        (∀ c, r = .kill c → s.startHead (64 * p + q) (.packet b) = (Rules.started s1 p q b (.completing 4 0), true)) ∧
        (r = .busy → s.startHead (64 * p + q) (.packet b) = (s1, false))) ∧
      (t = 3 → (s.queue p q).eval = some true → s.startHead (64 * p + q) (.packet b) = (Rules.started s p q b (.completing 1 0), true)) ∧
      (t = 3 → (s.queue p q).eval = some false → s.startHead (64 * p + q) (.packet b)
        = ((Rules.started s p q b (.completing 2 0)).modQueue p q fun k => { k with ctl := k.ctl ||| 0x20000#32 }, true)) ∧
      (t = 4 → ∀ s1 r, s.reach (queueFrom p) (BitVec.ofNat 56 (Rules.field b 16 8)) true = (s1, r) →
        (∀ c, r = .pause c → s.startHead (64 * p + q) (.packet b)
          = (s1.pauseHead p q c (BitVec.ofNat 56 (Rules.field b 16 8)), false)) ∧
        (r = .busy → s.startHead (64 * p + q) (.packet b) = (s1, false)) ∧
        ((∀ c, r ≠ .pause c) → r ≠ .busy → s.startHead (64 * p + q) (.packet b) = (Rules.started s1 p q b .signal, true))) ∧
      (t = 5 → s.startHead (64 * p + q) (.packet b) = (Rules.started s p q b (.copy 0), true)))) ∧
  (∀ (s : State) (p q : Nat) (b : List Byte) (st : PktSt), (Rules.started s p q b st).pkts.get? s.nextId
      = some { id := s.nextId, part := p, queue := q, index := (s.queue p q).ridx, bytes := b, st,
               poster := (s.queue p q).posted.get? (s.queue p q).ridx.toNat } ∧
    ((Rules.started s p q b st).queue p q).ridx = (s.queue p q).ridx + 1 ∧ ((Rules.started s p q b st).queue p q).since = none) ∧
  (∀ (s : State) (p q : Nat) (b : List Byte) (rs : List (Nat × Nat) × List (Nat × Nat)),
    ∃ id, ((s.enterMatcher p q b rs).part p).matcher = (s.part p).matcher ++ [id] ∧ (s.enterMatcher p q b rs).node? id
      = some { id, part := p, pkt := s.nextId, dom := BitVec.ofNat 8 (Rules.field b 2 1), reads := rs.1, writes := rs.2,
               ldesc := Rules.field b 16 8 }) ∧
  (∀ b : List Byte,
    let h := Rules.field b 0 4
    let w (i : Nat) : Nat := Rules.field b (16 + 8 * i) 8
    pktMalformed b = true ↔
      h / 2 ^ 24 ≠ 0 ∨ h / 2 ^ 10 % 2 ^ 6 ≠ 0 ∨ (h % 2 ^ 8 ≠ 2 ∧ h / 2 ^ 16 % 2 ^ 8 ≠ 0) ∨ Rules.field b 8 8 % 8 ≠ 0 ∨
      h % 2 ^ 8 = 0 ∨ 5 < h % 2 ^ 8 ∨ (h % 2 ^ 8 = 1 ∧ ∃ i, i < 6 ∧ w i ≠ 0) ∨
      (h % 2 ^ 8 = 2 ∧ (w 1 % 16 ≠ 0 ∨ ∃ i, 2 ≤ i ∧ i < 6 ∧ w i ≠ 0)) ∨ (h % 2 ^ 8 = 3 ∧ ∃ i, i < 6 ∧ w i % 8 ≠ 0) ∨
      (h % 2 ^ 8 = 4 ∧ (w 0 % 8 ≠ 0 ∨ 1 < w 2 ∨ ∃ i, 3 ≤ i ∧ i < 6 ∧ w i ≠ 0)) ∨
      (h % 2 ^ 8 = 5 ∧ (2 ^ 40 < w 2 ∨ ∃ i, 3 ≤ i ∧ i < 6 ∧ w i ≠ 0))) ∧
  (∀ (s s1 : State) (p q : Nat) (b : List Byte), (s.queue p q).enabled = true →
    (s.queue p q).ctl.getLsbD 17 = false → (s.queue p q).eval = none → (s.queue p q).armed = none →
    ((s.withdrawMons fun w => w == .queue p q).modQueue p q fun k => { k with armed := none }).readHead p q = (s1, .packet b) →
    pktMalformed b = false → Rules.field b 0 1 = 3 → (s1.queue p q).read = [] →
    ((∀ j, j < 6 → Rules.field b (16 + 8 * j) 8 = 0) → Machine.exec (.packetBarrierEvaluate p q) s
      = .next (s1.modQueue p q fun k => { k with eval := some true, read := [] })) ∧
    (∀ i, i < 6 → Rules.field b (16 + 8 * i) 8 ≠ 0 → (∀ j, j < i → Rules.field b (16 + 8 * j) 8 = 0) →
      ∀ s2 s3 at_ v,
        (s1.reach (queueFrom p) (BitVec.ofNat 56 (Rules.field b (16 + 8 * i) 8)) false = (s3, .zero) ∧ at_ = none ∧ v = 0) ∨
        (∃ c, s1.reach (queueFrom p) (BitVec.ofNat 56 (Rules.field b (16 + 8 * i) 8)) false = (s3, .kill c) ∧ at_ = none ∧
          v = 0x8000000000000000#64) ∨
        (∃ x d, s1.reach (queueFrom p) (BitVec.ofNat 56 (Rules.field b (16 + 8 * i) 8)) false = (s2, .spot x) ∧
          s2.spotLine (.head (64 * p + q)) x = (s3, .line d) ∧ at_ = some x ∧ v = BitVec.ofNat 64 (lineGet d (x.pa % 128) 8)) →
        let read := (s3.queue p q).read ++ [(i, at_, v)]
        ((∀ j, i < j → j < 6 → Rules.field b (16 + 8 * j) 8 = 0) →
          Machine.exec (.packetBarrierEvaluate p q) s = .next (s3.barrierDecide p q read)) ∧
        ((∃ j, i < j ∧ j < 6 ∧ Rules.field b (16 + 8 * j) 8 ≠ 0) →
          Machine.exec (.packetBarrierEvaluate p q) s = .next (s3.modQueue p q fun k => { k with read })))) ∧
  (∀ (s : State) (p q : Nat) (read : List (Nat × Option Spot × DWord)),
    ((∃ x ∈ read, x.2.2.toInt < 0) → s.barrierDecide p q read = s.modQueue p q fun k => { k with eval := some false, read := [] }) ∧
    ((∀ x ∈ read, x.2.2 = 0) → s.barrierDecide p q read = s.modQueue p q fun k => { k with eval := some true, read := [] })) ∧
  (∀ (s : State) (a : Agent) (h : HomeAt) (x : Spot), x.peer = none → Rules.freeHome s a h (x.pa / 128) x.cls false →
    s.spotLine a x = (s.readHome (x.pa / 128) x.cls, .line ((s.readHome (x.pa / 128) x.cls).homeLine (x.pa / 128)))) ∧
  (∀ (s s1 : State) (a : Agent) (part va : Nat) (swap : Bool) (b : DWord) (h : HomeAt) (x : Spot),
    s.reach (queueFrom part) (BitVec.ofNat 56 va) true = (s1, .spot x) → x.peer = none → s1.inShadow x.pa = false →
    Rules.freeHome s1 a h (x.pa / 128) x.cls true → ∀ id, a = .packet id →
    Rules.atSignal s id part va swap b
      = (Rules.put s1 h x.pa 8 (if swap then b.toNat else (s1.homeGet x.pa 8 + b.toNat) % 2 ^ 64) x.cls, .done)) ∧
  (∀ (id : Nat) (s : State) (pk : Pkt), s.pkts.get? id = some pk → pk.paused = false →
    let f := Rules.field pk.bytes
    (pk.st = .signal → ∀ s1 r, Rules.atSignal s id pk.part (f 16 8) (f 32 8 % 2 ^ 32 = 0) (BitVec.ofNat 64 (f 24 8)) = (s1, r) →
      (r = .done → Machine.exec (.packetSignal id) s = .next (Rules.pktTo s1 id (.completing 1 0))) ∧
      (∀ c va, r = .pause c va → Machine.exec (.packetSignal id) s = .next (s1.pausePkt pk c va)) ∧
      (∀ c, r = .kill c → Machine.exec (.packetSignal id) s = .next (Rules.pktTo s1 id (.completing 3 0)))) ∧
    (∀ pos n, pk.st = .copy pos → s.posterKilled pk = false →
      (f 32 8 ≤ pos → Machine.exec (.packetCopy id n) s = .next (Rules.pktTo s id (.completing 1 0))) ∧
      (pos < f 32 8 → n ≠ 0 →
        let src := BitVec.ofNat 56 (f 16 8 + pos)
        let dst := BitVec.ofNat 56 (f 24 8 + pos)
        ∀ s1 s2 s3 s4 x y bs, s.reachOwn (queueFrom pk.part) src false = (s1, .spot x) →
          s1.reachOwn (queueFrom pk.part) dst true = (s2, .spot y) →
          let k := runLength (.spot x) (.spot y) src.toNat dst.toNat (min (min n 128) (f 32 8 - pos))
          s2.agentPart (.packet pk.id) (queueFrom pk.part) src k = (s3, .bytes bs) →
          s3.agentWrite (.packet pk.id) (queueFrom pk.part) dst bs = (s4, .done) →
          let t := Rules.pktTo s4 pk.id (.copy (pos + k))
          Machine.exec (.packetCopy id n) s
            = .next (if (t.pkts.get? id).map (·.st) = some (.copy (f 32 8)) then Rules.pktTo t id (.completing 1 0) else t))) ∧
    (∀ sts, pk.st = .completing sts 0 →
      (f 8 8 = 0 → Machine.exec (.packetCompletion id) s = .next (Rules.pktTo s pk.id (.completing sts 1))) ∧
      (f 8 8 ≠ 0 → ∀ s1 r,
        Rules.atSignal s pk.id pk.part (f 8 8 / 8 * 8) (sts ≠ 1)
          (if sts = 1 then 0 - (BitVec.ofNat 32 (f 4 4)).signExtend 64 else 0x8000000000000000) = (s1, r) →
        (r = .done → Machine.exec (.packetCompletion id) s = .next (Rules.pktTo s1 pk.id (.completing sts 1))) ∧
        (∀ c va, r = .pause c va → Machine.exec (.packetCompletion id) s = .next (s1.pausePkt pk c va)) ∧
        (∀ c, r = .kill c → Machine.exec (.packetCompletion id) s = .next (Rules.pktTo s1 pk.id (.completing 3 1))))) ∧
    (∀ sts s1 r, pk.st = .completing sts 1 →
      s.agentWrite (.packet pk.id) (queueFrom pk.part) ((s.queue pk.part pk.queue).slotVa pk.index + 3) [BitVec.ofNat 8 sts] = (s1, r) →
      (r = .done → Machine.exec (.packetCompletion id) s = .next (Rules.pktTo s1 pk.id (.completing sts 2))) ∧
      (∀ c va, r = .pause c va → Machine.exec (.packetCompletion id) s = .next (s1.pausePkt pk c va))) ∧
    (∀ sts, pk.st = .completing sts 2 →
      let gone : State := { s with pkts := s.pkts.erase id }
      Machine.exec (.packetCompletion id) s = .next
        (if (f 0 4).testBit 9 then gone.sendPart pk.part (s.queue pk.part pk.queue).vec else gone))) ∧
  (∀ (id n pos : Nat) (s : State) (pk : Pkt), s.pkts.get? id = some pk → pk.st = .copy pos → s.posterKilled pk = true →
    ∃ t : State, Machine.exec (.packetCopy id n) s = .next t ∧ t.pkts.get? id = some { pk with paused := false, st := .completing 3 0 } ∧
      t.mem = s.mem) ∧
  (∀ (s s1 : State) (a : Agent) (part : Nat) (va : BitVec 56) (n : Nat) (h : HomeAt) (x : Spot),
    s.reach (queueFrom part) va false = (s1, .spot x) → x.peer = none → Rules.freeHome s1 a h (x.pa / 128) x.cls false →
    let t := s1.readHome (x.pa / 128) x.cls
    s.agentPart a (queueFrom part) va n
      = (t, .bytes ((List.range n).map fun i => lineByte (t.homeLine (x.pa / 128)) (x.pa % 128 + i)))) ∧
  (∀ (s s1 : State) (a : Agent) (part : Nat) (va : BitVec 56) (bs : List Byte) (h : HomeAt) (x : Spot),
    s.reach (queueFrom part) va true = (s1, .spot x) → x.peer = none → bs ≠ [] → x.pa % 128 + bs.length ≤ 128 →
    Rules.freeHome s1 a h (x.pa / 128) x.cls true →
    s.agentWrite a (queueFrom part) va bs = (Rules.put s1 h x.pa bs.length (leNat bs) x.cls, .done))

/-- R302, R303, R308, R310, R311: nodes and arenas. NODE_START gives a node that conflicts with no earlier one the next launch id and the present
PCFG, and all constant caches become invalid; a STARTING one reads its descriptors: a bad one ends it with 0x120; without an arena it runs.
ARENA_BIRTH gives it the index free longest and the first free granules, or ends it with 0x122 if the pool is too small. NODE_KILL discards the
teams of a KILLING node at their run ends, and then the node enters SHAKEOUT; so does a running one, by NODE_RETIRE, whose weavers are done and
whose teams have retired; the messages to its launch at the heads of FIFOs go then. SHAKEOUT waits for the COPY packets that the node has posted,
for one that has not started unless the node has been killed (log 77); then it drops the arena, takes the node from the matcher and lets its packet
complete. A pool list that cannot be read ends the node that starts with 0x0C1 or 0x0C2. An arena is born by reading its pool entries, writing its
map, scrubbing its granules and making its entry live; LIVE of a claimed record is adjusted by one ADD. -/
def Obligations.NodeEvents : Prop :=
  (∀ (id : Nat) (s : State) (n : Node), s.node? id = some n → n.st = .waiting → s.admitsNodes n.part = true →
    (∀ e ∈ s.earlier n, conflicts e n = false) → s.poolCause n.part ≠ 0 →
    Machine.exec (.nodeStart id) s = .next (s.killNode id (s.poolCause n.part))) ∧
  (∀ (id : Nat) (s : State) (n : Node), s.node? id = some n → n.st = .waiting → s.admitsNodes n.part = true →
    (∀ e ∈ s.earlier n, conflicts e n = false) → s.poolCause n.part = 0 →
    ∃ t : State, Machine.exec (.nodeStart id) s = .next t ∧
      t.lastLid = (if s.lastLid + 1 = 0 then 1 else s.lastLid + 1) ∧ (∀ c, (t.core c).ccache = []) ∧ t.mem = s.mem ∧
      (∀ e ∈ t.outst, e.2.kind = .ldc → ∀ p ∈ e.2.pieces, p.data = none) ∧
      (n.id = id → ∃ n', t.node? id = some n' ∧ n'.st = .starting ∧ n'.lid = t.lastLid ∧
        n'.srbase = ((s.part n.part).pcfg >>> 32).setWidth 32 ∧ n'.chksb = (s.part n.part).pcfg.getLsbD 0)) ∧
  (∀ (a b : Nat × Nat), overlaps a b = true ↔ a.1 < b.1 + b.2 ∧ b.1 < a.1 + a.2) ∧
  (∀ (e n : Node), conflicts e n = true ↔ e.dom = n.dom ∧
    ((∃ a ∈ e.writes, ∃ b ∈ n.reads, overlaps a b = true) ∨ (∃ a ∈ e.reads, ∃ b ∈ n.writes, overlaps a b = true) ∨
      ∃ a ∈ e.writes, ∃ b ∈ n.writes, overlaps a b = true)) ∧
  (∀ (id : Nat) (s s1 : State) (n : Node) (r : NodeRead), s.node? id = some n → n.st = .starting → n.ready = false → n.paused = false →
    (s.part n.part).resident = true → s.readNode n = (s1, r) →
    (r = .bad → Machine.exec (.nodeStart id) s = .next (s1.killNode n.id 0x120)) ∧
    (∀ d t w, r = .ok d t w →
      let s2 := s1.modNode n.id fun n => { n with desc := d, tensor := t, windows := w, ready := true }
      (d.arsz = 0 → Machine.exec (.nodeStart id) s
        = .next (s2.modNode n.id fun n => { n with st := .running, weavers := (List.range 4).map fun d => (d, {}) })) ∧
      (d.arsz ≠ 0 → Machine.exec (.nodeStart id) s = .next s2)) ∧
    (∀ c va, r = .pause c va → Machine.exec (.nodeStart id) s
      = .next ((s1.modNode n.id fun n => { n with paused := true }).postFault n.part (agentFault c 7 n.lid va 0 n.id (.node n.id))))) ∧
  (∀ (id : Nat) (s : State) (n : Node), s.node? id = some n → n.st = .starting → n.ready = true → n.desc.arsz ≠ 0 →
    (s.part n.part).resident = true →
    let p := s.part n.part
    let free := ((List.range p.plCnt.toNat).filter fun g => !p.taken.any fun t => t.1 == g).take n.desc.arsz
    (p.plCnt.toNat < n.desc.arsz → Machine.exec (.arenaBirth id) s = .next (s.killNode id 0x122)) ∧
    (n.desc.arsz ≤ p.plCnt.toNat → free.length = n.desc.arsz →
      (∀ i, i < 256 → (∀ j, j < i → j ∈ p.used) → i ∉ p.used → Machine.exec (.arenaBirth id) s = .next (s.birth n i free)) ∧
      (∀ i r, (∀ j, j < 256 → j ∈ p.used) → p.freed = i :: r → Machine.exec (.arenaBirth id) s = .next (s.birth n i free)))) ∧
  (∀ (s s1 : State) (n : Node) (i : Nat) (es : List Nat) (r : PoolRead), s.readPool n es = (s1, r) →
    let map := ((s.part n.part).arena.getD i (0, 0)).2.toNat % 2 ^ 52
    (∀ c, r = .kill c → s.birth n i es = s1.killNode n.id c) ∧ (r = .busy → s.birth n i es = s1) ∧
    (∀ gs, r = .granules gs →
      (s1.inShadow map = true ∨ s1.inShadow (map + 4 * gs.length - 1) = true → s.birth n i es = s1.killNode n.id 0x0C2) ∧
      (s1.inShadow map = false → s1.inShadow (map + 4 * gs.length - 1) = false → ∀ s2,
        s1.tryWriteN (.node n.id) map (4 * gs.length) (mapWord gs) .other = (s2, true) →
        s.birth n i es = (s2.scrub gs).arenaLive n i es gs))) ∧
  (∀ (s : State) (n : Node) (i : Nat) (es gs : List Nat),
    let old := (s.part n.part).arena.getD i (0, 0)
    let t := s.arenaLive n i es gs
    (t.part n.part).arena.getD i (0, 0)
      = (BitVec.ofNat 64 (2 ^ 63 + old.1.toNat / 2 ^ 48 % 256 * 2 ^ 48 + gs.length * 2 ^ 32 + n.lid.toNat), old.2) ∧
    (t.part n.part).granules.getD i [] = gs ∧ i ∈ (t.part n.part).used ∧ i ∉ (t.part n.part).freed ∧ t.mem = s.mem ∧
    (∀ m, s.node? n.id = some m → ∃ m', t.node? n.id = some m' ∧ m'.st = .running ∧ m'.arena = some i)) ∧
  (∀ (s : State) (n : Node) (i : Nat),
    let u := s.dropLines (inGranules ((s.part n.part).granules.getD i []))
    let old := (u.part n.part).arena.getD i (0, 0)
    let t := s.dropArena n i
    (t.part n.part).arena.getD i (0, 0)
      = (BitVec.ofNat 64 ((old.1.toNat / 2 ^ 48 + 1) % 256 * 2 ^ 48 + old.1.toNat % 2 ^ 48), old.2) ∧
    (∀ x ∈ (t.part n.part).taken, x.2 ≠ i) ∧ (t.part n.part).freed = (u.part n.part).freed ++ [i] ∧ t.mem = u.mem) ∧
  (∀ (id : Nat) (s : State) (n : Node), s.node? id = some n → n.st = .killing → (s.part n.part).resident = true → s.teamsOf id = [] →
    let s1 := ((s.killSlots n).dropEntries n).withdrawMons fun w => match w with | .weaver k _ => k == id | _ => false
    (n.openClaim = none → Machine.exec (.nodeKill id) s = .next ((s1.modNode id fun n => { n with st := .shakeout }).settleLinks n.part)) ∧
    (∀ w rec_ k, n.openClaim = some (w, rec_, k) → Machine.exec (.nodeKill id) s = .next (s1.adjustLive n w rec_ k))) ∧
  (∀ (s : State) (n : Node) (w rec_ k : Nat),
    (k = 0 → s.adjustLive n w rec_ k = s.closeClaim n w) ∧
    (k ≠ 0 → ∀ s1 q, s.reach (weaverFrom n w) (BitVec.ofNat 56 (n.tensor.recs + 32 * rec_)) true = (s1, q) →
      (∀ p s2 r, q = .spot p → s1.spotRmw (.node n.id) { p with pa := p.pa + 0x18 } 0 4 (2 ^ 32 - k) = (s2, r) →
        (r = .busy → s.adjustLive n w rec_ k = s2) ∧ (r ≠ .busy → s.adjustLive n w rec_ k = s2.closeClaim n w)) ∧
      (q = .busy → s.adjustLive n w rec_ k = s1) ∧
      ((∀ p, q ≠ .spot p) → q ≠ .busy → s.adjustLive n w rec_ k = s1.closeClaim n w))) ∧
  (∀ (id : Nat) (s : State) (n : Node) (t : Team) (r : List Team), s.node? id = some n → n.st = .killing → (s.part n.part).resident = true →
    let s1 := (((s.teamsOf id).foldl (fun u t => (u.dropRefused t.id).stopAcc t) s).killSlots n).dropEntries n
    let s2 := s1.withdrawMons fun w => match w with | .weaver k _ => k == id | _ => false
    (s.teamsOf id).filter s2.teamDown = t :: r → Machine.exec (.nodeKill id) s = .next (s2.discard t)) ∧
  (∀ (id : Nat) (s : State) (n : Node), s.node? id = some n → n.st = .running → (s.part n.part).resident = true →
    (∀ w ∈ n.weavers, w.2.st = .done) → (∀ t ∈ s.teams, t.2.node ≠ id) →
    Machine.exec (.nodeRetire id) s = .next ((s.modNode id fun n => { n with st := .shakeout }).settleLinks n.part)) ∧
  (∀ (id : Nat) (s : State) (n : Node), s.node? id = some n → n.st = .shakeout → (s.part n.part).resident = true →
    (∀ t ∈ s.teams, t.2.node ≠ id) → (∀ k ∈ s.pkts, k.2.poster = some id → ∀ pos, k.2.st ≠ .copy pos) →
    (n.cause ≠ none ∨ ∀ q ∈ (s.part n.part).queues, ∀ e ∈ q.2.posted, e.2 ≠ id) →
    let s1 := match n.arena with | some i => s.dropArena n i | none => s
    let s2 := s1.modPart n.part fun p => { p with matcher := p.matcher.filter (· != id) }
    Machine.exec (.shakeout id) s
      = .next (Rules.pktTo (s2.modNode id fun n => { n with st := .retired, arena := none }) n.pkt (.completing n.sts 0))) ∧
  (∀ (id : Nat) (s : State) (n : Node), s.node? id = some n → n.cause = none →
    (∃ q ∈ (s.part n.part).queues, ∃ e ∈ q.2.posted, e.2 = id) → Machine.exec (.shakeout id) s = .next s) ∧
  (∀ (id : Nat) (s : State) (k : Nat × Pkt), k ∈ s.pkts → k.2.poster = some id → (∃ pos, k.2.st = .copy pos) →
    Machine.exec (.shakeout id) s = .next s)

/-- R212, R218, R280, R284, R285, R305 to R307: fault entries, walks and shootdowns. FAULT_QUEUE_POST writes the oldest entry that may be posted at
its place in the ring, if the ring has room, advances FQW and sends VEC; a place in a shadow region takes none, and the entry's node ends with
0x0C2. FQR_WRITE takes an FQR that is ahead and not beyond FQW. STAT is read at its home when its monitor has fired, or every 1,024 cycles where
the entry has none; once it is 1 FAULT_RESUME and FAULT_STAT_POLL let the agent go on, and once it is 2 FAULT_KILL ends its node with 0x123, but an
entry of a queue's packet ignores it, and a pending one is watched again. PAGE_WALK puts a valid leaf into the die TLB. SHOOTDOWN_GO starts the
procedure, or sets ERR for a bad block, one with a VA beyond 56 bits or an OLDPA or SIG beyond 52 bits among them (log 40); a busy block ignores it.
SHOOTDOWN_COMPLETE clears BUSY once no access of an old epoch remains, of a lane or of an agent to another package, and adds 1 to the completion
word at its home. -/
def Obligations.PartitionEvents : Prop :=
  (∀ (part : Nat) (s s1 : State) (e : FaultEnt),
    let p := s.part part
    let len := 2 ^ (p.fqCtl.toNat % 16)
    p.posts.find? s.postable = some e → p.fqOn = true → (p.fqw - p.fqr).toNat < len →
    let a := p.fqBase.toNat % 2 ^ 52 + 64 * (p.fqw.toNat % len)
    (s.inShadow a = true → Machine.exec (.faultQueuePost part) s
      = .next ((s.modPart part fun k => { k with posts := k.posts.erase e }).killNode e.node 0x0C2)) ∧
    (s.inShadow a = false → s.tryWriteN (.faults part) a 64 e.word .other = (s1, true) →
      ∃ t : State, Machine.exec (.faultQueuePost part) s = .next (t.sendPart part (p.fqCtl.toNat / 2 ^ 8 % 256)) ∧
        (t.part part).fqw = (s1.part part).fqw + 1 ∧ (t.part part).posts = (s1.part part).posts.erase e ∧ t.mem = s1.mem ∧
        (t.part part).watch = (if e.kind ≠ 6 ∨ e.reason = 4 then (s1.part part).watch ++ [(p.fqw, e)] else (s1.part part).watch))) ∧
  (∀ (part : Nat) (r : Word) (s : State), part < 8 →
    let p := s.part part
    (0 < (r - p.fqr).toNat → (r - p.fqr).toNat ≤ 2 ^ 31 → (r - p.fqr).toNat ≤ (p.fqw - p.fqr).toNat →
      Machine.exec (.fqrWrite part r) s = .next (s.modPart part fun p => { p with fqr := r })) ∧
    (r = p.fqr ∨ (p.fqw - p.fqr).toNat < (r - p.fqr).toNat → Machine.exec (.fqrWrite part r) s = .next s)) ∧
  (∀ (part : Nat) (i : Word) (s u : State) (e : FaultEnt) (d : BitVec 1024),
    (s.part part).watch.find? (fun x => x.1 == i) = some (i, e) →
    (∀ t, (s.part part).polls.get? i.toNat = some t → t ≤ s.clk) →
    ((s.part part).polls.get? i.toNat = none → s.monArmed (.fault part i) = false) →
    let a := (s.part part).fqAddr i + 0x3C
    s.agentLine (.faults part) (a / 128) .other = (u, .line d) →
    let stat := lineGet d (a % 128) 4
    let s1 := u.modPart part fun p => { p with watch := p.watch.filter (fun x => x.1 != i), polls := p.polls.erase i.toNat }
    (stat = 1 → ∀ t tm, e.agent = .team t → s1.team? t = some tm → s1.faultsOpen tm = false →
      Machine.exec (.faultResume part i) s = .next (s1.appendQueue t) ∧ Machine.exec (.faultStatPoll part i) s = .next (s1.appendQueue t)) ∧
    (stat = 1 → (∀ t, e.agent ≠ .team t) →
      Machine.exec (.faultResume part i) s = .next s1 ∧ Machine.exec (.faultStatPoll part i) s = .next s1) ∧
    (stat = 2 → (∃ t, e.agent = .team t) ∨ (∃ c k, e.agent = .copy c k) ∨ (∃ n d, e.agent = .weaver n d) ∨ (∃ n, e.agent = .node n) →
      Machine.exec (.faultKill part i) s = .next (s1.killNode e.node 0x123)) ∧
    (stat = 2 → (∃ k, e.agent = .coll k) → Machine.exec (.faultKill part i) s = .next (u.killNode e.node 0x123)) ∧
    (stat = 2 → (∃ k, e.agent = .head k) ∨ (∃ k, e.agent = .packet k) → Machine.exec (.faultKill part i) s = .next u) ∧
    (stat = 0 → Machine.exec (.faultStatPoll part i) s
      = .next (if (u.part part).watch.any (fun x => x.1 == i) then u.watchStat part i 0 else u))) ∧
  (∀ (part : Nat) (i : Word) (s u : State) (e : FaultEnt) (c : Nat), (s.part part).watch.find? (fun x => x.1 == i) = some (i, e) →
    (s.part part).polls.get? i.toNat = none → s.monArmed (.fault part i) = false →
    s.agentLine (.faults part) (((s.part part).fqAddr i + 0x3C) / 128) .other = (u, .kill c) →
    Machine.exec (.faultStatPoll part i) s = .next ((u.modPart part fun p =>
      { p with watch := p.watch.filter (fun x => x.1 != i), polls := p.polls.erase i.toNat }).killNode e.node c)) ∧
  (∀ (die part : Nat) (va : BitVec 56) (s : State) (e : TlbEnt) (seen : List (Nat × Nat × DWord)), die < 4 → part < 8 →
    (s.part part).ptroot.getLsbD 0 = true → va.toNat / 2 ^ 52 < 9 → tlbFind (s.die die).tlb part va = none →
    s.walk die part va = (.leaf e, seen) → Machine.exec (.pageWalk die part va) s
      = .next ((s.noteWalk die part seen).modDie die fun d => { d with tlb := tlbAdd 16384 d.tlb e })) ∧
  (∀ (port : Port) (part : Nat) (drop : Bool) (s : State), part < 8 →
    let p := s.part part
    let bad := p.sdVa.toNat % 2 ^ 16 ≠ 0 ∨ 2 ^ 56 ≤ p.sdVa.toNat ∨ p.sdLen.toNat % 2 ^ 16 ≠ 0 ∨ p.sdSig.toNat % 4 ≠ 0 ∨
      2 ^ 52 ≤ p.sdSig.toNat ∨ (p.sdOld ≠ BitVec.allOnes 64 ∧ 2 ^ 52 ≤ p.sdOld.toNat)
    (p.sdBusy = true → Machine.exec (.shootdownGo port part drop) s = .next s) ∧
    (p.sdBusy = false → bad → Machine.exec (.shootdownGo port part drop) s
      = .next (s.modPart part fun p => { p with sdErr := true, sdBusy := false })) ∧
    (p.sdBusy = false → ¬ bad → Machine.exec (.shootdownGo port part drop) s
      = .next ((s.modPart part fun p => { p with sdErr := false, sdBusy := true, sdDrop := drop }).shootdown part drop)) ∧
    (∀ ctl : Word, p.sdBusy = false → ctl.getLsbD 0 = true → 4 ≤ ctl.toNat →
      s.writeSdCtl part ctl = s.modPart part fun p => { p with sdErr := true, sdBusy := false })) ∧
  (∀ (part : Nat) (s : State), (s.part part).sdBusy = true → s.oldPending part = false →
    let pa := (s.part part).sdSig.toNat
    (pa = 0 → Machine.exec (.shootdownComplete part) s = .next (s.modPart part fun p => { p with sdBusy := false })) ∧
    (∀ h, pa ≠ 0 → s.inShadow pa = false → Rules.freeHome s (.shootdown part) h (pa / 128) .other true →
      Machine.exec (.shootdownComplete part) s
        = .next ((Rules.put s h pa 4 ((s.homeGet pa 4 + 1) % 2 ^ 32) .other).modPart part fun p => { p with sdBusy := false })) ∧
    (pa ≠ 0 → s.inShadow pa = true → Machine.exec (.shootdownComplete part) s
      = .next (s.modPart part fun p => { p with sdBusy := false }))) ∧
  (∀ (part : Nat) (s : State), (s.part part).sdBusy = false ∨ s.oldPending part = true →
    Machine.exec (.shootdownComplete part) s = .next s) ∧
  (∀ (part : Nat) (s : State), s.oldPending part = true ↔
    (∃ e ∈ s.outst, e.2.part = part ∧ e.2.epoch < (s.part part).epoch ∧ e.2.kind ≠ .scratch ∧ e.2.kind ≠ .accrd ∧
      ∃ p ∈ e.2.pieces, p.landed = false ∧ p.vals = none) ∨
    ∃ x ∈ s.far, x.part = some part ∧ x.epoch < (s.part part).epoch ∧ x.done = none)

/-! ### Events of control space, the links and the fabric -/

namespace Sys2Proof.Rules

/-- A port may write global control: a host port that owns CSEM (R323), or firmware (log 41). -/
def holdsSem (s : State) (port : Port) : Prop := (port = .host0 ∧ s.csem = 1) ∨ (port = .host1 ∧ s.csem = 2) ∨ port = .firmware

/-- A flit of 256 bytes with a good CRC and KIND 0 to 2 (R320, R321, R331). -/
def goodFlit (f : List Byte) : Prop :=
  f.length = 256 ∧ BitVec.ofNat 64 (leNat (f.drop 248)) = crc64 (f.take 248) ∧ leNat (f.take 1) % 16 ≤ 2

/-- A unit of RDY, VRDY or FRDY that exists, with what RDY, VRDY and FRDY become (R324). -/
def readied (s : State) (u : ReadyUnit) : Option (DWord × BitVec 128 × DWord) :=
  match u with
  | .die d => if d < 4 then some (s.rdy ||| (1#64 <<< d), s.vrdy, s.frdy) else none
  | .vault v => if v < 84 then some (s.rdy, s.vrdy ||| (1#128 <<< v), s.frdy) else none
  | .far c => if c < 48 then some (s.rdy, s.vrdy, s.frdy ||| (1#64 <<< c)) else none
  | .queueEngine => some (s.rdy ||| (1#64 <<< 4), s.vrdy, s.frdy)
  | .fabric => some (s.rdy ||| (1#64 <<< 5), s.vrdy, s.frdy)

/-- The die at the far end of a direction of a module (R207). -/
def beyond (m : UcieRef) : Nat := if m.edge < 2 then 2 * m.edge + (if m.down then 0 else 1) else m.edge - 2 + (if m.down then 0 else 2)

/-- What a direction of a module has sent, and has yet to have acknowledged, after an event: one flit more, and perhaps others after it. -/
def sentFirst (s t : State) (m : UcieRef) (flit : List Byte) : Prop := ∃ r, (t.ucieAt m).wire = (s.ucieAt m).wire ++ flit :: r

end Sys2Proof.Rules

/-- R272, R284, R313, R323, R327: control space. CSEM_WRITE of its own id takes a free semaphore, of 0 gives up its own, and with bit 2 clears
the port's CERR; of two writes in one cycle that of port 0 comes first; PORT_RESET_RELEASE gives it up. The other events of global control act for
the owner alone; for another host port they set its CERR and nothing else. FUSE_COUNTER_WRITE only raises the counter,
to 64 at most. REGISTER_WRITE writes its bytes one after another, and then cuts the fields of CLQUOTA to 16; bytes of no register are ignored, and so
is PCLUS of a port without CSEM; a write of a shootdown block's CTL with GO and reserved bits sets ERR. What no table names reads as zero, and CSEM
reads as its owner with the port's own CERR. That the counter ends at 64 (log 26), that firmware writes global control without CSEM (log 41), and that
a firmware update and the reset of a die are asked for through the mailbox (log 32) are the model's readings and choices. -/
def Obligations.ControlEvents : Prop :=
  (∀ (port : Port) (i : Nat) (v : Word) (s : State), ((port = .host0 ∧ i = 1) ∨ (port = .host1 ∧ i = 2)) →
    (port = .host1 → ∀ w, Instr.csemWrite .host0 w ∉ s.agenda) →
    ∃ t : State, Machine.exec (.csemWrite port v) s = .next t ∧
      t.csem = (if v.toNat % 4 = i ∧ s.csem = 0 then i else if v.toNat % 4 = 0 ∧ s.csem = i then 0 else s.csem) ∧
      t.cerr = (if v.getLsbD 2 then s.cerr.filter (· != port) else s.cerr) ∧ t.mem = s.mem ∧ t.parts = s.parts) ∧
  (∀ (port : Port) (i : Nat) (s : State), ((port = .host0 ∧ i = 1) ∨ (port = .host1 ∧ i = 2)) →
    (s.csem = i → Machine.exec (.portResetRelease port) s = .next { s with csem := 0 }) ∧
    (s.csem ≠ i → Machine.exec (.portResetRelease port) s = .next s)) ∧
  (∀ (v w : Word) (s : State), Instr.csemWrite .host0 w ∈ s.agenda →
    ∃ a b, s.agenda = a ++ b ∧ (∀ x, Instr.csemWrite .host0 x ∉ b) ∧
      Machine.exec (.csemWrite .host1 v) s = .next { s with agenda := a ++ .csemWrite .host1 v :: b }) ∧
  (∀ (port : Port) (v : Word) (s : State), Rules.holdsSem s port →
    (s.fuse < v.toNat → v.toNat ≤ 64 → Machine.exec (.fuseCounterWrite port v) s = .next { s with fuse := v.toNat }) ∧
    ((v.toNat ≤ s.fuse ∨ 64 < v.toNat) → Machine.exec (.fuseCounterWrite port v) s = .next s)) ∧
  (∀ (port : Port) (v : Word) (s : State), ¬ Rules.holdsSem s port →
    ∃ t : State, Machine.exec (.fuseCounterWrite port v) s = .next t ∧ Machine.exec (.heatTableCommit port v) s = .next t ∧
      port ∈ t.cerr ∧ t.fuse = s.fuse ∧ t.heats = s.heats ∧ t.staged = s.staged ∧ t.parts = s.parts) ∧
  (∀ (port : Port) (off : Nat) (bs : List Byte) (s : State), (off % 2 ^ 16 ≠ 0x58 ∨ 0x80000 ≤ off ∨ bs.length ≠ 4) →
    inMailbox off bs = false →
    ∃ t : State, Machine.exec (.registerWrite port off bs) s = .next t ∧
      (bs = [] → t.parts = s.parts ∧ t.mem = s.mem) ∧
      (∀ b r, bs = b :: r → ∀ u, Machine.exec (.registerWrite port off [b]) s = .next u →
        t.parts = ((s.controlByte port off b).controlBytes port (off + 1) r).parts ∧ u.parts = (s.controlByte port off b).parts) ∧
      (∀ i sl, (s.controlBytes port off bs).slices.get? i = some sl → ∃ sl', t.slices.get? i = some sl' ∧
        ∀ f, f < 5 → sl'.clquota.toNat / 2 ^ (5 * f) % 32 = min 16 (sl.clquota.toNat / 2 ^ (5 * f) % 32))) ∧
  (∀ (port : Port) (i : Nat) (b : Byte) (s : State), i < 0x1000 →
    let m := NMap.set s.mailbox i b
    ∃ t : State, Machine.exec (.registerWrite port (0x200000 + i) [b]) s = .next t ∧ t.mailbox = m ∧ t.mem = s.mem ∧ t.parts = s.parts ∧
      (Config.mailRequest m = none → t.flashA = s.flashA ∧ t.flashB = s.flashB ∧ t.rdy = s.rdy ∧ t.cerr = s.cerr) ∧
      (∀ x f, Config.mailRequest m = some (.update x f) →
        (Rules.holdsSem s port → t.flashA = (if x then s.flashA else some f) ∧ t.flashB = (if x then some f else s.flashB)) ∧
        (¬ Rules.holdsSem s port → port ∈ t.cerr ∧ t.flashA = s.flashA ∧ t.flashB = s.flashB)) ∧
      (∀ d, d < 4 → Config.mailRequest m = some (.dieReset d) →
        (Rules.holdsSem s port → t.rdy.getLsbD d = false ∧ t.fwSvn.get? d = none ∧ d ∉ t.refused) ∧
        (¬ Rules.holdsSem s port → port ∈ t.cerr ∧ t.rdy = s.rdy ∧ t.fwSvn = s.fwSvn))) ∧
  (∀ (port : Port) (p : Nat) (a b c d : Byte) (s : State), p < 8 → a.getLsbD 0 = true → 4 ≤ (d ++ c ++ b ++ a).toNat →
    (s.part p).sdBusy = false → Machine.exec (.registerWrite port (2 ^ 16 * p + 0x58) [a, b, c, d]) s
      = .next (s.modPart p fun k => { k with sdErr := true, sdBusy := false })) ∧
  (∀ (port : Port) (p : Nat) (b : Byte) (s : State), p < 8 →
    (∃ t : State, Machine.exec (.registerWrite port (2 ^ 16 * p + 0x20) [b]) s = .next t ∧ t.parts = s.parts ∧ t.mem = s.mem) ∧
    (∀ i, i < 8 → ∃ t : State, Machine.exec (.registerWrite port (2 ^ 16 * p + 0x80 + i) [b]) s = .next t ∧ t.mem = s.mem ∧
      ∀ j, j < 64 → (t.part p).fqBase.getLsbD j = if j / 8 = i then b.getLsbD (j % 8) else (s.part p).fqBase.getLsbD j) ∧
    (¬ Rules.holdsSem s port → ∀ i, 0x10 ≤ i → i < 0x20 →
      ∃ t : State, Machine.exec (.registerWrite port (2 ^ 16 * p + i) [b]) s = .next t ∧ port ∈ t.cerr ∧ t.parts = s.parts ∧ t.mem = s.mem)) ∧
  (∀ (port : Port) (off : Nat) (s : State),
    ((0x80000 ≤ off ∧ off < 0x100000) ∨ (0x110000 ≤ off ∧ off < 0x200000) ∨ (0x210000 ≤ off ∧ off < 2 ^ 32) ∨ (5 * 2 ^ 32 ≤ off ∧ off < 2 ^ 47)) →
    s.readControl port off = 0) ∧
  (∀ (port : Port) (s : State), s.csem < 4 → (s.readControl port 0x100000).toNat = s.csem + (if port ∈ s.cerr then 4 else 0))

/-- R290, R313, R315: heats. HEAT_TABLE_COMMIT puts a table that keeps the rules of R313 in force, and leaves the one in force else. HEAT_START: a
cluster whose partition the present heat changes stops admission and has its resident teams saved; once none is on its cores, its links, barriers
and queue change with the partition; the partition that goes keeps its own. A partition is resident while the heat runs it and each of its clusters
has switched to it. That a RUN value of 256 or more refuses the table (log 25), and that residence begins only once every cluster has switched
(log 24), are the model's readings. -/
def Obligations.HeatEvents : Prop :=
  (∀ (port : Port) (v : Word) (s : State) (t : HeatTable), Rules.holdsSem s port → t = { s.staged with nent := v.toNat } →
    (s.heatOk t v.toNat = true → Machine.exec (.heatTableCommit port v) s = .next { s with staged := t, heats := some t }) ∧
    (s.heatOk t v.toNat = false → Machine.exec (.heatTableCommit port v) s = .next { s with staged := t })) ∧
  (∀ (s : State) (t : HeatTable) (n : Nat), s.heatOk t n = true ↔
    1 ≤ n ∧ n ≤ 64 ∧ (∀ i, i < n → (t.entry i).1.toNat < t.period.toNat) ∧
    (∀ i, i + 1 < n → (t.entry i).1.toNat < (t.entry (i + 1)).1.toNat) ∧
    (∀ i, i < n → (t.entry i).2.toNat < 256 ∧ ∀ p q, p < 8 → q < p → (t.entry i).2.getLsbD p = true → (t.entry i).2.getLsbD q = true →
      (s.part p).pclus &&& (s.part q).pclus = 0)) ∧
  (∀ (cl : Nat) (s : State), cl < 84 →
    let k := s.cluster cl
    (k.switching = none → s.due cl = k.part → Machine.exec (.heatStart cl) s = .next s.setResidence) ∧
    (k.switching = none → s.due cl ≠ k.part → Machine.exec (.heatStart cl) s
      = .next (((s.modCluster cl fun c => { c with switching := some (s.due cl) }).preempt cl).setResidence)) ∧
    (∀ q, k.switching = some q → s.onCluster cl ≠ [] → Machine.exec (.heatStart cl) s = .next (s.preempt cl)) ∧
    (∀ q, k.switching = some (some q) → s.onCluster cl = [] →
      ∃ u : State, Machine.exec (.heatStart cl) s = .next ((u.settleCluster cl q).setResidence) ∧ (u.cluster cl).part = some q ∧
        (u.cluster cl).switching = none ∧ u.mem = s.mem ∧ u.teams = s.teams ∧
        (∀ p, k.part = some p → p ≠ q → (u.cluster cl).out.get? p = some k.links ∧
          (u.cluster cl).links = { k.out.getD q {} with headSince := s.clk, alone := false }))) ∧
  (∀ (s : State) (p : Nat), p < 8 → ((s.setResidence).part p).resident = s.nowResident p) ∧
  (∀ (s : State) (p : Nat), s.nowResident p = true ↔ s.run.getLsbD p = true ∧
    ∀ c, c < 84 → (s.part p).pclus.getLsbD c = true → (s.cluster c).part = some p ∧ (s.cluster c).switching = none)

/-- R212, R218, R317, R324, R326, R328, R329: the package. PACKAGE_RESET leaves every register at its reset value, with memory, fuses and flash kept
(log 43). UNIT_READY sets the unit's bit, for a die if its sectors' maps are good and its ROM has not refused both firmware slots. BOOT_ROM_LOAD runs the first acceptable image, slot A before slot
B, with its measurement extended, or refuses the die. ATTESTATION_REQUEST to a die whose firmware runs adds a reply with the nonce and the
measurements. CLOCK_THROTTLE lowers the clock by 100 MHz, to 1,200 at least, and raises it, to 2,100 at most, 1 ms after both limits are
clear. SOFT_ERROR counts a corrected error; else it poisons a line of memory or of a slice, or ends the nodes that the unit serves with the unit's
cause: 0x05F of a core's SRAM, 0x083 of a neighbour link, 0x0C4 of a slice's units, 0x124 of the queue engine, 0x14F of the fabric's. PORT_TRAINING
sets a module's lanes, and lets a good port join its plane. What PACKAGE_RESET keeps (log 43), the credit of a lost message (log 64), a ceiling of
2,100 MHz (log 26), a bank with an uncorrectable error counted as bad (log 29), and sequence numbers from 0 after a port has trained (log 76) are
the model's choices and readings. -/
def Obligations.PackageEvents : Prop :=
  (∀ s : State, Machine.exec .packageReset s = .next { State.reset with
    mem := s.mem, poison := s.poison, fuse := s.fuse, flashA := s.flashA, flashB := s.flashB, ptp := s.ptp
    clearSince := s.ptp, nextId := s.nextId, fabOut := s.fabOut, vectors := s.vectors }) ∧
  (∀ s : State, ∃ t : State, Machine.exec .packageReset s = .next t ∧ t.mem = s.mem ∧ t.poison = s.poison ∧ t.fuse = s.fuse ∧
    t.flashA = s.flashA ∧ t.flashB = s.flashB ∧ t.clk = 0 ∧ t.rdy = 0 ∧ t.vrdy = 0 ∧ t.frdy = 0 ∧ t.csem = 0 ∧ t.parts = [] ∧
    t.teams = [] ∧ t.cores = [] ∧ t.slices = [] ∧ t.outst = [] ∧ t.mr = []) ∧
  (∀ (u : ReadyUnit) (s : State) (a : DWord) (b : BitVec 128) (c : DWord), Rules.readied s u = some (a, b, c) →
    (∀ d, u = .die d → d ∉ s.refused ∧ ∀ sec, sec < 3 → mapOk (s.die d) sec = true) →
    Machine.exec (.unitReady u) s = .next { s with rdy := a, vrdy := b, frdy := c }) ∧
  (∀ (d : Nat) (s : State) (sec : Nat), sec < 3 → (mapOk (s.die d) sec = false ∨ d ∈ s.refused) →
    Machine.exec (.unitReady (.die d)) s = .next s) ∧
  (∀ (d : Nat) (s : State), d < 4 → s.fwSvn.get? d = none → d ∉ s.refused →
    Machine.exec (.bootRomLoad d) s = .next (match (s.flashA.toList ++ s.flashB.toList).find? s.accepts with
      | some f => s.runImage d f
      | none => { s with refused := d :: s.refused })) ∧
  (∀ (s : State) (f : FwImage), s.accepts f = true ↔ f.signed = true ∧ s.fuse ≤ f.svn ∧
    sha512 (Config.keyBytes f.modulus f.exponent) = beBytes 64 Config.keyHash.toNat) ∧
  (∀ (s : State) (d : Nat) (f : FwImage), (s.runImage d f).fwSvn.get? d = some f.svn ∧
    (s.runImage d f).mr = ((s.extend d (Config.romRegister d % 8) (sha512 (f.header ++ f.body))).runStages d 0 f.stages).mr) ∧
  (∀ (s : State) (d k : Nat) (b : List Byte) (r : List (List Byte)),
    s.runStages d k (b :: r) = (s.extend d (Config.stageRegister d k % 8) (sha512 b)).runStages d (k + 1) r) ∧
  (∀ (s : State) (d i : Nat) (dg : List Byte), (s.extend d i dg).mr.getD (8 * d + i) 0
      = BitVec.ofNat 512 (beNat (sha512 (beBytes 64 (s.mr.getD (8 * d + i) 0).toNat ++ dg))) ∧
    ∀ k, k ≠ 8 * d + i → (s.extend d i dg).mr.getD k 0 = s.mr.getD k 0) ∧
  (∀ (d v : Nat) (nonce : BitVec 256) (s : State), s.fwSvn.get? d = some v →
    ∃ r : Attest, Machine.exec (.attestationRequest d nonce) s = .next { s with replies := r :: s.replies } ∧ r.die = d ∧
      r.report.nonce = nonce ∧ r.report.mrs = s.mr ∧ r.report.svns = s.fwSvn ∧ r.report.fuse = s.fuse ∧
      r.signature = Config.deviceSign d s.replies.length r.report) ∧
  (∀ (p t : Bool) (s : State),
    ((p = true ∨ t = true) → Machine.exec (.clockThrottle p t) s = .next { s with mhz := max 1200 (s.mhz - 100), clearSince := s.ptp }) ∧
    (p = false → t = false → s.clearSince + 1000000 ≤ s.ptp →
      Machine.exec (.clockThrottle p t) s = .next { s with mhz := min 2100 (s.mhz + 100) })) ∧
  (∀ (u : ErrUnit) (s : State), Machine.exec (.softError u false) s = .next { s with corrected := s.corrected + 1 }) ∧
  (∀ (t : Nat) (tm : Team) (s : State), s.team? t = some tm →
    Machine.exec (.softError (.coreSram t) true) s = .next (s.killNode tm.node 0x05F)) ∧
  (∀ (line : Nat) (s : State), (homeSector line).isSome = true →
    ∃ t : State, Machine.exec (.softError (.memLine line) true) s = .next t ∧ (∀ l, l ∈ t.poison ↔ l = line ∨ l ∈ s.poison) ∧ t.mem = s.mem) ∧
  (∀ (c side ch : Nat) (s : State), ∃ t : State, Machine.exec (.softError (.link c side ch) true) s = .next t ∧
    ∀ id n, s.node? id = some n → n.st = .running → (n.lid ∈ s.lidsOnLink c side → ∃ n', t.node? id = some n' ∧ n'.st = .killing ∧
      n'.cause = some 0x083) ∧ ((∀ k ∈ s.nodes, k.2.lid ∈ s.lidsOnLink c side → k.1 ≠ id) → t.node? id = some n)) ∧
  (∀ (i : Nat) (s : State), Machine.exec (.softError (.sliceUnit i) true) s = .next (s.killNodes (s.nodesAtSlice i) 0x0C4)) ∧
  (∀ (p : Nat) (s : State), Machine.exec (.softError (.queueEngine p) true) s
    = .next (s.killNodes ((s.nodes.filter fun n => n.2.part = p).map (·.1)) 0x124)) ∧
  (∀ (p : Nat) (s : State), p < 16 → ∃ t : State, Machine.exec (.softError (.fabric p) true) s = .next t ∧
    (t.port p).badBanks = min 8 ((s.port p).badBanks + 1) ∧ t.nodes = (s.killNodes (s.nodesAtPort p) 0x14F).nodes) ∧
  (∀ (p : Nat) (s : State), Machine.exec (.softError (.endToEnd p) true) s = .next (s.killNodes (s.nodesToPeer p) 0x14F)) ∧
  (∀ (p i : Nat) (s : State), (s.slot p i).st ≠ .free →
    Machine.exec (.softError (.postSlot p i) true) s = .next (s.killNode (s.slot p i).node 0x14F)) ∧
  (∀ (m : UcieRef) (lanes rtc : Nat) (s : State), m.edge < 4 → m.module < 16 → (lanes = 32 ∨ lanes = 64) → (s.ucieAt m).dead = false →
    ∃ t : State, Machine.exec (.portTraining (.ucie m) lanes rtc) s = .next t ∧ (t.ucieAt m).lanes = lanes ∧ t.mem = s.mem) ∧
  (∀ (p lanes rtc : Nat) (s : State), p < 16 → 4 ≤ lanes → lanes ≤ 8 →
    (20 + 4 * rtc ≤ 1024 * (8 - (s.port p).badBanks)) →
    ∃ t : State, Machine.exec (.portTraining (.yunambi p) lanes rtc) s = .next t ∧ (t.port p).lanes = lanes ∧ (t.port p).rtc = rtc ∧
      t.fabev = s.fabev ||| (1#64 <<< p) ∧ t.mem = s.mem ∧ (s.portUp p = false → (t.port p).exp = 0))

/-- R320 to R322, R331 to R333: the links. UCIE_FLIT_RECEIVE and YUNAMBI_FLIT_RECEIVE: a bad flit is answered by a NAK on the way back and does
nothing else; a payload flit with the expected SEQ is accepted, the expected SEQ advances, and its messages go on; one ahead of it is answered by a
NAK, one behind it by an ACK, and neither is accepted. An ACK frees the flits up to it; at most 64 flits of a module are unacknowledged. Without
progress of the ACK for 2 µs and 5 µs UCIE_REPLAY and YUNAMBI_REPLAY send every unacknowledged flit again, in order. A Yunambi port sends a flit only
while it is up, has a credit for the flit's channel and room in its replay buffer; a channel has a credit while its reserve or the shared space has
room. UCIE_LANE_LOSS halves a module of 64 lanes and kills one of 32; its pairs go to a module that is left, and an edge that has lost all 16 stops the
package. PORT_WITHDRAW takes a degraded port out of UP and of every PMASK, sets WDN, and gives up what the port has sent or queued; NO_ROUTE_NOTICE
takes a plane out of one PMASK. A payload flit carries one message or several in send order. EDGE cleared by any loss of lanes and UP cleared on
withdrawal (log 26), delivery and acknowledgement in the event that accepts a flit, and the module that takes a dead one's pairs (log 42), SEQ and
payload 0 of an idle flit, how many messages a flit packs, and the size of the other end's buffer (log 61) are the model's choices and readings. -/
def Obligations.LinkEvents : Prop :=
  (∀ (m : UcieRef) (f : List Byte) (s : State), ¬ Rules.goodFlit f →
    ∃ t : State, Machine.exec (.ucieFlitReceive m f) s = .next t ∧ t.mem = s.mem ∧ (t.ucieAt m).exp = (s.ucieAt m).exp ∧
      (t.ucieAt (otherWay m)).replay = (s.ucieAt (otherWay m)).replay ∧
      (t.ucieAt (otherWay m)).wire = (s.ucieAt (otherWay m)).wire ++ [ucieFlit 2 0 ((s.ucieAt m).exp - 1) 0]) ∧
  (∀ (m : UcieRef) (f : List Byte) (s : State), Rules.goodFlit f → leNat (f.take 1) % 16 = 1 →
    ∃ t : State, Machine.exec (.ucieFlitReceive m f) s = .next t ∧ t.mem = s.mem ∧
      (f.getD 1 0 = (s.ucieAt m).exp → (t.ucieAt m).exp = (s.ucieAt m).exp + 1 ∧
        Rules.sentFirst s t (otherWay m) (ucieFlit 0 0 (s.ucieAt m).exp 0) ∧
        (∀ x, x ∈ ((s.ucieAt m).replay.lookup (f.getD 1 0)).getD [] → Rules.beyond m = x.to_ → ∀ sl r, x.msg = .req sl r →
          (∀ d k, r.body ≠ .write d k true) → (sl, r) ∈ t.net)) ∧
      (f.getD 1 0 ≠ (s.ucieAt m).exp → (t.ucieAt m).exp = (s.ucieAt m).exp ∧ t.net = s.net ∧
        Rules.sentFirst s t (otherWay m)
          (ucieFlit (if 0 ≤ (f.getD 1 0 - (s.ucieAt m).exp).toInt then 2 else 0) 0 ((s.ucieAt m).exp - 1) 0))) ∧
  (∀ (m : UcieRef) (ack : Byte) (s : State),
    (∀ x ∈ (s.ucieAt m).replay, 0 < (x.1 - ack).toInt → x ∈ ((s.ucieFree m ack).ucieAt m).replay) ∧
    ((s.ucieAt m).waiting = [] → ∀ x ∈ ((s.ucieFree m ack).ucieAt m).replay, x ∈ (s.ucieAt m).replay ∧ 0 < (x.1 - ack).toInt)) ∧
  (∀ (m : UcieRef) (x : Crossing) (s : State), (s.ucieAt m).replay.length ≤ 64 → ((s.ucieSend m x).ucieAt m).replay.length ≤ 64) ∧
  (∀ (m : UcieRef) (x : Crossing) (s : State), (s.ucieAt m).waiting = [] → (s.ucieAt m).replay.length < 64 → (s.ucieAt m).lanes ≠ 0 →
    ((s.ucieSend m x).ucieAt m).replay = (s.ucieAt m).replay ++ [((s.ucieAt m).seq, [x])] ∧
    ((s.ucieSend m x).ucieAt m).wire = (s.ucieAt m).wire
      ++ [ucieFlit 1 (s.ucieAt m).seq ((s.ucieAt (otherWay m)).exp - 1) (Config.ringBytes [x]).toNat]) ∧
  (∀ (m : UcieRef) (s : State), (s.ucieAt m).waiting ≠ [] → (s.ucieAt m).replay.length < 64 → (s.ucieAt m).lanes ≠ 0 →
    ∃ k, 0 < k ∧ Rules.sentFirst s (s.ucieDrain m 64) m (ucieFlit 1 (s.ucieAt m).seq ((s.ucieAt (otherWay m)).exp - 1)
      (Config.ringBytes ((s.ucieAt m).waiting.take k)).toNat)) ∧
  (∀ (m : UcieRef) (s : State), (s.ucieAt m).replay ≠ [] → (s.ucieAt m).progressAt + 2000 ≤ s.ptp →
    ∃ t : State, Machine.exec (.ucieReplay m) s = .next t ∧ t.mem = s.mem ∧ (t.ucieAt m).progressAt = s.ptp ∧
      (t.ucieAt m).wire = (s.ucieAt m).wire ++ (s.ucieAt m).replay.map (fun x =>
        ucieFlit 1 x.1 ((s.ucieAt (otherWay m)).exp - 1) (Config.ringBytes x.2).toNat)) ∧
  (∀ (m : UcieRef) (s : State), (s.ucieAt m).dead = false → (s.ucieAt m).lanes ≠ 0 → m.edge < 4 → m.module < 16 →
    ∃ t : State, Machine.exec (.ucieLaneLoss m) s = .next t ∧ t.mem = s.mem ∧ t.rdy.getLsbD (8 + m.edge) = false ∧
      (64 ≤ (s.ucieAt m).lanes → (t.ucieAt m).lanes = 32 ∧ (t.ucieAt m).dead = false) ∧
      ((s.ucieAt m).lanes < 64 → (t.ucieAt m).lanes = 0 ∧ (t.ucieAt m).dead = true ∧
        let at_ (u : State) (k : Nat) := u.ucieAt { edge := m.edge, module := k, down := false }
        (m.down = false → (∀ k, k < 16 → k ≠ m.module → (at_ s k).dead = true) → t.rdy.getLsbD 12 = true) ∧
        ((∃ k, k < 16 ∧ k ≠ m.module ∧ (at_ s k).dead = false) → t.rdy.getLsbD 12 = s.rdy.getLsbD 12 ∧
          ∃ k, k < 16 ∧ (at_ t k).dead = false ∧ (∀ pair, s.moduleFor m.edge pair = m.module → t.moduleFor m.edge pair = k) ∧
            ((∃ j, j < 16 ∧ j ≠ m.module ∧ (at_ s j).dead = false ∧ (at_ s j).lanes ≠ 0) → (at_ t k).lanes ≠ 0)))) ∧
  (∀ (p : Nat) (f : List Byte) (s : State), p < 16 → ¬ Rules.goodFlit f →
    Machine.exec (.yunambiFlitReceive p f) s = .next (s.fabEmit p 2 0 0 0)) ∧
  (∀ (s : State) (p kind vc : Nat) (seq : BitVec 12) (pay : BitVec 1920),
    (s.portUp p = false → s.fabEmit p kind seq vc pay = s) ∧
    (s.portUp p = true → ∃ c n, ((s.fabEmit p kind seq vc pay).port p).sent
        = (s.port p).sent ++ [fabFlit kind vc c n seq ((s.port p).exp - 1) pay] ∧
      n ≤ (s.port p).owed.getD c 0 ∧ ((s.fabEmit p kind seq vc pay).port p).owed.getD c 0 = (s.port p).owed.getD c 0 - n)) ∧
  (∀ (p : Nat) (f : List Byte) (s : State), p < 16 → Rules.goodFlit f → leNat (f.take 1) % 16 = 1 →
    let h := leNat (f.take 8)
    let k := s.port p
    ∃ t : State, Machine.exec (.yunambiFlitReceive p f) s = .next t ∧ t.mem = s.mem ∧
      (BitVec.ofNat 12 (h / 2 ^ 20) = k.exp → k.buf.length < 1024 * (8 - k.badBanks) →
        (t.port p).exp = k.exp + 1 ∧ (t.port p).buf = k.buf ++ [(h / 2 ^ 4 % 4, (f.drop 8).take 240)]) ∧
      (BitVec.ofNat 12 (h / 2 ^ 20) ≠ k.exp ∨ 1024 * (8 - k.badBanks) ≤ k.buf.length → (t.port p).exp = k.exp ∧ (t.port p).buf = k.buf) ∧
      (k.waiting = [] → (t.port p).used.getD (h / 2 ^ 6 % 4) 0 = k.used.getD (h / 2 ^ 6 % 4) 0 - h / 2 ^ 8 % 2 ^ 8)) ∧
  (∀ (p vc : Nat) (pay : BitVec 1920) (s : State), (s.port p).waiting = [] →
    let k := s.port p
    let t := s.fabPush p vc [pay]
    (s.portUp p = true → k.replay.length < 1024 → k.credit vc = true → (t.port p).waiting = [] ∧ (t.port p).seq = k.seq + 1 ∧
      (t.port p).replay = k.replay ++ [(k.seq, vc, pay)] ∧ (t.port p).used.getD vc 0 = k.used.getD vc 0 + 1 ∧
      ∃ c n, (t.port p).sent = k.sent ++ [fabFlit 1 vc c n k.seq (k.exp - 1) pay]) ∧
    (s.portUp p = false ∨ 1024 ≤ k.replay.length ∨ k.credit vc = false →
      (t.port p).waiting = [(vc, pay)] ∧ (t.port p).sent = k.sent ∧ (t.port p).used = k.used)) ∧
  (∀ (k : FabPort) (vc : Nat),
    let most (c : Nat) : Nat := if c = 2 then 3 else if c = 0 ∨ c = 1 then 1 else 5
    let above (c : Nat) : Nat := k.used.getD c 0 - (2 * most c + k.rtc)
    k.credit vc = true ↔ k.used.getD vc 0 < 2 * most vc + k.rtc ∨ above 0 + above 1 + above 2 + above 3 < 8192 - (20 + 4 * k.rtc)) ∧
  (∀ (p : Nat) (s : State), (s.port p).replay ≠ [] → (s.port p).progressAt + 5000 ≤ s.ptp →
    ∃ (t : State) (l : List (List Byte)), Machine.exec (.yunambiReplay p) s = .next t ∧ t.mem = s.mem ∧ (t.port p).progressAt = s.ptp ∧
      (t.port p).sent = (s.port p).sent ++ l ∧ (s.portUp p = false → l = []) ∧
      (s.portUp p = true → l.length = (s.port p).replay.length ∧ ∀ (i : Nat) x, (s.port p).replay[i]? = some x →
        ∃ c n, l[i]? = some (fabFlit 1 x.2.1 c n x.1 ((s.port p).exp - 1) x.2.2))) ∧
  (∀ (p : Nat) (s : State), p < 16 → s.fabev.getLsbD p = true →
    ((s.port p).lanes < 4 ∨ 1024 * (8 - (s.port p).badBanks) < 20 + 4 * (s.port p).rtc) →
    ∃ t : State, Machine.exec (.portWithdraw p) s = .next t ∧ t.fabev.getLsbD p = false ∧ t.fabev.getLsbD (16 + p) = true ∧
      (∀ d, (t.pmask.getD d 0).getLsbD p = false) ∧ t.mem = s.mem ∧
      (t.port p).replay = [] ∧ (t.port p).waiting = [] ∧ (t.port p).used = [] ∧ (t.port p).owed = []) ∧
  (∀ (d pl : Nat) (s : State), pl < 16 → ∃ t : State, Machine.exec (.noRouteNotice d pl) s = .next t ∧
    (∀ q, q < 16 → (t.pmask.getD d 0).getLsbD q = ((s.pmask.getD d 0).getLsbD q && q != pl)) ∧
    (∀ e, e ≠ d → t.pmask.getD e 0 = s.pmask.getD e 0) ∧ t.mem = s.mem)

/-- R276, R333 to R337, R355: remote streams. A packet takes its stream's next sequence number; it is held while the other channel has one to its line
that is unacknowledged or held. REMOTE_PACKET_APPLY performs the packet whose turn it is, once, at the home of its line, keeps its response
with those of the last 512 and sends it; answers one already applied again, without performing it; holds one up to 512 ahead, and ignores one
further ahead. REMOTE_RESPONSE_ARRIVAL acknowledges its packet, brings its data, and lets the other channel's packets go. REMOTE_RESEND sends a
packet again, on the next plane, 20 µs after it was sent. PEER_UNREACHABLE ends the nodes with an access on a stream that cannot be reached for 2 ms
with 0x140, and fails the collectives with the peer. That 0x0C1 and 0x0C2 come back as causes in the response, that a bare acknowledgement does not
answer a load, and which operations count for 0x140 are the model's readings (log 27). -/
def Obligations.RemoteEvents : Prop :=
  (∀ (s : State) (p : RemPkt) (op piece : Nat),
    let o := s.outStream p.st
    let t := s.remGo p op piece
    (t.outStream p.st).next = o.next + 1 ∧ ∃ u, (t.outStream p.st).unacked = o.unacked ++ [u] ∧ u.pkt = { p with seq := o.next } ∧
      u.op = op ∧ u.piece = piece ∧ u.firstAt = s.ptp ∧ u.sentAt = s.ptp ∧
      (∀ pl, s.nextPlane p.st.peer = some pl → t.fabOut = s.fabOut ++ [(.pkt u.pkt, pl)] ∧ u.plane = pl) ∧
      (s.nextPlane p.st.peer = none → t.fabOut = s.fabOut)) ∧
  (∀ (s : State) (st : StreamId) (line : Nat), st.ch ≠ .coll →
    let other := s.outStream { st with ch := if st.ch = .req then .atom else .req }
    (s.remHeld st line = true ↔ (∃ u ∈ other.unacked, u.pkt.line = line) ∨ (∃ w ∈ other.waiting, w.pkt.line = line) ∨
      ∃ w ∈ (s.outStream st).waiting, w.pkt.line = line) ∧
    (∀ w : HeldPkt, s.mayGo st w = true ↔ (∀ u ∈ other.unacked, u.pkt.line ≠ w.pkt.line) ∧
      ∀ x ∈ other.waiting, x.pkt.line = w.pkt.line → w.order ≤ x.order) ∧
    (∀ n, (∀ w ∈ (s.outStream st).waiting, s.mayGo st w = false) → s.releaseHeld st n = s) ∧
    (∀ n w, (s.outStream st).waiting.find? (s.mayGo st) = some w → s.releaseHeld st (n + 1)
      = ((s.modOutStream st fun o => { o with waiting := o.waiting.erase w }).remGo w.pkt w.op w.piece).releaseHeld st n)) ∧
  (∀ (p : RemPkt) (s s1 : State) (r : RemRsp), p.seq = (s.inStream p.st).applied → s.applyRemote p = (s1, some r) →
    let i := s1.inStream p.st
    let s2 := (s1.modIn p.st fun i =>
      { applied := i.applied + 1, early := i.early.filter (fun q => q.seq != p.seq)
        resps := (i.resps ++ [r]).drop (i.resps.length + 1 - 512) }).fabLeave p.st.peer (.rsp r) 1
    (s2.inStream p.st).applied = i.applied + 1 ∧
    Machine.exec (.remotePacketApply p) s = .next (s2.applyEarly p.st 512)) ∧
  (∀ (p : RemPkt) (s : State), serialLt p.seq (s.inStream p.st).applied = true →
    ∃ r : RemRsp, Machine.exec (.remotePacketApply p) s = .next (s.fabLeave p.st.peer (.rsp r) 1) ∧
      (r ∈ (s.inStream p.st).resps ∨ r.bare = true) ∧ r.seq = p.seq) ∧
  (∀ (p : RemPkt) (s : State), p.seq ≠ (s.inStream p.st).applied → serialLt p.seq (s.inStream p.st).applied = false →
    (∀ q ∈ (s.inStream p.st).early, q.seq ≠ p.seq) →
    ((p.seq - (s.inStream p.st).applied).toNat ≤ 512 → Machine.exec (.remotePacketApply p) s
      = .next (s.modIn p.st fun i => { i with early := i.early ++ [p] })) ∧
    (512 < (p.seq - (s.inStream p.st).applied).toNat → Machine.exec (.remotePacketApply p) s = .next s)) ∧
  (∀ (p : RemPkt) (s : State) (h : HomeAt),
    let a := streamAgent p.st
    let cls := remClsOf p.cls
    (s.inShadow (128 * p.line) = true → (∀ m, p.op ≠ .message m) → s.applyRemote p = (s, some (emptyRsp p 0x0C2))) ∧
    (p.op = .load → Rules.freeHome s a h p.line cls false →
      let t := s.readHome p.line cls
      s.applyRemote p = (t, some { emptyRsp p 0 with data := t.homeLine p.line })) ∧
    (∀ d m, p.op = .store d m → Rules.freeHome s a h p.line cls true →
      s.applyRemote p = (s.writeHome h p.line d m cls none, some (emptyRsp p 0))) ∧
    (∀ s1, p.op = .load → s.inShadow (128 * p.line) = false → s.seize a false p.line cls = (s1, true) → s1.homePoison p.line = true →
      s.applyRemote p = (s1.letGo a p.line, some (emptyRsp p 0x0C1))) ∧
    (∀ m, p.op = .message m → s.applyRemote p = (s.deliverMsg p.st.peer m, some (emptyRsp p 0)))) ∧
  (∀ (r : RemRsp) (s : State) (u : Unacked), (s.outStream r.st).unacked.find? (fun u => u.pkt.seq == r.seq) = some u →
    (r.bare = false ∨ s.needsData u = false) →
    let s1 := (s.modOutStream r.st fun o => { o with unacked := o.unacked.filter fun x => x.pkt.seq != r.seq }).answer u r
    (∀ c, r.st.ch.other = some c → Machine.exec (.remoteResponseArrival r) s
      = .next (s1.releaseHeld { r.st with ch := c } (s1.outStream { r.st with ch := c }).waiting.length)) ∧
    (r.st.ch = .coll → Machine.exec (.remoteResponseArrival r) s = .next s1)) ∧
  (∀ (s : State) (u : Unacked) (r : RemRsp), (∀ o, s.outst.get? u.op = some o → r.cause = 0 →
      (o.kind = .effect → s.answer u r = s.landPiece u.op u.piece) ∧
      (o.kind ≠ .effect → u.pkt.op = .load → s.answer u r = s.bindFar u.op u.piece r.data)) ∧
    (s.outst.get? u.op = none → u.pkt.op = .load → s.answer u r = s.farDone u.op r.cause r.data)) ∧
  (∀ (st : StreamId) (q : Word) (s : State) (u : Unacked) (pl : Nat), (s.outStream st).unacked.find? (fun u => u.pkt.seq == q) = some u →
    s.nextPlane st.peer = some pl → u.sentAt + 20000 ≤ s.ptp →
    ∃ t : State, Machine.exec (.remoteResend st q) s = .next t ∧ t.fabOut = s.fabOut ++ [(.pkt u.pkt, pl)] ∧ t.rrPlane.getD st.peer 15 = pl ∧
      (∃ v ∈ (t.outStream st).unacked, v.pkt = u.pkt ∧ v.sentAt = s.ptp ∧ v.plane = pl) ∧ t.mem = s.mem) ∧
  (∀ (st : StreamId) (s : State), s.lost st = true →
    let o := s.outStream st
    let ops := (((o.unacked.map (·.op)) ++ o.waiting.map (·.op)).filter s.waitsFor).eraseDups
    let s1 := ops.foldl (fun u op => match u.nodeOf op with | some n => (u.killNode n 0x140).failOp op | none => u.failOp op) s
    let s2 := (s1.modOutStream st fun o => { o with waiting := [] }).releaseRival st
    Machine.exec (.peerUnreachable st) s = .next ((s2.startedWith st.peer).foldl (fun u x => u.failSlot x.1 x.2 (some st.peer)) s2)) ∧
  (∀ (st : StreamId) (s : State), s.lost st = false → Machine.exec (.peerUnreachable st) s = .next s) ∧
  (∀ (st : StreamId) (s : State),
    let o := s.outStream st
    let shared := st.ch = .coll ∧ s.startedWith st.peer ≠ []
    s.lost st = true ↔ (∃ u ∈ o.unacked, (s.waitsFor u.op = true ∨ shared) ∧ u.firstAt + 2000000 ≤ s.ptp) ∨
      (∃ w ∈ o.waiting, (s.waitsFor w.op = true ∨ shared) ∧ w.since + 2000000 ≤ s.ptp) ∨
      (s.pmask.getD st.peer 0 = 0 ∧ s.emptySince.getD st.peer 0 + 2000000 ≤ s.ptp ∧
        ((∃ u ∈ o.unacked, s.waitsFor u.op = true) ∨ (∃ w ∈ o.waiting, s.waitsFor w.op = true) ∨ s.startedWith st.peer ≠ [])))

namespace Sys2Proof.Rules

/-- The oldest slot that satisfies a test (R350). -/
def oldestSlot (s : State) (p : PostSlot → Bool) (part i : Nat) : Prop := (s.slotsBy p).head? = some (part, i)

/-- The present epoch of the sequencer (R330). -/
def epoch (s : State) : Byte := s.podcfg.extractLsb' 56 8

/-- A slot takes a state, and what waits for it sees it (R350). -/
def slotTo (s : State) (part i : Nat) (st : SlotState) : State := (s.modSlot part i fun sl => { sl with st }).slotChanged part i

/-- A slot's collective has FAILED: the slot fails, what has come of its data goes, and the member reports it (R343, R347, R350). -/
def failedAt (s : State) (c : Nat) (tap : Word) (part i : Nat) : State :=
  slotTo ((s.dropData c tap).tellPrim (.done c tap false)) part i .failed

/-- The package is the primary, in no recovery (R330, R346). -/
def primary (s : State) : Prop :=
  s.inPod = true ∧ s.podcfg.toNat / 2 ^ 19 % 2 ^ 9 = s.pkg ∧ s.seq.recovering = none

end Sys2Proof.Rules

/-- R332, R341, R343, R345, R347, R349, R350, R354: a member of a collective. A message of the present epoch, and no other, acts on the oldest slot that
it names: TAP_NUMBER_RECEIVED numbers a POSTED one, CANCELLED_RECEIVED cancels one POSTED or NUMBERED, FAILED_RECEIVED fails one NUMBERED or STARTED,
and the member reports it; another member's failure does the same whatever its epoch, and is kept while the tap number is on its way. START_RECEIVED starts a NUMBERED one, and the engine reads its source when it may, and sends it in packets of at most
1,024 bytes. COLLECTIVE_DONE with the data of every other rank writes the destination and makes the slot DONE, reported; an access that pauses posts an
entry of kind 5, and one that ends fails the collective and the posting node. COLLECTIVE_PAUSE_RESUME lets it go on once its entry has been
resolved. COLLC_REPLY_ARRIVAL of the present epoch wakes the waiting split with its predicate. Poison or a shadow region under the rank table
ends the collective (R212, R218). -/
def Obligations.MemberEvents : Prop :=
  (∀ (c : Nat) (tag tap : Word) (s : State) (part i : Nat),
    (Rules.oldestSlot s (fun sl => sl.st == .posted && sl.comm == c && sl.tag == tag) part i →
      let s1 := s.modSlot part i fun sl => { sl with st := .numbered, tap := some tap }
      ((c, tap) ∉ s.collFailed → Machine.exec (.tapNumberReceived c tag tap (Rules.epoch s)) s = .next s1) ∧
      ((c, tap) ∈ s.collFailed → Machine.exec (.tapNumberReceived c tag tap (Rules.epoch s)) s
        = .next (Rules.failedAt { s1 with collFailed := s.collFailed.filter (· != (c, tap)) } c tap part i))) ∧
    (Rules.oldestSlot s (fun sl => (sl.st == .posted || sl.st == .numbered) && sl.comm == c && sl.tag == tag) part i →
      Machine.exec (.cancelledReceived c tag (Rules.epoch s)) s = .next (Rules.slotTo s part i .cancelled)) ∧
    (Rules.oldestSlot s (fun sl => (sl.st == .numbered || sl.st == .started) && sl.comm == c && sl.tap == some tap) part i →
      Machine.exec (.failedReceived c tap (Rules.epoch s)) s = .next (Rules.failedAt s c tap part i) ∧
      ∀ m, s.receive m (.peerFailed c tap) = Rules.failedAt s c tap part i) ∧
    (∀ m, s.slotsBy (fun sl => (sl.st == .numbered || sl.st == .started) && sl.comm == c && sl.tap == some tap) = [] →
      s.slotsBy (fun sl => sl.st == .posted && sl.comm == c) ≠ [] →
      ∃ t : State, s.receive m (.peerFailed c tap) = t ∧ (c, tap) ∈ t.collFailed ∧ t.parts = s.parts ∧ t.mem = s.mem) ∧
    (∀ m bs, (Rules.oldestSlot s (fun sl => sl.comm == c && (sl.st == .posted || ((sl.st == .numbered || sl.st == .started) &&
        sl.tap == some tap))) part i → s.receive m (.data c tap bs) = { s with collIn := addData s.collIn (c, tap, m) bs })) ∧
    (Rules.oldestSlot s (fun sl => sl.st == .numbered && sl.comm == c && sl.tap == some tap) part i →
      let s1 := s.modSlot part i fun sl => { sl with st := .started, pos := 0, src := none, part := [] }
      Machine.exec (.startReceived c tap (Rules.epoch s)) s = .next ((s1.dropOlder c fun t => serialLt t tap).collRead part i)) ∧
    (∀ e : Byte, e ≠ Rules.epoch s → ∀ ev, (ev = Instr.tapNumberReceived c tag tap e ∨ ev = .cancelledReceived c tag e ∨
      ev = .failedReceived c tap e ∨ ev = .startReceived c tap e ∨ ∃ ok, ev = .collcReplyArrival c tag ⟨ok, e⟩) → Machine.exec ev s = .next s)) ∧
  (∀ (s s2 : State) (part i : Nat) (bs : List Byte) (x : Nat × Nat),
    let sl := s.slot part i
    let n := (bufElems sl.key (s.commSize sl.comm)).1 * dtBytes sl.key.dt
    s.mayRun part i = true → sl.paused = false → sl.src = none → s.rankCause sl.comm = 0 → partsOf (sl.sbuf + sl.part.length) (n - sl.part.length) = [x] →
    s.agentPart (.coll part i) (s.collFrom part sl) (BitVec.ofNat 56 x.1) x.2 = (s2, .bytes bs) →
    let s3 := s2.modSlot part i fun sl => { sl with part := sl.part ++ bs }
    let all := (s3.slot part i).part
    s.collRead part i = (s3.modSlot part i fun sl => { sl with src := some all }).sendData (s3.slot part i).comm
      ((s3.slot part i).tap.getD 0) all) ∧
  (∀ (s : State) (part i : Nat), s.mayRun part i = true → (s.slot part i).paused = false → (s.slot part i).src = none →
    s.rankCause (s.slot part i).comm ≠ 0 → s.collRead part i = s.failColl part i (s.rankCause (s.slot part i).comm)) ∧
  (∀ (bs : List Byte), (pieces bs (bs.length / 1024 + 1)).flatten = bs ∧ ∀ p ∈ pieces bs (bs.length / 1024 + 1), p ≠ [] ∧ p.length ≤ 1024) ∧
  (∀ (c : Nat) (tap : Word) (peers : List (Nat × List Byte)) (s s1 : State) (part i : Nat) (src : List Byte) (bufs : List (List Byte)) (r : Wrote),
    Rules.oldestSlot s (fun sl => sl.st == .started && sl.comm == c && sl.tap == some tap) part i →
    let sl := s.slot part i
    let n := (bufElems sl.key (s.commSize c)).1 * dtBytes sl.key.dt
    sl.paused = false → sl.src = some src → bufs.length = s.commSize c →
    (∀ r, r < s.commSize c → bufs.getD r [] = (if r = s.commRank c then src else (peers.lookup r).getD []) ∧ (bufs.getD r []).length = n) →
    let bs := collResult sl.key bufs (s.commRank c)
    s.collWrite part i (s.collFrom part sl) sl.dbuf bs (partsOf sl.dbuf bs.length) = (s1, r) →
    (r = .done → Machine.exec (.collectiveDone c tap peers) s
      = .next (Rules.slotTo ((s1.dropData c tap).tellPrim (.done c tap true)) part i .done)) ∧
    (∀ k va, r = .pause k va → Machine.exec (.collectiveDone c tap peers) s = .next (s1.pauseColl part i k 5 va)) ∧
    (∀ k, r = .kill k → Machine.exec (.collectiveDone c tap peers) s = .next (s1.failColl part i k))) ∧
  (∀ (c : Nat) (tap : Word) (s : State) (part i : Nat),
    Rules.oldestSlot s (fun sl => sl.st == .started && sl.comm == c && sl.tap == some tap) part i →
    ((s.slot part i).paused = false ∨ s.faultOpen part (.coll i) = false) →
    Machine.exec (.collectivePauseResume c tap) s = .next ((s.modSlot part i fun sl => { sl with paused := false }).collRead part i)) ∧
  (∀ (c : Nat) (tag : Word) (ok : Bool) (s : State) (g : GRef) (slot : Nat) (r : List (GRef × Nat × Nat × Word)),
    s.cancelSleepers (fun a b => a == c && b == tag) = (g, slot, c, tag) :: r →
    Machine.exec (.collcReplyArrival c tag ⟨ok, Rules.epoch s⟩) s
      = .next (s.wake g slot { flag := ok, lo := LVec.splat 0, hi := LVec.zero })) ∧
  (∀ (k : CollKey) (bufs : List (List Byte)) (m : Nat),
    let n := dtBytes k.dt
    let cnt := k.cnt.toNat
    let at_ (b : List Byte) (e : Nat) : Nat := leNat ((b.drop (n * e)).take n)
    (k.op = 3 → collResult k bufs m = bufs.flatMap fun b => b.take (n * cnt)) ∧
    (k.op = 1 → k.dt = 2 → ∀ e, e < cnt → at_ (collResult k bufs m) e = (bufs.map fun b => at_ b e).sum % 2 ^ 32) ∧
    (k.op = 2 → k.dt = 2 → ∀ e, e < cnt → at_ (collResult k bufs m) e = (bufs.map fun b => at_ b (m * cnt + e)).sum % 2 ^ 32))

/-- R341 to R346: the tap sequencer, while the package is the primary. A post joins the oldest pair of its communicator and tag that the member has
not joined, and gets its tap number; else, if the window lets one open, a new pair with the next number; else it waits. A cancellation joins such a
pair and cancels it; one for a pair that its member has posted cancels it too, unless it has started or failed, and then the answer is false.
COLLECTIVE_START records a member's report, and starts the lowest collective not complete once every member has posted it with one key; with another
key it fails at every member. SEQUENCER_HEARTBEAT is sent every 10 µs, and a standby remembers when it heard one. SEQUENCER_FAILOVER of a standby that
has heard none for 100 µs advances the epoch and asks every member for its slots; what reaches it meanwhile waits; RECOVERY_REQUEST_ARRIVAL takes the
epoch, reports them, and asks again for open cancellations, which is the model's reading of R354 (log 28); with the last report RECOVERY_REPLY makes the standby the primary. SEQUENCER_LOST without
a standby ends every node that holds a slot with 0x144. A message that comes from a package acts as the event of its name. -/
def Obligations.SequencerEvents : Prop :=
  (∀ (m c : Nat) (tag : Word) (key : CollKey) (s : State), Rules.primary s →
    let tapped (u : State) (p : Pair) : State := (u.modPair c p.tap fun x => { x with posted := x.posted ++ [(m, key)] }).tell
      ((m, .tap c tag p.tap (Rules.epoch s)) :: if p.cancelled then [(m, .cancelled c tag (Rules.epoch s))] else [])
    (∀ p, s.seq.pairs.find? (fun x => x.comm == c && x.tag == tag && !x.joined m) = some p →
      Machine.exec (.tapPostArrival m c tag key) s = .next (tapped s p).settleSeq) ∧
    (s.seq.pairs.find? (fun x => x.comm == c && x.tag == tag && !x.joined m) = none →
      (∀ t, s.nextTap c = some t → Machine.exec (.tapPostArrival m c tag key) s
        = .next (tapped (s.modSeq fun q => { q with next := q.next.set c (t + 1), pairs := q.pairs ++ [{ comm := c, tag, tap := t }] })
            { comm := c, tag, tap := t }).settleSeq) ∧
      (s.nextTap c = none → Machine.exec (.tapPostArrival m c tag key) s
        = .next (s.modSeq fun q => { q with waiting := q.waiting ++ [(m, c, tag, some key)] })))) ∧
  (∀ (m c : Nat) (tag : Word) (key : CollKey) (rs : List DoneReport) (s : State), s.seq.recovering ≠ none →
    Machine.exec (.tapPostArrival m c tag key) s = .next (s.modSeq fun q => { q with waiting := q.waiting ++ [(m, c, tag, some key)] }) ∧
    Machine.exec (.tapCancelArrival m c tag) s = .next (s.modSeq fun q => { q with waiting := q.waiting ++ [(m, c, tag, none)] }) ∧
    Machine.exec (.collectiveStart c rs) s = .next (s.modSeq fun q => { q with late := q.late ++ rs.map fun r => (c, r) })) ∧
  (∀ (c : Nat) (s : State), s.nextTap c = (match s.oldestTap c with
    | none => some (s.seq.next.getD c 0)
    | some o => if (s.seq.next.getD c 0 - o).toNat < 2 ^ 20 then some (s.seq.next.getD c 0) else none)) ∧
  (∀ (m c : Nat) (tag : Word) (s : State), Rules.primary s →
    let e := Rules.epoch s
    let free := s.seq.pairs.find? fun x => x.comm == c && x.tag == tag && !x.joined m
    let mine := s.seq.pairs.find? fun x => x.comm == c && x.tag == tag && (x.posted.any (fun y => y.1 == m) && !x.complete (s.members c))
    let cancelled (u : State) (p : Pair) : State := (u.modPair p.comm p.tap fun x => { x with cancelled := true }).tell
      (p.posted.map fun x => (x.1, .cancelled p.comm p.tag e))
    let answer (u : State) (ok : Bool) : State := (u.tell [(m, .reply c tag ok e)]).settleSeq
    (∀ p, free = some p → p.cancelled = false → Machine.exec (.tapCancelArrival m c tag) s
      = .next (answer (cancelled (s.modPair c p.tap fun x => { x with cancels := x.cancels ++ [m] }) p) true)) ∧
    (∀ p, free = none → mine = some p → (p.started = true ∨ p.failed = true) →
      Machine.exec (.tapCancelArrival m c tag) s = .next (answer s false)) ∧
    (∀ p, free = none → mine = some p → p.started = false → p.failed = false → p.cancelled = false →
      Machine.exec (.tapCancelArrival m c tag) s = .next (answer (cancelled s p) true)) ∧
    (free = none → mine = none → s.nextTap c = none → Machine.exec (.tapCancelArrival m c tag) s
      = .next (s.modSeq fun q => { q with waiting := q.waiting ++ [(m, c, tag, none)] }))) ∧
  (∀ (c : Nat) (s : State) (p : Pair), Rules.primary s →
    let s1 := s.settleSeq
    s1.startable1 c = some p →
    ((∀ a ∈ p.posted, ∀ b ∈ p.posted, a.2 = b.2) → Machine.exec (.collectiveStart c []) s
      = .next ((s1.modPair c p.tap fun x => { x with started := true }).tell ((s1.members c).map fun m => (m, .start c p.tap s1.epochNow)))) ∧
    ((∃ a ∈ p.posted, ∃ b ∈ p.posted, a.2 ≠ b.2) → Machine.exec (.collectiveStart c []) s
      = .next ((s1.modPair c p.tap fun x => { x with failed := true }).tell ((s1.members c).map fun m => (m, .failed c p.tap s1.epochNow))))) ∧
  (∀ (c : Nat) (s : State) (r : DoneReport), Rules.primary s →
    ∃ u : State, Machine.exec (.collectiveStart c [r]) s = .next (u.settleSeq.startNext c) ∧ u.mem = s.mem ∧
      ∀ p' ∈ u.seq.pairs, p'.comm = c → p'.tap = r.tap → r.member ∈ p'.done ∧ (r.ok = false → p'.failed = true)) ∧
  (∀ (c : Nat) (s : State) (p : Pair), s.startable1 c = some p →
    p.comm = c ∧ s.oldestTap c = some p.tap ∧ p.started = false ∧ p.failed = false ∧
    ∀ m ∈ s.members c, ∃ x ∈ p.posted, x.1 = m) ∧
  (∀ s : State,
    (Rules.primary s → s.podcfg.getLsbD 37 = true → s.seq.lastBeat + 10000 ≤ s.ptp → Machine.exec (.sequencerHeartbeat false) s
      = .next ((s.modSeq fun q => { q with lastBeat := s.ptp }).sendMsg (s.podcfg.toNat / 2 ^ 28 % 2 ^ 9) .heartbeat)) ∧
    (s.inPod = true → s.podcfg.getLsbD 37 = true → s.podcfg.toNat / 2 ^ 28 % 2 ^ 9 = s.pkg →
      (Machine.exec (.sequencerHeartbeat true) s = .next (s.modSeq fun q => { q with lastHeard := s.ptp })) ∧
      (s.seq.recovering = none → s.seq.lastHeard + 100000 ≤ s.ptp → s.podMembers ≠ [] →
        ∃ u : State, Machine.exec .sequencerFailover s = .next (u.tell (s.podMembers.map fun m => (m, .recovery (Rules.epoch s + 1)))) ∧
          Rules.epoch u = Rules.epoch s + 1 ∧ u.seq.recovering = some s.podMembers ∧ u.seq.pairs = [] ∧ u.mem = s.mem))) ∧
  (∀ (e : Byte) (m : Nat) (s : State), s.inPod = true →
    (0 ≤ (e - Rules.epoch s).toInt → ∃ u : State, Machine.exec (.recoveryRequestArrival e m) s = .next (u.openCancels.foldl State.tellPrim
        (u.tellPrim (.report ((s.slotsBy fun sl => sl.st != .free).map fun x => slotReport (s.slot x.1 x.2))))) ∧ Rules.epoch u = e ∧
      u.podcfg.toNat / 2 ^ 19 % 2 ^ 9 = m % 2 ^ 9 ∧ u.podcfg.getLsbD 37 = false ∧ u.mem = s.mem ∧ u.parts = s.parts ∧ u.teams = s.teams) ∧
    ((e - Rules.epoch s).toInt < 0 → Machine.exec (.recoveryRequestArrival e m) s = .next s)) ∧
  (∀ (m : Nat) (slots : List SlotReport) (s : State) (ms : List Nat), s.seq.recovering = some ms → m ∈ ms →
    ((∃ k ∈ ms, k ≠ m) → Machine.exec (.recoveryReply m slots) s = .next
      (s.modSeq fun q => { q with reports := q.reports ++ [(m, slots)], recovering := some (ms.filter (· != m)) })) ∧
    ((∀ k ∈ ms, k = m) → ∃ t : State, Machine.exec (.recoveryReply m slots) s = .next t ∧ t.seq.recovering = none ∧ t.seq.reports = [] ∧
      t.podcfg.toNat / 2 ^ 19 % 2 ^ 9 = s.pkg % 2 ^ 9 ∧ t.podcfg.getLsbD 37 = false ∧ t.mem = s.mem)) ∧
  (∀ (s : State) (c : Nat) (h : Word),
    let rs := s.seq.reportsOf c
    (∀ r ∈ rs, r.2.tap ≠ none ∨ r.2.state ≠ .posted) → highest (tapsUp (rs.filterMap fun r => r.2.tap)) = some h →
    (s.recoverComm c).seq.next.getD c 0 = h + 1 ∧ ∀ r ∈ rs, ∀ t, r.2.tap = some t → ∃ p ∈ (s.recoverComm c).seq.pairs, p.comm = c ∧ p.tap = t) ∧
  (∀ s : State, s.inPod = true → (s.podcfg.getLsbD 37 = false ∨ s.seq.recovering ≠ none) →
    Machine.exec .sequencerLost s = .next
      (((s.slotsBy fun sl => sl.st != .free).map fun x => (s.slot x.1 x.2).node).eraseDups.foldl (fun u n => u.killNode n 0x144) s)) ∧
  (∀ (s : State) (m c : Nat) (tag tap : Word) (k : CollKey) (e : Byte) (ok : Bool) (slots : List SlotReport),
    Machine.exec (.tapPostArrival m c tag k) s = .next (s.receive m (.post c tag k)) ∧
    Machine.exec (.tapCancelArrival m c tag) s = .next (s.receive m (.cancel c tag)) ∧
    Machine.exec (.tapNumberReceived c tag tap e) s = .next (s.receive m (.tap c tag tap e)) ∧
    Machine.exec (.startReceived c tap e) s = .next (s.receive m (.start c tap e)) ∧
    Machine.exec (.failedReceived c tap e) s = .next (s.receive m (.failed c tap e)) ∧
    Machine.exec (.cancelledReceived c tag e) s = .next (s.receive m (.cancelled c tag e)) ∧
    Machine.exec (.collcReplyArrival c tag ⟨ok, e⟩) s = .next (s.receive m (.reply c tag ok e)) ∧
    Machine.exec (.collectiveStart c [{ member := m, tap, ok }]) s = .next (s.receive m (.done c tap ok)) ∧
    Machine.exec (.sequencerHeartbeat true) s = .next (s.receive m .heartbeat) ∧
    Machine.exec (.recoveryRequestArrival e m) s = .next (s.receive m (.recovery e)) ∧
    Machine.exec (.recoveryReply m slots) s = .next (s.receive m (.report slots)))

/-! ### Frames -/

/-- R31, R32, R40, R42: what an instruction of a port, or of the cross-lane unit (opcodes 0xA0 to 0xA5), changes, when it issues and passes its checks: its group, whose registers and predicates keep their
values until the result lands, as every result does; the results in flight, to which only its own are added, later and in its executing lanes, to its
destination, a latch or a predicate that it names, and of which the upper places go when the run ends; the
latches and the operand cache at a run end alone; its PC. No byte of memory, no line of a cache or slice, no scratch byte, no other group,
hoop, barrier, matrix unit, queue, node or partition changes, and of its group neither lanes, joins, scoreboard, reservation nor trap state. -/
def Obligations.PortFrame : Prop :=
  ∀ (i : Instr) (op : Nat) (s s' t : State) (x : Ctx), opOf i = some op → (op ≤ 0x8A ∨ (0xA0 ≤ op ∧ op ≤ 0xA5)) →
    Issues i s x s' → Machine.exec i s = .next t →
    Rules.sameHomes s' t ∧
    t.net = s'.net ∧ t.outst = s'.outst ∧ t.parts = s'.parts ∧ t.nodes = s'.nodes ∧ t.clusters = s'.clusters ∧ t.fly = s'.fly ∧
    t.pkts = s'.pkts ∧ t.dies = s'.dies ∧ t.fabOut = s'.fabOut ∧ t.clk = s'.clk ∧
    (∀ c, (t.core c).scratch = (s'.core c).scratch ∧ (t.core c).l1 = (s'.core c).l1 ∧ (t.core c).mx = (s'.core c).mx ∧
      (t.core c).cq = (s'.core c).cq ∧ (t.core c).wmask = (s'.core c).wmask) ∧
    (∀ r, r ≠ x.ref → t.group? r = s'.group? r) ∧
    (∀ n tm, s'.team? n = some tm → ∃ tm', t.team? n = some tm' ∧ tm'.hoops = tm.hoops ∧ tm'.bart = tm.bart ∧ tm'.barr = tm.barr ∧
      tm'.place = tm.place) ∧
    (∀ g, s'.group? x.ref = some g → ∃ g', t.group? x.ref = some g' ∧ g'.v = g.v ∧ g'.s = g.s ∧ g'.p = g.p ∧ g'.sb = g.sb ∧
      g'.rsv = g.rsv ∧ g'.trap = g.trap ∧ g'.live = g.live ∧ g'.joins = g.joins ∧ g'.hold = g.hold ∧ g'.place = g.place ∧
      (∀ w ∈ g.pend, w ∈ g'.pend ∨ (x.f.h.y = true ∧ w.loc.isUpper = true)) ∧
      (∀ w ∈ g'.pend, w ∈ g.pend ∨ (x.clk < w.at_ ∧ w.slot = x.slot ∧ w.lanes = x.ex ∧
        (w.loc ∈ destLocs x.sh x.f ∨ w.loc = .la ∨ w.loc = .lb ∨ ∃ k ∈ (infoOf i).pdst, w.loc = .p k))) ∧
      (x.f.h.y = false → g'.la = g.la ∧ g'.lb = g.lb ∧ g'.oc = g.oc ∧ g'.cur = g.cur))

end Statements
end

