-- ==== Sys2Proof/Laws/Assoc.lean ====
section
/-!
SUPPORT. Sparse tables and byte memory: a read after a write, and the canonical form of memory, which every memory operation
keeps.
-/

namespace Sys2Proof.Machine

/-! ### Sparse tables -/

theorem NMap.get?_set {α : Type} (m : NMap α) (k j : Nat) (x : α) :
    NMap.get? (NMap.set m k x) j = if j = k then some x else NMap.get? m j := by
  induction m with
  | nil => simp only [NMap.set, NMap.get?, List.lookup]; split <;> simp_all
  | cons e r ih =>
    obtain ⟨i, y⟩ := e
    simp only [NMap.get?, NMap.set] at ih ⊢
    split
    · simp only [List.lookup]; split <;> simp_all
    · split
      · subst_vars; simp only [List.lookup]; split <;> simp_all
      · simp only [List.lookup] at ih ⊢
        by_cases h : j = i
        · have hk : j ≠ k := by omega
          simp [h]; simp_all
        · have hb : (j == i) = false := by simpa using h
          rw [hb]; exact ih

@[simp] theorem NMap.get?_set_self {α : Type} (m : NMap α) (k : Nat) (x : α) : NMap.get? (NMap.set m k x) k = some x := by
  rw [NMap.get?_set, if_pos rfl]

theorem NMap.get?_set_ne {α : Type} (m : NMap α) {k j : Nat} (x : α) (h : j ≠ k) :
    NMap.get? (NMap.set m k x) j = NMap.get? m j := by rw [NMap.get?_set, if_neg h]

theorem NMap.getD_eq {α : Type} (m : NMap α) (k : Nat) (d : α) : NMap.getD m k d = (NMap.get? m k).getD d := rfl

@[simp] theorem NMap.getD_set_self {α : Type} (m : NMap α) (k : Nat) (x d : α) : NMap.getD (NMap.set m k x) k d = x := by
  simp [NMap.getD_eq]

theorem NMap.getD_set_ne {α : Type} (m : NMap α) {k j : Nat} (x d : α) (h : j ≠ k) :
    NMap.getD (NMap.set m k x) j d = NMap.getD m j d := by simp [NMap.getD_eq, NMap.get?_set_ne m x h]

@[simp] theorem NMap.getD_update_self {α : Type} (m : NMap α) (k : Nat) (d : α) (f : α → α) :
    NMap.getD (NMap.update m k d f) k d = f (NMap.getD m k d) := by simp [NMap.update]

theorem NMap.getD_update_ne {α : Type} (m : NMap α) {k j : Nat} (d : α) (f : α → α) (h : j ≠ k) :
    NMap.getD (NMap.update m k d f) j d = NMap.getD m j d := by simp [NMap.update, NMap.getD_set_ne m _ d h]

theorem NMap.get?_modify {α : Type} (m : NMap α) (k j : Nat) (f : α → α) :
    NMap.get? (NMap.modify m k f) j = if j = k then (NMap.get? m j).map f else NMap.get? m j := by
  induction m with
  | nil => simp [NMap.modify, NMap.get?]
  | cons e r ih =>
    obtain ⟨i, y⟩ := e
    simp only [NMap.get?, NMap.modify, List.map_cons] at ih ⊢
    by_cases hi : i = k <;> by_cases hj : j = i
    · subst hi; subst hj; simp [List.lookup]
    · have hb : (j == i) = false := by simpa using hj
      simp only [List.lookup, hi, if_true] at ih ⊢
      subst hi; simp only [hb]; exact ih
    · subst hj; simp [List.lookup, hi]
    · have hb : (j == i) = false := by simpa using hj
      simp only [hi, if_false, List.lookup, hb]; exact ih

@[simp] theorem NMap.get?_modify_self {α : Type} (m : NMap α) (k : Nat) (f : α → α) :
    NMap.get? (NMap.modify m k f) k = (NMap.get? m k).map f := by rw [NMap.get?_modify, if_pos rfl]

theorem NMap.get?_modify_ne {α : Type} (m : NMap α) {k j : Nat} (f : α → α) (h : j ≠ k) :
    NMap.get? (NMap.modify m k f) j = NMap.get? m j := by rw [NMap.get?_modify, if_neg h]

/-! ### Byte memory -/

/-- A read after a byte is written. -/
theorem Mem.read_write (m : Mem) (a j : Nat) (b : Byte) (h : Memory.wf m = true) :
    (m.write a b).read j = if j = a then b else m.read j := by
  induction m with
  | nil =>
    simp only [Mem.write, Mem.read]
    split
    · rename_i hb; split <;> simp_all [List.lookup]
    · simp only [List.lookup]; split <;> simp_all
  | cons e r ih =>
    obtain ⟨i, y⟩ := e
    have hr : Memory.wf r = true := by simp only [Memory.wf, Bool.and_eq_true] at h; exact h.2
    have low : ∀ (k : Nat), k ≤ i → List.lookup k r = none := by
      clear ih
      intro k hk
      have : ∀ (q : Mem) (n : Nat), Memory.wf q = true →
          (match q with | [] => true | (a', _) :: _ => decide (n < a')) = true → ∀ k, k ≤ n → List.lookup k q = none := by
        intro q
        induction q with
        | nil => intros; rfl
        | cons c q ih =>
          obtain ⟨p, z⟩ := c
          intro n hq hn k hk
          simp only [decide_eq_true_eq] at hn
          have hne : (k == p) = false := by simp; omega
          simp only [List.lookup, hne]
          simp only [Memory.wf, Bool.and_eq_true] at hq
          exact ih p hq.2 hq.1.2 k (by omega)
      simp only [Memory.wf, Bool.and_eq_true] at h
      exact this r i hr h.1.2 k hk
    simp only [Mem.write, Mem.read] at ih ⊢
    split
    · rename_i hlt
      split
      · rename_i hb
        by_cases hj : j = a
        · subst hj
          have hne : (j == i) = false := by simp; omega
          rw [List.lookup, hne, low j (by omega), if_pos rfl, hb]; rfl
        · simp [hj]
      · by_cases hj : j = a
        · simp [List.lookup, hj]
        · have hne : (j == a) = false := by simpa using hj
          simp [List.lookup, hne, hj]
    · split
      · rename_i heq
        subst heq
        split
        · rename_i hb
          by_cases hj : j = a
          · subst hj; rw [low j (Nat.le_refl j), if_pos rfl, hb]; rfl
          · have hne : (j == a) = false := by simpa using hj
            simp [List.lookup, hne, hj]
        · by_cases hj : j = a
          · simp [List.lookup, hj]
          · have hne : (j == a) = false := by simpa using hj
            simp [List.lookup, hne, hj]
      · by_cases hji : j = i
        · subst hji
          have : j ≠ a := by omega
          simp [List.lookup, this]
        · have hne : (j == i) = false := by simpa using hji
          simp only [List.lookup, hne]
          exact ih hr

/-- The first address of a memory, as a bound from below. -/
def Mem.above (n : Nat) (m : Mem) : Bool := match m with | [] => true | (a, _) :: _ => decide (n < a)

theorem Memory.wf_cons (a : Nat) (b : Byte) (r : Mem) :
    Memory.wf ((a, b) :: r) = true ↔ b ≠ unlisted ∧ Mem.above a r = true ∧ Memory.wf r = true := by
  cases r <;> simp [Memory.wf, Mem.above, and_assoc]

theorem Mem.above_write (m : Mem) (n a : Nat) (b : Byte) (hn : n < a) (h : Mem.above n m = true) :
    Memory.wf m = true → Mem.above n (m.write a b) = true := by
  intro hw
  cases m with
  | nil => simp only [Mem.write]; split <;> simp_all [Mem.above]
  | cons e r =>
    obtain ⟨i, y⟩ := e
    rw [Memory.wf_cons] at hw
    simp only [Mem.write]
    simp only [Mem.above, decide_eq_true_eq] at h
    split
    · split <;> simp_all [Mem.above]
    · split
      · split
        · rename_i heq _
          cases r with
          | nil => rfl
          | cons c r => simp only [Mem.above, decide_eq_true_eq] at hw ⊢; omega
        · simp_all [Mem.above]
      · simp_all [Mem.above]

/-- Writing a byte keeps the canonical form. -/
theorem Memory.wf_write (m : Mem) (a : Nat) (b : Byte) (h : Memory.wf m = true) : Memory.wf (m.write a b) = true := by
  induction m with
  | nil => simp only [Mem.write]; split <;> simp_all [Memory.wf]
  | cons e r ih =>
    obtain ⟨i, y⟩ := e
    have hh := (Memory.wf_cons i y r).1 h
    simp only [Mem.write]
    split
    · split
      · exact h
      · rw [Memory.wf_cons]; exact ⟨by assumption, by simpa [Mem.above], h⟩
    · split
      · rename_i heq
        split
        · exact hh.2.2
        · rw [Memory.wf_cons]; subst heq; exact ⟨by assumption, hh.2.1, hh.2.2⟩
      · rw [Memory.wf_cons]
        exact ⟨hh.1, Mem.above_write r i a b (by omega) hh.2.1 hh.2.2, ih hh.2.2⟩

theorem Memory.wf_writeN (n : Nat) : ∀ (m : Mem) (a x : Nat), Memory.wf m = true → Memory.wf (m.writeN a n x) = true := by
  induction n with
  | zero => intro m a x h; exact h
  | succ n ih => intro m a x h; exact ih _ _ _ (Memory.wf_write m a _ h)

theorem Memory.wf_writeBytes (bs : List Byte) : ∀ (m : Mem) (a : Nat), Memory.wf m = true → Memory.wf (m.writeBytes a bs) = true := by
  induction bs with
  | nil => intro m a h; exact h
  | cons b r ih => intro m a h; exact ih _ _ (Memory.wf_write m a b h)

/-- Leaving entries out keeps the canonical form. -/
theorem Memory.wf_filter (m : Mem) (p : Nat × Byte → Bool) (h : Memory.wf m = true) : Memory.wf (m.filter p) = true := by
  induction m with
  | nil => rfl
  | cons e r ih =>
    obtain ⟨i, y⟩ := e
    have hh := (Memory.wf_cons i y r).1 h
    simp only [List.filter_cons]
    split
    · rw [Memory.wf_cons]
      refine ⟨hh.1, ?_, ih hh.2.2⟩
      have : ∀ (q : Mem) (n : Nat), Memory.wf q = true → Mem.above n q = true → Mem.above n (q.filter p) = true := by
        intro q
        induction q with
        | nil => intros; rfl
        | cons c q ih =>
          obtain ⟨k, z⟩ := c
          intro n hq hn
          rw [Memory.wf_cons] at hq
          simp only [Mem.above, decide_eq_true_eq] at hn
          simp only [List.filter_cons]
          split
          · simpa [Mem.above] using hn
          · refine ih n hq.2.2 ?_
            cases q with
            | nil => rfl
            | cons d q => simp only [Mem.above, decide_eq_true_eq] at hq ⊢; omega
      exact this r i hh.2.2 hh.2.1
    · exact ih hh.2.2

theorem Memory.wf_slice (m : Mem) (a n : Nat) (h : Memory.wf m = true) : Memory.wf (m.slice a n) = true := Memory.wf_filter m _ h

theorem Memory.wf_clear (m : Mem) (a n : Nat) (h : Memory.wf m = true) : Memory.wf (m.clear a n) = true := Memory.wf_filter m _ h

theorem Memory.wf_foldl {α : Type} (l : List α) (f : Mem → α → Mem) (hf : ∀ m x, Memory.wf m = true → Memory.wf (f m x) = true) :
    ∀ m : Mem, Memory.wf m = true → Memory.wf (l.foldl f m) = true := by
  induction l with
  | nil => intro m h; exact h
  | cons x r ih => intro m h; exact ih _ (hf m x h)

theorem Memory.wf_writeLine (m : Mem) (line : Nat) (d : BitVec 1024) (mask : BitVec 256) (h : Memory.wf m = true) :
    Memory.wf (m.writeLine line d mask) = true := by
  refine Memory.wf_foldl _ _ ?_ m h
  intro m i hm
  split
  · exact Memory.wf_write m _ _ hm
  · exact hm

theorem Mem.read_clear (m : Mem) (a n j : Nat) : (m.clear a n).read j = if a ≤ j ∧ j < a + n then unlisted else m.read j := by
  induction m with
  | nil => simp [Mem.clear, Mem.read, List.lookup]
  | cons e r ih =>
    obtain ⟨i, y⟩ := e
    simp only [Mem.clear, Mem.read, List.filter_cons] at ih ⊢
    by_cases hj : j = i
    · subst hj
      by_cases hin : a ≤ j ∧ j < a + n
      · simp only [hin, and_self, decide_true, Bool.and_self, Bool.not_true, Bool.false_eq_true, if_false, if_true] at ih ⊢
        exact ih
      · have : (!(decide (a ≤ j) && decide (j < a + n))) = true := by
          simp only [Bool.not_eq_true', Bool.and_eq_false_iff, decide_eq_false_iff_not]; omega
        simp [this, List.lookup, hin]
    · have hb : (j == i) = false := by simpa using hj
      split
      · simp only [List.lookup, hb]; exact ih
      · simp only [List.lookup, hb]; exact ih

/-- The memory of a state after reset is canonical. -/
theorem State.reset_mem_wf : Memory.wf State.reset.mem = true := rfl

end Sys2Proof.Machine
end

