-- ==== Sys2Proof/Laws/Issue.lean ====
section
/-!
SUPPORT. The issue of an instruction: what `runGroup` answers when the instruction's checks pass, one lemma for each way in
which a meaning ends; and that it always answers a next state for a group on a core.
-/

namespace Sys2Proof.Machine

open Safety

/-- The registers that an instruction names pass their checks. -/
theorem regCause_none {nf : Info} {x : Ctx} {s : State} (h : regsClear nf x s = true) : x.regCause nf s = none := by
  simp only [regsClear, Bool.and_eq_true, Option.isNone_iff_eq_none, Bool.not_eq_true'] at h
  obtain ⟨⟨h1, h2⟩, h3⟩ := h
  simp [Ctx.regCause, h1, h2, h3]

/-- What passing the checks means: registers clear, and the words of a constant-window operand, if there is one, at hand. -/
theorem clear_cases {nf : Info} {spec : BitVec 23} {x x' : Ctx} {s s' : State} (h : clearOf nf spec x s = some (x', s')) :
    (x.f.c ≠ .cwin ∧ regsClear nf x s = true ∧ x' = x ∧ s' = s) ∨
    (x.f.c = .cwin ∧ (windowOf spec).2 + constRegs x.sh ≤ (s.window x.team (windowOf spec).1).2 ∧ regsClear nf x s' = true ∧
      ∃ v, x.constOp s spec (constRegs x.sh) = (s', .words v) ∧ x' = { x with cw := v }) := by
  unfold clearOf at h
  split at h
  · rename_i h0
    split at h
    · cases h
    · rename_i h1
      split at h
      · rename_i s1 v e
        split at h
        · rename_i h2; cases h
          exact .inr ⟨by simpa using h0, by omega, h2, v, e, rfl⟩
        · cases h
      · cases h
  · rename_i h0
    split at h
    · rename_i h1; cases h
      exact .inl ⟨by simpa using h0, h1, rfl, rfl⟩
    · cases h

/-- The checks hand a meaning the context and the state that `clearOf` names. -/
theorem checked_of_clear {nf : Info} {spec : BitVec 23} {x x' : Ctx} {s s' : State} (body : Ctx → State → Res)
    (h : clearOf nf spec x s = some (x', s')) : x.checked nf spec s body = body x' s' := by
  obtain ⟨h0, h1, rfl, rfl⟩ | ⟨h0, h1, h2, v, e, rfl⟩ := clear_cases h
  · simp [Ctx.checked, h0, regCause_none h1]
  · have h3 : ¬ (s.window x.team (windowOf spec).1).2 < (windowOf spec).2 + constRegs x.sh := by omega
    simp [Ctx.checked, h0, h3, e, regCause_none h2]

/-- The context keeps what the issue fixes when constant words are read. -/
theorem clear_ctx {nf : Info} {spec : BitVec 23} {x x' : Ctx} {s s' : State} (h : clearOf nf spec x s = some (x', s')) :
    ∃ d, x' = { x with cw := d } := by
  obtain ⟨_, _, rfl, _⟩ | ⟨_, _, _, v, _, rfl⟩ := clear_cases h
  · exact ⟨x'.cw, rfl⟩
  · exact ⟨v, rfl⟩

theorem issues_from {i : Instr} {s s' : State} {x : Ctx} (h : Issues i s x s') : ∃ s0, IssuesFrom i s s0 x s' := by
  unfold Issues at h
  cases e : issueOf i s with
  | none => rw [e] at h; cases h
  | some p => rw [e] at h; exact ⟨p.2, p.1, e, h⟩

theorem issuesFrom_issues {i : Instr} {s s0 s' : State} {x : Ctx} (h : IssuesFrom i s s0 x s') : Issues i s x s' := by
  obtain ⟨x0, e, hc⟩ := h
  unfold Issues; rw [e]; exact hc

/-- What a context holds: the group that `cur` names, its team and core, and the fields of the instruction. -/
theorem issueOf_spec {i : Instr} {s s0 : State} {x : Ctx} (h : issueOf i s = some (x, s0)) :
    s.cur = some x.ref ∧ fieldsOf i = some x.f ∧ shapeOf i = some x.sh ∧ x.lit = (specOf i).2 ∧ x.clk = s.clk ∧
    s.team? x.ref.team = some x.team ∧ x.team.core? = some x.core ∧
    (∃ g, x.team.group? x.ref.grp = some g ∧ x.g = g.landDue s.clk) ∧
    x.act = (x.g.split x.g.cur).mask ∧ x.ex = x.act &&& guardMask x.g x.f.h := by
  unfold issueOf at h
  split at h
  · cases h
  · rename_i ref hc
    split at h
    · rename_i t sh f ht hsh hf
      split at h
      · rename_i c g hcore hg
        cases h
        exact ⟨hc, hf, hsh, rfl, rfl, ht, hcore, ⟨g, hg, rfl⟩, rfl, rfl⟩
      · cases h
    · cases h

theorem issues_spec {i : Instr} {s s' : State} {x : Ctx} (h : Issues i s x s') :
    s.cur = some x.ref ∧ fieldsOf i = some x.f ∧ shapeOf i = some x.sh ∧ x.lit = (specOf i).2 ∧ x.clk = s.clk ∧
    s.team? x.ref.team = some x.team ∧ x.team.core? = some x.core ∧
    (∃ g, x.team.group? x.ref.grp = some g ∧ x.g = g.landDue s.clk) ∧
    x.act = (x.g.split x.g.cur).mask ∧ x.ex = x.act &&& guardMask x.g x.f.h := by
  obtain ⟨s0, x0, e, hc⟩ := issues_from h
  obtain ⟨d, rfl⟩ := clear_ctx hc
  have k := issueOf_spec e
  exact k

theorem runGroup_done {i : Instr} {s s' t : State} {x : Ctx} {nf : Info} {body : Ctx → State → Res} (h : Issues i s x s')
    (hn : nf = infoOf i) (hb : body x s' = .done t) : runGroup i nf body s = .next (passed i x t) := by
  obtain ⟨s0, x0, e, hc⟩ := issues_from h
  obtain ⟨d, rfl⟩ := clear_ctx hc
  subst hn
  unfold runGroup; rw [e]; simp only [issueAs]
  rw [show (s0.modGroup x0.ref fun g => (g.killDead x0.act x0.sh x0.f).progressed) = deadGone x0 s0 from rfl, checked_of_clear body hc, hb]
  rfl

theorem runGroup_jump {i : Instr} {s s' t : State} {x : Ctx} {nf : Info} {body : Ctx → State → Res} {ended : Bool}
    (h : Issues i s x s') (hn : nf = infoOf i) (hb : body x s' = .jump t ended) :
    runGroup i nf body s = .next (jumped x ended t) := by
  obtain ⟨s0, x0, e, hc⟩ := issues_from h
  obtain ⟨d, rfl⟩ := clear_ctx hc
  subst hn
  unfold runGroup; rw [e]; simp only [issueAs]
  rw [show (s0.modGroup x0.ref fun g => (g.killDead x0.act x0.sh x0.f).progressed) = deadGone x0 s0 from rfl, checked_of_clear body hc, hb]
  rfl

theorem runGroup_wait {i : Instr} {s s' t : State} {x : Ctx} {nf : Info} {body : Ctx → State → Res} {w : Wait}
    (h : Issues i s x s') (hn : nf = infoOf i) (hb : body x s' = .wait t w) :
    runGroup i nf body s = .next (slept x w t) := by
  obtain ⟨s0, x0, e, hc⟩ := issues_from h
  obtain ⟨d, rfl⟩ := clear_ctx hc
  subst hn
  unfold runGroup; rw [e]; simp only [issueAs]
  rw [show (s0.modGroup x0.ref fun g => (g.killDead x0.act x0.sh x0.f).progressed) = deadGone x0 s0 from rfl, checked_of_clear body hc, hb]
  rfl

theorem runGroup_cause {i : Instr} {s s0 s' : State} {x : Ctx} {nf : Info} {body : Ctx → State → Res} {code : Nat} {einfo : DWord}
    (h : IssuesFrom i s s0 x s') (hn : nf = infoOf i) (hb : body x s' = .cause code einfo) :
    runGroup i nf body s = .next (raised x code einfo s0) := by
  obtain ⟨x0, e, hc⟩ := h
  obtain ⟨d, rfl⟩ := clear_ctx hc
  subst hn
  unfold runGroup; rw [e]; simp only [issueAs]
  rw [show (s0.modGroup x0.ref fun g => (g.killDead x0.act x0.sh x0.f).progressed) = deadGone x0 s0 from rfl, checked_of_clear body hc, hb]
  rfl

/-- Whatever a meaning answers, a group on a core goes on to a next state; without one, the fault is `noIssuer`. -/
theorem runGroup_total (i : Instr) (nf : Info) (body : Ctx → State → Res) (s : State) :
    runGroup i nf body s = .fault .noIssuer ∨ ∃ t, runGroup i nf body s = .next t := by
  unfold runGroup
  split
  · exact .inl rfl
  · exact .inr ⟨_, rfl⟩

end Sys2Proof.Machine
end

