-- ==== Sys2Proof/Laws/Lanes.lean ====
section
/-!
SUPPORT. Lane vectors and masks: a lane of a vector by lanes, a bit of a mask by a test.
-/

namespace Sys2Proof.Machine

@[simp] theorem LVec.at_tab (f : Nat → Word) (l : Nat) : LVec.at (LVec.tab f) l = if l < 32 then f l else 0 := by
  unfold LVec.at LVec.tab
  split
  · rename_i h; simp [Vector.getD, h]
  · rename_i h; simp [Vector.getD, h]

@[simp] theorem LVec.at_splat (w : Word) (l : Nat) : LVec.at (LVec.splat w) l = if l < 32 then w else 0 := by
  unfold LVec.at LVec.splat
  split
  · rename_i h; simp [Vector.getD, h]
  · rename_i h; simp [Vector.getD, h]

@[simp] theorem LVec.at_zero (l : Nat) : LVec.at LVec.zero l = 0 := by
  unfold LVec.at LVec.zero
  by_cases h : l < 32 <;> simp [Vector.getD, h]

theorem LVec.tab_congr {f g : Nat → Word} (h : ∀ l, l < 32 → f l = g l) : LVec.tab f = LVec.tab g := by
  unfold LVec.tab
  apply Vector.ext
  intro i hi
  simp [h i hi]

theorem LVec.tab_at (v : LVec) : LVec.tab (LVec.at v) = v := by
  unfold LVec.tab LVec.at
  apply Vector.ext
  intro i hi
  simp [Vector.getD]

theorem LVec.merge_at (a b : LVec) (m : Mask) (l : Nat) (hl : l < 32) :
    LVec.at (LVec.merge a b m) l = if m.getLsbD l then LVec.at b l else LVec.at a l := by
  simp [LVec.merge, hl]

/-- The sum of the powers of two of a list of distinct bits, by a bit of it. -/
theorem sum_pow_testBit (f : Nat → Bool) (n : Nat) : ∀ i,
    (((List.range n).foldl (fun acc l => acc + if f l then 2 ^ l else 0) 0).testBit i = (decide (i < n) && f i)) ∧
    (List.range n).foldl (fun acc l => acc + if f l then 2 ^ l else 0) 0 < 2 ^ n := by
  induction n with
  | zero => intro i; simp
  | succ n ih =>
    intro i
    rw [List.range_succ, List.foldl_append]
    have hlt := (ih i).2
    have hb := (ih i).1
    simp only [List.foldl_cons, List.foldl_nil]
    cases hf : f n
    · simp only [Bool.false_eq_true, if_false, Nat.add_zero]
      refine ⟨?_, by omega⟩
      rw [hb]
      by_cases hi : i = n
      · subst hi; simp [hf]
      · have : decide (i < n + 1) = decide (i < n) := by simp only [decide_eq_decide]; omega
        rw [this]
    · simp only [if_true]
      refine ⟨?_, by rw [Nat.pow_succ]; omega⟩
      rw [Nat.add_comm, ← Nat.mul_one (2 ^ n), Nat.two_pow_add_eq_or_of_lt hlt, Nat.testBit_or, Nat.mul_one, hb]
      by_cases hi : i = n
      · subst hi; simp [hf]
      · have : decide (i < n + 1) = decide (i < n) := by simp only [decide_eq_decide]; omega
        rw [this, Nat.testBit_two_pow]
        have : (decide (n = i)) = false := by simpa using fun h => hi h.symm
        rw [this, Bool.false_or]

@[simp] theorem maskOf_getLsbD (f : Nat → Bool) (i : Nat) : (maskOf f).getLsbD i = (decide (i < 32) && f i) := by
  unfold maskOf lanes32
  rw [BitVec.getLsbD_ofNat, (sum_pow_testBit f 32 i).1]
  cases decide (i < 32) <;> simp

end Sys2Proof.Machine
end

