-- ==== Sys2Proof/Laws/PerInstr.lean ====
section
/-!
SUPPORT. Statements made of every instruction as syntax, one lemma for each constructor of `Instr`.
`Assigned`: an instruction with an opcode has one that the opcode map assigns (R61); an event has none.
-/

namespace Sys2Proof.Laws.Assigned

open Machine

/-- The opcode of an instruction, if it has one, has a row of the opcode map. -/
def Statement (i : Instr) : Prop := ∀ op, opOf i = some op → (opRow op).isSome = true

theorem assigned {i : Instr} {op : Nat} (h : opOf i = some op) (hr : (opRow op).isSome = true) : Statement i := by
  intro op' h'
  rw [h] at h'
  cases h'
  exact hr

theorem unassigned {i : Instr} (h : opOf i = none) : Statement i := by
  intro op h'
  rw [h] at h'
  cases h'

theorem iadd (w : Base) : Statement (.iadd w) := assigned rfl rfl
theorem iaddExt (w : ExtA) : Statement (.iaddExt w) := assigned rfl rfl
theorem isub (w : Base) : Statement (.isub w) := assigned rfl rfl
theorem isubExt (w : ExtA) : Statement (.isubExt w) := assigned rfl rfl
theorem imul (w : Base) : Statement (.imul w) := assigned rfl rfl
theorem imulExt (w : ExtA) : Statement (.imulExt w) := assigned rfl rfl
theorem imulhi (w : Base) : Statement (.imulhi w) := assigned rfl rfl
theorem imulhiExt (w : ExtA) : Statement (.imulhiExt w) := assigned rfl rfl
theorem imad (w : ExtA) : Statement (.imad w) := assigned rfl rfl
theorem imadw (w : ExtA) : Statement (.imadw w) := assigned rfl rfl
theorem iabs (w : Base) : Statement (.iabs w) := assigned rfl rfl
theorem iabsExt (w : ExtA) : Statement (.iabsExt w) := assigned rfl rfl
theorem imin (w : Base) : Statement (.imin w) := assigned rfl rfl
theorem iminExt (w : ExtA) : Statement (.iminExt w) := assigned rfl rfl
theorem imax (w : Base) : Statement (.imax w) := assigned rfl rfl
theorem imaxExt (w : ExtA) : Statement (.imaxExt w) := assigned rfl rfl
theorem shl (w : Base) : Statement (.shl w) := assigned rfl rfl
theorem shlExt (w : ExtA) : Statement (.shlExt w) := assigned rfl rfl
theorem shr (w : Base) : Statement (.shr w) := assigned rfl rfl
theorem shrExt (w : ExtA) : Statement (.shrExt w) := assigned rfl rfl
theorem sar (w : Base) : Statement (.sar w) := assigned rfl rfl
theorem sarExt (w : ExtA) : Statement (.sarExt w) := assigned rfl rfl
theorem rol (w : Base) : Statement (.rol w) := assigned rfl rfl
theorem rolExt (w : ExtA) : Statement (.rolExt w) := assigned rfl rfl
theorem logic (w : ExtA) : Statement (.logic w) := assigned rfl rfl
theorem popc (w : Base) : Statement (.popc w) := assigned rfl rfl
theorem popcExt (w : ExtA) : Statement (.popcExt w) := assigned rfl rfl
theorem clz (w : Base) : Statement (.clz w) := assigned rfl rfl
theorem clzExt (w : ExtA) : Statement (.clzExt w) := assigned rfl rfl
theorem ctz (w : Base) : Statement (.ctz w) := assigned rfl rfl
theorem ctzExt (w : ExtA) : Statement (.ctzExt w) := assigned rfl rfl
theorem brev (w : Base) : Statement (.brev w) := assigned rfl rfl
theorem brevExt (w : ExtA) : Statement (.brevExt w) := assigned rfl rfl
theorem bfx (w : ExtA) : Statement (.bfx w) := assigned rfl rfl
theorem bfi (w : ExtA) : Statement (.bfi w) := assigned rfl rfl
theorem sel (w : ExtA) : Statement (.sel w) := assigned rfl rfl
theorem aadd (w : ExtA) : Statement (.aadd w) := assigned rfl rfl
theorem idot4 (w : ExtA) : Statement (.idot4 w) := assigned rfl rfl
theorem fadd (w : Base) : Statement (.fadd w) := assigned rfl rfl
theorem faddExt (w : ExtA) : Statement (.faddExt w) := assigned rfl rfl
theorem fmul (w : Base) : Statement (.fmul w) := assigned rfl rfl
theorem fmulExt (w : ExtA) : Statement (.fmulExt w) := assigned rfl rfl
theorem ffma (w : ExtA) : Statement (.ffma w) := assigned rfl rfl
theorem fmin (w : Base) : Statement (.fmin w) := assigned rfl rfl
theorem fminExt (w : ExtA) : Statement (.fminExt w) := assigned rfl rfl
theorem fmax (w : Base) : Statement (.fmax w) := assigned rfl rfl
theorem fmaxExt (w : ExtA) : Statement (.fmaxExt w) := assigned rfl rfl
theorem fcls (w : ExtA) : Statement (.fcls w) := assigned rfl rfl
theorem frcp (w : Base) : Statement (.frcp w) := assigned rfl rfl
theorem frcpExt (w : ExtA) : Statement (.frcpExt w) := assigned rfl rfl
theorem frsq (w : Base) : Statement (.frsq w) := assigned rfl rfl
theorem frsqExt (w : ExtA) : Statement (.frsqExt w) := assigned rfl rfl
theorem fsqrt (w : Base) : Statement (.fsqrt w) := assigned rfl rfl
theorem fsqrtExt (w : ExtA) : Statement (.fsqrtExt w) := assigned rfl rfl
theorem fexp2 (w : Base) : Statement (.fexp2 w) := assigned rfl rfl
theorem fexp2Ext (w : ExtA) : Statement (.fexp2Ext w) := assigned rfl rfl
theorem flog2 (w : Base) : Statement (.flog2 w) := assigned rfl rfl
theorem flog2Ext (w : ExtA) : Statement (.flog2Ext w) := assigned rfl rfl
theorem fsin (w : Base) : Statement (.fsin w) := assigned rfl rfl
theorem fsinExt (w : ExtA) : Statement (.fsinExt w) := assigned rfl rfl
theorem fcos (w : Base) : Statement (.fcos w) := assigned rfl rfl
theorem fcosExt (w : ExtA) : Statement (.fcosExt w) := assigned rfl rfl
theorem ftanh (w : Base) : Statement (.ftanh w) := assigned rfl rfl
theorem ftanhExt (w : ExtA) : Statement (.ftanhExt w) := assigned rfl rfl
theorem hadd2 (w : ExtA) : Statement (.hadd2 w) := assigned rfl rfl
theorem hmul2 (w : ExtA) : Statement (.hmul2 w) := assigned rfl rfl
theorem hfma2 (w : ExtA) : Statement (.hfma2 w) := assigned rfl rfl
theorem hmin2 (w : ExtA) : Statement (.hmin2 w) := assigned rfl rfl
theorem hmax2 (w : ExtA) : Statement (.hmax2 w) := assigned rfl rfl
theorem fdot2 (w : ExtA) : Statement (.fdot2 w) := assigned rfl rfl
theorem cvt (w : ExtA) : Statement (.cvt w) := assigned rfl rfl
theorem pack (w : ExtA) : Statement (.pack w) := assigned rfl rfl
theorem unpack (w : ExtA) : Statement (.unpack w) := assigned rfl rfl
theorem mxscale (w : ExtA) : Statement (.mxscale w) := assigned rfl rfl
theorem qnt (w : ExtA) : Statement (.qnt w) := assigned rfl rfl
theorem icmp (w : ExtA) : Statement (.icmp w) := assigned rfl rfl
theorem fcmp (w : ExtA) : Statement (.fcmp w) := assigned rfl rfl
theorem plogic (w : ExtA) : Statement (.plogic w) := assigned rfl rfl
theorem pmovGet (w : ExtA) : Statement (.pmovGet w) := assigned rfl rfl
theorem pmovPut (w : ExtA) : Statement (.pmovPut w) := assigned rfl rfl
theorem mov (w : Base) : Statement (.mov w) := assigned rfl rfl
theorem movExt (w : ExtA) : Statement (.movExt w) := assigned rfl rfl
theorem movl (w : ExtA) : Statement (.movl w) := assigned rfl rfl
theorem movs (w : ExtA) : Statement (.movs w) := assigned rfl rfl
theorem bra (w : ExtA) : Statement (.bra w) := assigned rfl rfl
theorem brx (w : ExtA) : Statement (.brx w) := assigned rfl rfl
theorem call (w : ExtA) : Statement (.call w) := assigned rfl rfl
theorem ret (w : ExtA) : Statement (.ret w) := assigned rfl rfl
theorem exit (w : Base) : Statement (.exit w) := assigned rfl rfl
theorem exitExt (w : ExtA) : Statement (.exitExt w) := assigned rfl rfl
theorem nop (w : Base) : Statement (.nop w) := assigned rfl rfl
theorem nopExt (w : ExtA) : Statement (.nopExt w) := assigned rfl rfl
theorem yield (w : Base) : Statement (.yield w) := assigned rfl rfl
theorem yieldExt (w : ExtA) : Statement (.yieldExt w) := assigned rfl rfl
theorem trap (w : ExtA) : Statement (.trap w) := assigned rfl rfl
theorem eret (w : Base) : Statement (.eret w) := assigned rfl rfl
theorem eretExt (w : ExtA) : Statement (.eretExt w) := assigned rfl rfl
theorem rdsys (w : ExtA) : Statement (.rdsys w) := assigned rfl rfl
theorem wrsys (w : ExtA) : Statement (.wrsys w) := assigned rfl rfl
theorem shfl (w : ExtA) : Statement (.shfl w) := assigned rfl rfl
theorem vote (w : ExtA) : Statement (.vote w) := assigned rfl rfl
theorem matchLanes (w : ExtA) : Statement (.matchLanes w) := assigned rfl rfl
theorem redg (w : ExtA) : Statement (.redg w) := assigned rfl rfl
theorem elect (w : ExtA) : Statement (.elect w) := assigned rfl rfl
theorem prmt (w : ExtA) : Statement (.prmt w) := assigned rfl rfl
theorem ld (w : ExtM) : Statement (.ld w) := assigned rfl rfl
theorem st (w : ExtM) : Statement (.st w) := assigned rfl rfl
theorem ldl (w : ExtM) : Statement (.ldl w) := assigned rfl rfl
theorem stl (w : ExtM) : Statement (.stl w) := assigned rfl rfl
theorem ldc (w : ExtM) : Statement (.ldc w) := assigned rfl rfl
theorem pref (w : ExtM) : Statement (.pref w) := assigned rfl rfl
theorem lds (w : ExtM) : Statement (.lds w) := assigned rfl rfl
theorem sts (w : ExtM) : Statement (.sts w) := assigned rfl rfl
theorem atoms (w : ExtM) : Statement (.atoms w) := assigned rfl rfl
theorem hoopAcq (w : ExtA) : Statement (.hoopAcq w) := assigned rfl rfl
theorem hoopWait (w : ExtA) : Statement (.hoopWait w) := assigned rfl rfl
theorem hoopRel (w : ExtA) : Statement (.hoopRel w) := assigned rfl rfl
theorem cp (w : ExtA) : Statement (.cp w) := assigned rfl rfl
theorem cp2d (w : ExtA) : Statement (.cp2d w) := assigned rfl rfl
theorem cpg (w : ExtA) : Statement (.cpg w) := assigned rfl rfl
theorem cps (w : ExtA) : Statement (.cps w) := assigned rfl rfl
theorem cpq (w : ExtA) : Statement (.cpq w) := assigned rfl rfl
theorem bart (w : ExtA) : Statement (.bart w) := assigned rfl rfl
theorem barrArv (w : ExtA) : Statement (.barrArv w) := assigned rfl rfl
theorem barrWt (w : ExtA) : Statement (.barrWt w) := assigned rfl rfl
theorem fences (w : ExtA) : Statement (.fences w) := assigned rfl rfl
theorem waym (w : ExtA) : Statement (.waym w) := assigned rfl rfl
theorem wbld (w : ExtA) : Statement (.wbld w) := assigned rfl rfl
theorem mloop (w : ExtA) : Statement (.mloop w) := assigned rfl rfl
theorem mstep (w : ExtA) : Statement (.mstep w) := assigned rfl rfl
theorem mwait (w : ExtA) : Statement (.mwait w) := assigned rfl rfl
theorem accrd (w : ExtA) : Statement (.accrd w) := assigned rfl rfl
theorem accwr (w : ExtA) : Statement (.accwr w) := assigned rfl rfl
theorem accclr (w : ExtA) : Statement (.accclr w) := assigned rfl rfl
theorem ohnd (w : ExtA) : Statement (.ohnd w) := assigned rfl rfl
theorem ohndClr (w : ExtA) : Statement (.ohndClr w) := assigned rfl rfl
theorem nsend (w : ExtA) : Statement (.nsend w) := assigned rfl rfl
theorem nrecv (w : ExtA) : Statement (.nrecv w) := assigned rfl rfl
theorem npoll (w : ExtA) : Statement (.npoll w) := assigned rfl rfl
theorem barc (w : ExtA) : Statement (.barc w) := assigned rfl rfl
theorem atom (w : ExtM) : Statement (.atom w) := assigned rfl rfl
theorem red (w : ExtM) : Statement (.red w) := assigned rfl rfl
theorem lr (w : ExtM) : Statement (.lr w) := assigned rfl rfl
theorem sc (w : ExtM) : Statement (.sc w) := assigned rfl rfl
theorem waitc (w : ExtM) : Statement (.waitc w) := assigned rfl rfl
theorem phase (w : ExtA) : Statement (.phase w) := assigned rfl rfl
theorem disc (w : ExtM) : Statement (.disc w) := assigned rfl rfl
theorem cwb (w : ExtM) : Statement (.cwb w) := assigned rfl rfl
theorem cinv (w : ExtM) : Statement (.cinv w) := assigned rfl rfl
theorem qpost (w : ExtA) : Statement (.qpost w) := assigned rfl rfl
theorem coll (w : ExtA) : Statement (.coll w) := assigned rfl rfl
theorem collw (w : ExtA) : Statement (.collw w) := assigned rfl rfl
theorem collc (w : ExtA) : Statement (.collc w) := assigned rfl rfl
theorem quarterIssue (core quarter : Nat) : Statement (.quarterIssue core quarter) := unassigned rfl
theorem activePlaceGrant (core quarter : Nat) : Statement (.activePlaceGrant core quarter) := unassigned rfl
theorem activePlaceYield (core quarter : Nat) : Statement (.activePlaceYield core quarter) := unassigned rfl
theorem portResultLands (g : GRef) : Statement (.portResultLands g) := unassigned rfl
theorem loadDataReturn (load piece : Nat) : Statement (.loadDataReturn load piece) := unassigned rfl
theorem constantCacheFill (g : GRef) : Statement (.constantCacheFill g) := unassigned rfl
theorem instructionFetchFill (g : GRef) : Statement (.instructionFetchFill g) := unassigned rfl
theorem dispatcherAdmit (cluster : Nat) : Statement (.dispatcherAdmit cluster) := unassigned rfl
theorem teamSave (team : Nat) : Statement (.teamSave team) := unassigned rfl
theorem teamRestore (team : Nat) : Statement (.teamRestore team) := unassigned rfl
theorem copyCommandStart (core : Nat) : Statement (.copyCommandStart core) := unassigned rfl
theorem copyEngineWrite (core cmd count : Nat) : Statement (.copyEngineWrite core cmd count) := unassigned rfl
theorem copyResume (core cmd : Nat) : Statement (.copyResume core cmd) := unassigned rfl
theorem copyCommandComplete (core cmd : Nat) : Statement (.copyCommandComplete core cmd) := unassigned rfl
theorem matrixStepStart (core : Nat) : Statement (.matrixStepStart core) := unassigned rfl
theorem operandCacheFill (core : Nat) : Statement (.operandCacheFill core) := unassigned rfl
theorem matrixStepUpdate (core : Nat) : Statement (.matrixStepUpdate core) := unassigned rfl
theorem matrixEntryComplete (core : Nat) : Statement (.matrixEntryComplete core) := unassigned rfl
theorem wbldTransfer (core : Nat) : Statement (.wbldTransfer core) := unassigned rfl
theorem accumulatorPerform (core : Nat) : Statement (.accumulatorPerform core) := unassigned rfl
theorem messageArrival (cluster side channel : Nat) : Statement (.messageArrival cluster side channel) := unassigned rfl
theorem sliceRequest (slice : Nat) (src : Src) : Statement (.sliceRequest slice src) := unassigned rfl
theorem sliceFillReturn (slice set : Nat) : Statement (.sliceFillReturn slice set) := unassigned rfl
theorem replicaInvalidationAck (line holder : Nat) : Statement (.replicaInvalidationAck line holder) := unassigned rfl
theorem replicaDropNotice (line holder : Nat) : Statement (.replicaDropNotice line holder) := unassigned rfl
theorem l1WritebackArrival (slice : Nat) (src : Src) : Statement (.l1WritebackArrival slice src) := unassigned rfl
theorem monitorDeadline (slice entry : Nat) : Statement (.monitorDeadline slice entry) := unassigned rfl
theorem overflowReevaluation (slice : Nat) : Statement (.overflowReevaluation slice) := unassigned rfl
theorem waitcOverflowRetry (slice req : Nat) : Statement (.waitcOverflowRetry slice req) := unassigned rfl
theorem vaultScrub (line : Nat) (uncorrectable : Bool) : Statement (.vaultScrub line uncorrectable) := unassigned rfl
theorem weaverRecordRead (node die : Nat) : Statement (.weaverRecordRead node die) := unassigned rfl
theorem weaverClaim (node die : Nat) : Statement (.weaverClaim node die) := unassigned rfl
theorem teamCreate (node die : Nat) : Statement (.teamCreate node die) := unassigned rfl
theorem weaverSpillRescan (node die : Nat) : Statement (.weaverSpillRescan node die) := unassigned rfl
theorem weaverDeferWake (node die : Nat) : Statement (.weaverDeferWake node die) := unassigned rfl
theorem weaverNonownerWait (node die : Nat) : Statement (.weaverNonownerWait node die) := unassigned rfl
theorem weaverRepairWake (node die : Nat) : Statement (.weaverRepairWake node die) := unassigned rfl
theorem teamRetire (team : Nat) : Statement (.teamRetire team) := unassigned rfl
theorem nodeRetire (node : Nat) : Statement (.nodeRetire node) := unassigned rfl
theorem queueDoorbell (part queue : Nat) (w : Word) : Statement (.queueDoorbell part queue w) := unassigned rfl
theorem queueClr (part queue : Nat) : Statement (.queueClr part queue) := unassigned rfl
theorem queueHeadStart : Statement (.queueHeadStart) := unassigned rfl
theorem abortedPacketDrain (part queue : Nat) : Statement (.abortedPacketDrain part queue) := unassigned rfl
theorem packetBarrierEvaluate (part queue : Nat) : Statement (.packetBarrierEvaluate part queue) := unassigned rfl
theorem packetSignal (pkt : Nat) : Statement (.packetSignal pkt) := unassigned rfl
theorem packetCopy (pkt count : Nat) : Statement (.packetCopy pkt count) := unassigned rfl
theorem packetCompletion (pkt : Nat) : Statement (.packetCompletion pkt) := unassigned rfl
theorem queueEngineAccessPause (part queue : Nat) : Statement (.queueEngineAccessPause part queue) := unassigned rfl
theorem nodeStart (node : Nat) : Statement (.nodeStart node) := unassigned rfl
theorem arenaBirth (node : Nat) : Statement (.arenaBirth node) := unassigned rfl
theorem nodeKill (node : Nat) : Statement (.nodeKill node) := unassigned rfl
theorem shakeout (node : Nat) : Statement (.shakeout node) := unassigned rfl
theorem faultQueuePost (part : Nat) : Statement (.faultQueuePost part) := unassigned rfl
theorem fqrWrite (part : Nat) (r : Word) : Statement (.fqrWrite part r) := unassigned rfl
theorem faultResume (part : Nat) (index : Word) : Statement (.faultResume part index) := unassigned rfl
theorem faultKill (part : Nat) (index : Word) : Statement (.faultKill part index) := unassigned rfl
theorem faultStatPoll (part : Nat) (index : Word) : Statement (.faultStatPoll part index) := unassigned rfl
theorem pageWalk (die part : Nat) (va : BitVec 56) : Statement (.pageWalk die part va) := unassigned rfl
theorem shootdownGo (port : Port) (part : Nat) (drop : Bool) : Statement (.shootdownGo port part drop) := unassigned rfl
theorem shootdownComplete (part : Nat) : Statement (.shootdownComplete part) := unassigned rfl
theorem heatTableCommit (port : Port) (nent : Word) : Statement (.heatTableCommit port nent) := unassigned rfl
theorem heatStart (cluster : Nat) : Statement (.heatStart cluster) := unassigned rfl
theorem csemWrite (port : Port) (val : Word) : Statement (.csemWrite port val) := unassigned rfl
theorem portResetRelease (port : Port) : Statement (.portResetRelease port) := unassigned rfl
theorem registerWrite (port : Port) (offset : Nat) (bytes : List Byte) : Statement (.registerWrite port offset bytes) := unassigned rfl
theorem fuseCounterWrite (port : Port) (val : Word) : Statement (.fuseCounterWrite port val) := unassigned rfl
theorem bootRomLoad (die : Nat) : Statement (.bootRomLoad die) := unassigned rfl
theorem attestationRequest (die : Nat) (nonce : BitVec 256) : Statement (.attestationRequest die nonce) := unassigned rfl
theorem clockThrottle (overPower overTemp : Bool) : Statement (.clockThrottle overPower overTemp) := unassigned rfl
theorem ucieFlitReceive (m : UcieRef) (flit : List Byte) : Statement (.ucieFlitReceive m flit) := unassigned rfl
theorem ucieReplay (m : UcieRef) : Statement (.ucieReplay m) := unassigned rfl
theorem ucieLaneLoss (m : UcieRef) : Statement (.ucieLaneLoss m) := unassigned rfl
theorem yunambiFlitReceive (port : Nat) (flit : List Byte) : Statement (.yunambiFlitReceive port flit) := unassigned rfl
theorem yunambiReplay (port : Nat) : Statement (.yunambiReplay port) := unassigned rfl
theorem portWithdraw (port : Nat) : Statement (.portWithdraw port) := unassigned rfl
theorem noRouteNotice (dest plane : Nat) : Statement (.noRouteNotice dest plane) := unassigned rfl
theorem remotePacketApply (p : RemPkt) : Statement (.remotePacketApply p) := unassigned rfl
theorem remoteResponseArrival (r : RemRsp) : Statement (.remoteResponseArrival r) := unassigned rfl
theorem remoteResend (st : StreamId) (seq : Word) : Statement (.remoteResend st seq) := unassigned rfl
theorem peerUnreachable (st : StreamId) : Statement (.peerUnreachable st) := unassigned rfl
theorem tapPostArrival (member comm : Nat) (tag : Word) (key : CollKey) : Statement (.tapPostArrival member comm tag key) := unassigned rfl
theorem tapCancelArrival (member comm : Nat) (tag : Word) : Statement (.tapCancelArrival member comm tag) := unassigned rfl
theorem tapNumberReceived (comm : Nat) (tag tap : Word) (epoch : Byte) : Statement (.tapNumberReceived comm tag tap epoch) := unassigned rfl
theorem collectiveStart (comm : Nat) (reports : List DoneReport) : Statement (.collectiveStart comm reports) := unassigned rfl
theorem startReceived (comm : Nat) (tap : Word) (epoch : Byte) : Statement (.startReceived comm tap epoch) := unassigned rfl
theorem collectiveDone (comm : Nat) (tap : Word) (peers : List (Nat × List Byte)) : Statement (.collectiveDone comm tap peers) := unassigned rfl
theorem collectivePauseResume (comm : Nat) (tap : Word) : Statement (.collectivePauseResume comm tap) := unassigned rfl
theorem sequencerHeartbeat (received : Bool) : Statement (.sequencerHeartbeat received) := unassigned rfl
theorem sequencerFailover : Statement (.sequencerFailover) := unassigned rfl
theorem recoveryReply (member : Nat) (slots : List SlotReport) : Statement (.recoveryReply member slots) := unassigned rfl
theorem priorityAging (part queue : Nat) : Statement (.priorityAging part queue) := unassigned rfl
theorem dispatcherHeadTimeout (cluster : Nat) : Statement (.dispatcherHeadTimeout cluster) := unassigned rfl
theorem packageReset : Statement (.packageReset) := unassigned rfl
theorem unitReady (u : ReadyUnit) : Statement (.unitReady u) := unassigned rfl
theorem portTraining (p : TrainPort) (lanes rtc : Nat) : Statement (.portTraining p lanes rtc) := unassigned rfl
theorem softError (u : ErrUnit) (uncorrectable : Bool) : Statement (.softError u uncorrectable) := unassigned rfl
theorem collcReplyArrival (comm : Nat) (tag : Word) (reply : CollcReply) : Statement (.collcReplyArrival comm tag reply) := unassigned rfl
theorem cancelledReceived (comm : Nat) (tag : Word) (epoch : Byte) : Statement (.cancelledReceived comm tag epoch) := unassigned rfl
theorem failedReceived (comm : Nat) (tap : Word) (epoch : Byte) : Statement (.failedReceived comm tap epoch) := unassigned rfl
theorem recoveryRequestArrival (epoch : Byte) (standby : Nat) : Statement (.recoveryRequestArrival epoch standby) := unassigned rfl
theorem sequencerLost : Statement (.sequencerLost) := unassigned rfl

end Sys2Proof.Laws.Assigned
end

