-- ==== Sys2Proof/Laws/State.lean ====
section
/-!
SUPPORT. What each update of the state leaves: one lemma for each field and each update, so that no proof unfolds a record.
-/

namespace Sys2Proof.Machine


/-! ### modTeam -/

@[simp] theorem State.modTeam_clk (s : State) (t : Nat) (f : Team → Team) : (s.modTeam t f).clk = s.clk := rfl
@[simp] theorem State.modTeam_ptp (s : State) (t : Nat) (f : Team → Team) : (s.modTeam t f).ptp = s.ptp := rfl
@[simp] theorem State.modTeam_mhz (s : State) (t : Nat) (f : Team → Team) : (s.modTeam t f).mhz = s.mhz := rfl
@[simp] theorem State.modTeam_clearSince (s : State) (t : Nat) (f : Team → Team) : (s.modTeam t f).clearSince = s.clearSince := rfl
@[simp] theorem State.modTeam_lastLid (s : State) (t : Nat) (f : Team → Team) : (s.modTeam t f).lastLid = s.lastLid := rfl
@[simp] theorem State.modTeam_nextId (s : State) (t : Nat) (f : Team → Team) : (s.modTeam t f).nextId = s.nextId := rfl
@[simp] theorem State.modTeam_cur (s : State) (t : Nat) (f : Team → Team) : (s.modTeam t f).cur = s.cur := rfl
@[simp] theorem State.modTeam_agenda (s : State) (t : Nat) (f : Team → Team) : (s.modTeam t f).agenda = s.agenda := rfl
@[simp] theorem State.modTeam_wakes (s : State) (t : Nat) (f : Team → Team) : (s.modTeam t f).wakes = s.wakes := rfl
@[simp] theorem State.modTeam_mem (s : State) (t : Nat) (f : Team → Team) : (s.modTeam t f).mem = s.mem := rfl
@[simp] theorem State.modTeam_poison (s : State) (t : Nat) (f : Team → Team) : (s.modTeam t f).poison = s.poison := rfl
@[simp] theorem State.modTeam_corrected (s : State) (t : Nat) (f : Team → Team) : (s.modTeam t f).corrected = s.corrected := rfl
@[simp] theorem State.modTeam_csem (s : State) (t : Nat) (f : Team → Team) : (s.modTeam t f).csem = s.csem := rfl
@[simp] theorem State.modTeam_cerr (s : State) (t : Nat) (f : Team → Team) : (s.modTeam t f).cerr = s.cerr := rfl
@[simp] theorem State.modTeam_rdy (s : State) (t : Nat) (f : Team → Team) : (s.modTeam t f).rdy = s.rdy := rfl
@[simp] theorem State.modTeam_vrdy (s : State) (t : Nat) (f : Team → Team) : (s.modTeam t f).vrdy = s.vrdy := rfl
@[simp] theorem State.modTeam_frdy (s : State) (t : Nat) (f : Team → Team) : (s.modTeam t f).frdy = s.frdy := rfl
@[simp] theorem State.modTeam_podcfg (s : State) (t : Nat) (f : Team → Team) : (s.modTeam t f).podcfg = s.podcfg := rfl
@[simp] theorem State.modTeam_fabev (s : State) (t : Nat) (f : Team → Team) : (s.modTeam t f).fabev = s.fabev := rfl
@[simp] theorem State.modTeam_staged (s : State) (t : Nat) (f : Team → Team) : (s.modTeam t f).staged = s.staged := rfl
@[simp] theorem State.modTeam_heats (s : State) (t : Nat) (f : Team → Team) : (s.modTeam t f).heats = s.heats := rfl
@[simp] theorem State.modTeam_fuse (s : State) (t : Nat) (f : Team → Team) : (s.modTeam t f).fuse = s.fuse := rfl
@[simp] theorem State.modTeam_pmask (s : State) (t : Nat) (f : Team → Team) : (s.modTeam t f).pmask = s.pmask := rfl
@[simp] theorem State.modTeam_comms (s : State) (t : Nat) (f : Team → Team) : (s.modTeam t f).comms = s.comms := rfl
@[simp] theorem State.modTeam_mr (s : State) (t : Nat) (f : Team → Team) : (s.modTeam t f).mr = s.mr := rfl
@[simp] theorem State.modTeam_msix (s : State) (t : Nat) (f : Team → Team) : (s.modTeam t f).msix = s.msix := rfl
@[simp] theorem State.modTeam_msixPend (s : State) (t : Nat) (f : Team → Team) : (s.modTeam t f).msixPend = s.msixPend := rfl
@[simp] theorem State.modTeam_vectors (s : State) (t : Nat) (f : Team → Team) : (s.modTeam t f).vectors = s.vectors := rfl
@[simp] theorem State.modTeam_mailbox (s : State) (t : Nat) (f : Team → Team) : (s.modTeam t f).mailbox = s.mailbox := rfl
@[simp] theorem State.modTeam_flashA (s : State) (t : Nat) (f : Team → Team) : (s.modTeam t f).flashA = s.flashA := rfl
@[simp] theorem State.modTeam_flashB (s : State) (t : Nat) (f : Team → Team) : (s.modTeam t f).flashB = s.flashB := rfl
@[simp] theorem State.modTeam_fwSvn (s : State) (t : Nat) (f : Team → Team) : (s.modTeam t f).fwSvn = s.fwSvn := rfl
@[simp] theorem State.modTeam_refused (s : State) (t : Nat) (f : Team → Team) : (s.modTeam t f).refused = s.refused := rfl
@[simp] theorem State.modTeam_replies (s : State) (t : Nat) (f : Team → Team) : (s.modTeam t f).replies = s.replies := rfl
@[simp] theorem State.modTeam_parts (s : State) (t : Nat) (f : Team → Team) : (s.modTeam t f).parts = s.parts := rfl
@[simp] theorem State.modTeam_nodes (s : State) (t : Nat) (f : Team → Team) : (s.modTeam t f).nodes = s.nodes := rfl
@[simp] theorem State.modTeam_teams (s : State) (t : Nat) (f : Team → Team) : (s.modTeam t f).teams = s.teams.modify t f := rfl
@[simp] theorem State.modTeam_cores (s : State) (t : Nat) (f : Team → Team) : (s.modTeam t f).cores = s.cores := rfl
@[simp] theorem State.modTeam_clusters (s : State) (t : Nat) (f : Team → Team) : (s.modTeam t f).clusters = s.clusters := rfl
@[simp] theorem State.modTeam_slices (s : State) (t : Nat) (f : Team → Team) : (s.modTeam t f).slices = s.slices := rfl
@[simp] theorem State.modTeam_dies (s : State) (t : Nat) (f : Team → Team) : (s.modTeam t f).dies = s.dies := rfl
@[simp] theorem State.modTeam_net (s : State) (t : Nat) (f : Team → Team) : (s.modTeam t f).net = s.net := rfl
@[simp] theorem State.modTeam_outst (s : State) (t : Nat) (f : Team → Team) : (s.modTeam t f).outst = s.outst := rfl
@[simp] theorem State.modTeam_fly (s : State) (t : Nat) (f : Team → Team) : (s.modTeam t f).fly = s.fly := rfl
@[simp] theorem State.modTeam_invals (s : State) (t : Nat) (f : Team → Team) : (s.modTeam t f).invals = s.invals := rfl
@[simp] theorem State.modTeam_drops (s : State) (t : Nat) (f : Team → Team) : (s.modTeam t f).drops = s.drops := rfl
@[simp] theorem State.modTeam_pkts (s : State) (t : Nat) (f : Team → Team) : (s.modTeam t f).pkts = s.pkts := rfl
@[simp] theorem State.modTeam_rr (s : State) (t : Nat) (f : Team → Team) : (s.modTeam t f).rr = s.rr := rfl
@[simp] theorem State.modTeam_qeNext (s : State) (t : Nat) (f : Team → Team) : (s.modTeam t f).qeNext = s.qeNext := rfl
@[simp] theorem State.modTeam_ucie (s : State) (t : Nat) (f : Team → Team) : (s.modTeam t f).ucie = s.ucie := rfl
@[simp] theorem State.modTeam_remaps (s : State) (t : Nat) (f : Team → Team) : (s.modTeam t f).remaps = s.remaps := rfl
@[simp] theorem State.modTeam_ports (s : State) (t : Nat) (f : Team → Team) : (s.modTeam t f).ports = s.ports := rfl
@[simp] theorem State.modTeam_rrPlane (s : State) (t : Nat) (f : Team → Team) : (s.modTeam t f).rrPlane = s.rrPlane := rfl
@[simp] theorem State.modTeam_emptySince (s : State) (t : Nat) (f : Team → Team) : (s.modTeam t f).emptySince = s.emptySince := rfl
@[simp] theorem State.modTeam_outStreams (s : State) (t : Nat) (f : Team → Team) : (s.modTeam t f).outStreams = s.outStreams := rfl
@[simp] theorem State.modTeam_far (s : State) (t : Nat) (f : Team → Team) : (s.modTeam t f).far = s.far := rfl
@[simp] theorem State.modTeam_inStreams (s : State) (t : Nat) (f : Team → Team) : (s.modTeam t f).inStreams = s.inStreams := rfl
@[simp] theorem State.modTeam_fabOut (s : State) (t : Nat) (f : Team → Team) : (s.modTeam t f).fabOut = s.fabOut := rfl
@[simp] theorem State.modTeam_collIn (s : State) (t : Nat) (f : Team → Team) : (s.modTeam t f).collIn = s.collIn := rfl
@[simp] theorem State.modTeam_collFailed (s : State) (t : Nat) (f : Team → Team) : (s.modTeam t f).collFailed = s.collFailed := rfl
@[simp] theorem State.modTeam_inbox (s : State) (t : Nat) (f : Team → Team) : (s.modTeam t f).inbox = s.inbox := rfl
@[simp] theorem State.modTeam_seq (s : State) (t : Nat) (f : Team → Team) : (s.modTeam t f).seq = s.seq := rfl

/-! ### modGroup -/

@[simp] theorem State.modGroup_clk (s : State) (g : GRef) (f : Group → Group) : (s.modGroup g f).clk = s.clk := rfl
@[simp] theorem State.modGroup_ptp (s : State) (g : GRef) (f : Group → Group) : (s.modGroup g f).ptp = s.ptp := rfl
@[simp] theorem State.modGroup_mhz (s : State) (g : GRef) (f : Group → Group) : (s.modGroup g f).mhz = s.mhz := rfl
@[simp] theorem State.modGroup_clearSince (s : State) (g : GRef) (f : Group → Group) : (s.modGroup g f).clearSince = s.clearSince := rfl
@[simp] theorem State.modGroup_lastLid (s : State) (g : GRef) (f : Group → Group) : (s.modGroup g f).lastLid = s.lastLid := rfl
@[simp] theorem State.modGroup_nextId (s : State) (g : GRef) (f : Group → Group) : (s.modGroup g f).nextId = s.nextId := rfl
@[simp] theorem State.modGroup_cur (s : State) (g : GRef) (f : Group → Group) : (s.modGroup g f).cur = s.cur := rfl
@[simp] theorem State.modGroup_agenda (s : State) (g : GRef) (f : Group → Group) : (s.modGroup g f).agenda = s.agenda := rfl
@[simp] theorem State.modGroup_wakes (s : State) (g : GRef) (f : Group → Group) : (s.modGroup g f).wakes = s.wakes := rfl
@[simp] theorem State.modGroup_mem (s : State) (g : GRef) (f : Group → Group) : (s.modGroup g f).mem = s.mem := rfl
@[simp] theorem State.modGroup_poison (s : State) (g : GRef) (f : Group → Group) : (s.modGroup g f).poison = s.poison := rfl
@[simp] theorem State.modGroup_corrected (s : State) (g : GRef) (f : Group → Group) : (s.modGroup g f).corrected = s.corrected := rfl
@[simp] theorem State.modGroup_csem (s : State) (g : GRef) (f : Group → Group) : (s.modGroup g f).csem = s.csem := rfl
@[simp] theorem State.modGroup_cerr (s : State) (g : GRef) (f : Group → Group) : (s.modGroup g f).cerr = s.cerr := rfl
@[simp] theorem State.modGroup_rdy (s : State) (g : GRef) (f : Group → Group) : (s.modGroup g f).rdy = s.rdy := rfl
@[simp] theorem State.modGroup_vrdy (s : State) (g : GRef) (f : Group → Group) : (s.modGroup g f).vrdy = s.vrdy := rfl
@[simp] theorem State.modGroup_frdy (s : State) (g : GRef) (f : Group → Group) : (s.modGroup g f).frdy = s.frdy := rfl
@[simp] theorem State.modGroup_podcfg (s : State) (g : GRef) (f : Group → Group) : (s.modGroup g f).podcfg = s.podcfg := rfl
@[simp] theorem State.modGroup_fabev (s : State) (g : GRef) (f : Group → Group) : (s.modGroup g f).fabev = s.fabev := rfl
@[simp] theorem State.modGroup_staged (s : State) (g : GRef) (f : Group → Group) : (s.modGroup g f).staged = s.staged := rfl
@[simp] theorem State.modGroup_heats (s : State) (g : GRef) (f : Group → Group) : (s.modGroup g f).heats = s.heats := rfl
@[simp] theorem State.modGroup_fuse (s : State) (g : GRef) (f : Group → Group) : (s.modGroup g f).fuse = s.fuse := rfl
@[simp] theorem State.modGroup_pmask (s : State) (g : GRef) (f : Group → Group) : (s.modGroup g f).pmask = s.pmask := rfl
@[simp] theorem State.modGroup_comms (s : State) (g : GRef) (f : Group → Group) : (s.modGroup g f).comms = s.comms := rfl
@[simp] theorem State.modGroup_mr (s : State) (g : GRef) (f : Group → Group) : (s.modGroup g f).mr = s.mr := rfl
@[simp] theorem State.modGroup_msix (s : State) (g : GRef) (f : Group → Group) : (s.modGroup g f).msix = s.msix := rfl
@[simp] theorem State.modGroup_msixPend (s : State) (g : GRef) (f : Group → Group) : (s.modGroup g f).msixPend = s.msixPend := rfl
@[simp] theorem State.modGroup_vectors (s : State) (g : GRef) (f : Group → Group) : (s.modGroup g f).vectors = s.vectors := rfl
@[simp] theorem State.modGroup_mailbox (s : State) (g : GRef) (f : Group → Group) : (s.modGroup g f).mailbox = s.mailbox := rfl
@[simp] theorem State.modGroup_flashA (s : State) (g : GRef) (f : Group → Group) : (s.modGroup g f).flashA = s.flashA := rfl
@[simp] theorem State.modGroup_flashB (s : State) (g : GRef) (f : Group → Group) : (s.modGroup g f).flashB = s.flashB := rfl
@[simp] theorem State.modGroup_fwSvn (s : State) (g : GRef) (f : Group → Group) : (s.modGroup g f).fwSvn = s.fwSvn := rfl
@[simp] theorem State.modGroup_refused (s : State) (g : GRef) (f : Group → Group) : (s.modGroup g f).refused = s.refused := rfl
@[simp] theorem State.modGroup_replies (s : State) (g : GRef) (f : Group → Group) : (s.modGroup g f).replies = s.replies := rfl
@[simp] theorem State.modGroup_parts (s : State) (g : GRef) (f : Group → Group) : (s.modGroup g f).parts = s.parts := rfl
@[simp] theorem State.modGroup_nodes (s : State) (g : GRef) (f : Group → Group) : (s.modGroup g f).nodes = s.nodes := rfl
@[simp] theorem State.modGroup_teams (s : State) (g : GRef) (f : Group → Group) : (s.modGroup g f).teams = s.teams.modify g.team fun t => t.modGroup g.grp f := rfl
@[simp] theorem State.modGroup_cores (s : State) (g : GRef) (f : Group → Group) : (s.modGroup g f).cores = s.cores := rfl
@[simp] theorem State.modGroup_clusters (s : State) (g : GRef) (f : Group → Group) : (s.modGroup g f).clusters = s.clusters := rfl
@[simp] theorem State.modGroup_slices (s : State) (g : GRef) (f : Group → Group) : (s.modGroup g f).slices = s.slices := rfl
@[simp] theorem State.modGroup_dies (s : State) (g : GRef) (f : Group → Group) : (s.modGroup g f).dies = s.dies := rfl
@[simp] theorem State.modGroup_net (s : State) (g : GRef) (f : Group → Group) : (s.modGroup g f).net = s.net := rfl
@[simp] theorem State.modGroup_outst (s : State) (g : GRef) (f : Group → Group) : (s.modGroup g f).outst = s.outst := rfl
@[simp] theorem State.modGroup_fly (s : State) (g : GRef) (f : Group → Group) : (s.modGroup g f).fly = s.fly := rfl
@[simp] theorem State.modGroup_invals (s : State) (g : GRef) (f : Group → Group) : (s.modGroup g f).invals = s.invals := rfl
@[simp] theorem State.modGroup_drops (s : State) (g : GRef) (f : Group → Group) : (s.modGroup g f).drops = s.drops := rfl
@[simp] theorem State.modGroup_pkts (s : State) (g : GRef) (f : Group → Group) : (s.modGroup g f).pkts = s.pkts := rfl
@[simp] theorem State.modGroup_rr (s : State) (g : GRef) (f : Group → Group) : (s.modGroup g f).rr = s.rr := rfl
@[simp] theorem State.modGroup_qeNext (s : State) (g : GRef) (f : Group → Group) : (s.modGroup g f).qeNext = s.qeNext := rfl
@[simp] theorem State.modGroup_ucie (s : State) (g : GRef) (f : Group → Group) : (s.modGroup g f).ucie = s.ucie := rfl
@[simp] theorem State.modGroup_remaps (s : State) (g : GRef) (f : Group → Group) : (s.modGroup g f).remaps = s.remaps := rfl
@[simp] theorem State.modGroup_ports (s : State) (g : GRef) (f : Group → Group) : (s.modGroup g f).ports = s.ports := rfl
@[simp] theorem State.modGroup_rrPlane (s : State) (g : GRef) (f : Group → Group) : (s.modGroup g f).rrPlane = s.rrPlane := rfl
@[simp] theorem State.modGroup_emptySince (s : State) (g : GRef) (f : Group → Group) : (s.modGroup g f).emptySince = s.emptySince := rfl
@[simp] theorem State.modGroup_outStreams (s : State) (g : GRef) (f : Group → Group) : (s.modGroup g f).outStreams = s.outStreams := rfl
@[simp] theorem State.modGroup_far (s : State) (g : GRef) (f : Group → Group) : (s.modGroup g f).far = s.far := rfl
@[simp] theorem State.modGroup_inStreams (s : State) (g : GRef) (f : Group → Group) : (s.modGroup g f).inStreams = s.inStreams := rfl
@[simp] theorem State.modGroup_fabOut (s : State) (g : GRef) (f : Group → Group) : (s.modGroup g f).fabOut = s.fabOut := rfl
@[simp] theorem State.modGroup_collIn (s : State) (g : GRef) (f : Group → Group) : (s.modGroup g f).collIn = s.collIn := rfl
@[simp] theorem State.modGroup_collFailed (s : State) (g : GRef) (f : Group → Group) : (s.modGroup g f).collFailed = s.collFailed := rfl
@[simp] theorem State.modGroup_inbox (s : State) (g : GRef) (f : Group → Group) : (s.modGroup g f).inbox = s.inbox := rfl
@[simp] theorem State.modGroup_seq (s : State) (g : GRef) (f : Group → Group) : (s.modGroup g f).seq = s.seq := rfl

/-! ### modCore -/

@[simp] theorem State.modCore_clk (s : State) (c : Nat) (f : Core → Core) : (s.modCore c f).clk = s.clk := rfl
@[simp] theorem State.modCore_ptp (s : State) (c : Nat) (f : Core → Core) : (s.modCore c f).ptp = s.ptp := rfl
@[simp] theorem State.modCore_mhz (s : State) (c : Nat) (f : Core → Core) : (s.modCore c f).mhz = s.mhz := rfl
@[simp] theorem State.modCore_clearSince (s : State) (c : Nat) (f : Core → Core) : (s.modCore c f).clearSince = s.clearSince := rfl
@[simp] theorem State.modCore_lastLid (s : State) (c : Nat) (f : Core → Core) : (s.modCore c f).lastLid = s.lastLid := rfl
@[simp] theorem State.modCore_nextId (s : State) (c : Nat) (f : Core → Core) : (s.modCore c f).nextId = s.nextId := rfl
@[simp] theorem State.modCore_cur (s : State) (c : Nat) (f : Core → Core) : (s.modCore c f).cur = s.cur := rfl
@[simp] theorem State.modCore_agenda (s : State) (c : Nat) (f : Core → Core) : (s.modCore c f).agenda = s.agenda := rfl
@[simp] theorem State.modCore_wakes (s : State) (c : Nat) (f : Core → Core) : (s.modCore c f).wakes = s.wakes := rfl
@[simp] theorem State.modCore_mem (s : State) (c : Nat) (f : Core → Core) : (s.modCore c f).mem = s.mem := rfl
@[simp] theorem State.modCore_poison (s : State) (c : Nat) (f : Core → Core) : (s.modCore c f).poison = s.poison := rfl
@[simp] theorem State.modCore_corrected (s : State) (c : Nat) (f : Core → Core) : (s.modCore c f).corrected = s.corrected := rfl
@[simp] theorem State.modCore_csem (s : State) (c : Nat) (f : Core → Core) : (s.modCore c f).csem = s.csem := rfl
@[simp] theorem State.modCore_cerr (s : State) (c : Nat) (f : Core → Core) : (s.modCore c f).cerr = s.cerr := rfl
@[simp] theorem State.modCore_rdy (s : State) (c : Nat) (f : Core → Core) : (s.modCore c f).rdy = s.rdy := rfl
@[simp] theorem State.modCore_vrdy (s : State) (c : Nat) (f : Core → Core) : (s.modCore c f).vrdy = s.vrdy := rfl
@[simp] theorem State.modCore_frdy (s : State) (c : Nat) (f : Core → Core) : (s.modCore c f).frdy = s.frdy := rfl
@[simp] theorem State.modCore_podcfg (s : State) (c : Nat) (f : Core → Core) : (s.modCore c f).podcfg = s.podcfg := rfl
@[simp] theorem State.modCore_fabev (s : State) (c : Nat) (f : Core → Core) : (s.modCore c f).fabev = s.fabev := rfl
@[simp] theorem State.modCore_staged (s : State) (c : Nat) (f : Core → Core) : (s.modCore c f).staged = s.staged := rfl
@[simp] theorem State.modCore_heats (s : State) (c : Nat) (f : Core → Core) : (s.modCore c f).heats = s.heats := rfl
@[simp] theorem State.modCore_fuse (s : State) (c : Nat) (f : Core → Core) : (s.modCore c f).fuse = s.fuse := rfl
@[simp] theorem State.modCore_pmask (s : State) (c : Nat) (f : Core → Core) : (s.modCore c f).pmask = s.pmask := rfl
@[simp] theorem State.modCore_comms (s : State) (c : Nat) (f : Core → Core) : (s.modCore c f).comms = s.comms := rfl
@[simp] theorem State.modCore_mr (s : State) (c : Nat) (f : Core → Core) : (s.modCore c f).mr = s.mr := rfl
@[simp] theorem State.modCore_msix (s : State) (c : Nat) (f : Core → Core) : (s.modCore c f).msix = s.msix := rfl
@[simp] theorem State.modCore_msixPend (s : State) (c : Nat) (f : Core → Core) : (s.modCore c f).msixPend = s.msixPend := rfl
@[simp] theorem State.modCore_vectors (s : State) (c : Nat) (f : Core → Core) : (s.modCore c f).vectors = s.vectors := rfl
@[simp] theorem State.modCore_mailbox (s : State) (c : Nat) (f : Core → Core) : (s.modCore c f).mailbox = s.mailbox := rfl
@[simp] theorem State.modCore_flashA (s : State) (c : Nat) (f : Core → Core) : (s.modCore c f).flashA = s.flashA := rfl
@[simp] theorem State.modCore_flashB (s : State) (c : Nat) (f : Core → Core) : (s.modCore c f).flashB = s.flashB := rfl
@[simp] theorem State.modCore_fwSvn (s : State) (c : Nat) (f : Core → Core) : (s.modCore c f).fwSvn = s.fwSvn := rfl
@[simp] theorem State.modCore_refused (s : State) (c : Nat) (f : Core → Core) : (s.modCore c f).refused = s.refused := rfl
@[simp] theorem State.modCore_replies (s : State) (c : Nat) (f : Core → Core) : (s.modCore c f).replies = s.replies := rfl
@[simp] theorem State.modCore_parts (s : State) (c : Nat) (f : Core → Core) : (s.modCore c f).parts = s.parts := rfl
@[simp] theorem State.modCore_nodes (s : State) (c : Nat) (f : Core → Core) : (s.modCore c f).nodes = s.nodes := rfl
@[simp] theorem State.modCore_teams (s : State) (c : Nat) (f : Core → Core) : (s.modCore c f).teams = s.teams := rfl
@[simp] theorem State.modCore_cores (s : State) (c : Nat) (f : Core → Core) : (s.modCore c f).cores = s.cores.update c {} f := rfl
@[simp] theorem State.modCore_clusters (s : State) (c : Nat) (f : Core → Core) : (s.modCore c f).clusters = s.clusters := rfl
@[simp] theorem State.modCore_slices (s : State) (c : Nat) (f : Core → Core) : (s.modCore c f).slices = s.slices := rfl
@[simp] theorem State.modCore_dies (s : State) (c : Nat) (f : Core → Core) : (s.modCore c f).dies = s.dies := rfl
@[simp] theorem State.modCore_net (s : State) (c : Nat) (f : Core → Core) : (s.modCore c f).net = s.net := rfl
@[simp] theorem State.modCore_outst (s : State) (c : Nat) (f : Core → Core) : (s.modCore c f).outst = s.outst := rfl
@[simp] theorem State.modCore_fly (s : State) (c : Nat) (f : Core → Core) : (s.modCore c f).fly = s.fly := rfl
@[simp] theorem State.modCore_invals (s : State) (c : Nat) (f : Core → Core) : (s.modCore c f).invals = s.invals := rfl
@[simp] theorem State.modCore_drops (s : State) (c : Nat) (f : Core → Core) : (s.modCore c f).drops = s.drops := rfl
@[simp] theorem State.modCore_pkts (s : State) (c : Nat) (f : Core → Core) : (s.modCore c f).pkts = s.pkts := rfl
@[simp] theorem State.modCore_rr (s : State) (c : Nat) (f : Core → Core) : (s.modCore c f).rr = s.rr := rfl
@[simp] theorem State.modCore_qeNext (s : State) (c : Nat) (f : Core → Core) : (s.modCore c f).qeNext = s.qeNext := rfl
@[simp] theorem State.modCore_ucie (s : State) (c : Nat) (f : Core → Core) : (s.modCore c f).ucie = s.ucie := rfl
@[simp] theorem State.modCore_remaps (s : State) (c : Nat) (f : Core → Core) : (s.modCore c f).remaps = s.remaps := rfl
@[simp] theorem State.modCore_ports (s : State) (c : Nat) (f : Core → Core) : (s.modCore c f).ports = s.ports := rfl
@[simp] theorem State.modCore_rrPlane (s : State) (c : Nat) (f : Core → Core) : (s.modCore c f).rrPlane = s.rrPlane := rfl
@[simp] theorem State.modCore_emptySince (s : State) (c : Nat) (f : Core → Core) : (s.modCore c f).emptySince = s.emptySince := rfl
@[simp] theorem State.modCore_outStreams (s : State) (c : Nat) (f : Core → Core) : (s.modCore c f).outStreams = s.outStreams := rfl
@[simp] theorem State.modCore_far (s : State) (c : Nat) (f : Core → Core) : (s.modCore c f).far = s.far := rfl
@[simp] theorem State.modCore_inStreams (s : State) (c : Nat) (f : Core → Core) : (s.modCore c f).inStreams = s.inStreams := rfl
@[simp] theorem State.modCore_fabOut (s : State) (c : Nat) (f : Core → Core) : (s.modCore c f).fabOut = s.fabOut := rfl
@[simp] theorem State.modCore_collIn (s : State) (c : Nat) (f : Core → Core) : (s.modCore c f).collIn = s.collIn := rfl
@[simp] theorem State.modCore_collFailed (s : State) (c : Nat) (f : Core → Core) : (s.modCore c f).collFailed = s.collFailed := rfl
@[simp] theorem State.modCore_inbox (s : State) (c : Nat) (f : Core → Core) : (s.modCore c f).inbox = s.inbox := rfl
@[simp] theorem State.modCore_seq (s : State) (c : Nat) (f : Core → Core) : (s.modCore c f).seq = s.seq := rfl

/-! ### modCluster -/

@[simp] theorem State.modCluster_clk (s : State) (c : Nat) (f : Cluster → Cluster) : (s.modCluster c f).clk = s.clk := rfl
@[simp] theorem State.modCluster_ptp (s : State) (c : Nat) (f : Cluster → Cluster) : (s.modCluster c f).ptp = s.ptp := rfl
@[simp] theorem State.modCluster_mhz (s : State) (c : Nat) (f : Cluster → Cluster) : (s.modCluster c f).mhz = s.mhz := rfl
@[simp] theorem State.modCluster_clearSince (s : State) (c : Nat) (f : Cluster → Cluster) : (s.modCluster c f).clearSince = s.clearSince := rfl
@[simp] theorem State.modCluster_lastLid (s : State) (c : Nat) (f : Cluster → Cluster) : (s.modCluster c f).lastLid = s.lastLid := rfl
@[simp] theorem State.modCluster_nextId (s : State) (c : Nat) (f : Cluster → Cluster) : (s.modCluster c f).nextId = s.nextId := rfl
@[simp] theorem State.modCluster_cur (s : State) (c : Nat) (f : Cluster → Cluster) : (s.modCluster c f).cur = s.cur := rfl
@[simp] theorem State.modCluster_agenda (s : State) (c : Nat) (f : Cluster → Cluster) : (s.modCluster c f).agenda = s.agenda := rfl
@[simp] theorem State.modCluster_wakes (s : State) (c : Nat) (f : Cluster → Cluster) : (s.modCluster c f).wakes = s.wakes := rfl
@[simp] theorem State.modCluster_mem (s : State) (c : Nat) (f : Cluster → Cluster) : (s.modCluster c f).mem = s.mem := rfl
@[simp] theorem State.modCluster_poison (s : State) (c : Nat) (f : Cluster → Cluster) : (s.modCluster c f).poison = s.poison := rfl
@[simp] theorem State.modCluster_corrected (s : State) (c : Nat) (f : Cluster → Cluster) : (s.modCluster c f).corrected = s.corrected := rfl
@[simp] theorem State.modCluster_csem (s : State) (c : Nat) (f : Cluster → Cluster) : (s.modCluster c f).csem = s.csem := rfl
@[simp] theorem State.modCluster_cerr (s : State) (c : Nat) (f : Cluster → Cluster) : (s.modCluster c f).cerr = s.cerr := rfl
@[simp] theorem State.modCluster_rdy (s : State) (c : Nat) (f : Cluster → Cluster) : (s.modCluster c f).rdy = s.rdy := rfl
@[simp] theorem State.modCluster_vrdy (s : State) (c : Nat) (f : Cluster → Cluster) : (s.modCluster c f).vrdy = s.vrdy := rfl
@[simp] theorem State.modCluster_frdy (s : State) (c : Nat) (f : Cluster → Cluster) : (s.modCluster c f).frdy = s.frdy := rfl
@[simp] theorem State.modCluster_podcfg (s : State) (c : Nat) (f : Cluster → Cluster) : (s.modCluster c f).podcfg = s.podcfg := rfl
@[simp] theorem State.modCluster_fabev (s : State) (c : Nat) (f : Cluster → Cluster) : (s.modCluster c f).fabev = s.fabev := rfl
@[simp] theorem State.modCluster_staged (s : State) (c : Nat) (f : Cluster → Cluster) : (s.modCluster c f).staged = s.staged := rfl
@[simp] theorem State.modCluster_heats (s : State) (c : Nat) (f : Cluster → Cluster) : (s.modCluster c f).heats = s.heats := rfl
@[simp] theorem State.modCluster_fuse (s : State) (c : Nat) (f : Cluster → Cluster) : (s.modCluster c f).fuse = s.fuse := rfl
@[simp] theorem State.modCluster_pmask (s : State) (c : Nat) (f : Cluster → Cluster) : (s.modCluster c f).pmask = s.pmask := rfl
@[simp] theorem State.modCluster_comms (s : State) (c : Nat) (f : Cluster → Cluster) : (s.modCluster c f).comms = s.comms := rfl
@[simp] theorem State.modCluster_mr (s : State) (c : Nat) (f : Cluster → Cluster) : (s.modCluster c f).mr = s.mr := rfl
@[simp] theorem State.modCluster_msix (s : State) (c : Nat) (f : Cluster → Cluster) : (s.modCluster c f).msix = s.msix := rfl
@[simp] theorem State.modCluster_msixPend (s : State) (c : Nat) (f : Cluster → Cluster) : (s.modCluster c f).msixPend = s.msixPend := rfl
@[simp] theorem State.modCluster_vectors (s : State) (c : Nat) (f : Cluster → Cluster) : (s.modCluster c f).vectors = s.vectors := rfl
@[simp] theorem State.modCluster_mailbox (s : State) (c : Nat) (f : Cluster → Cluster) : (s.modCluster c f).mailbox = s.mailbox := rfl
@[simp] theorem State.modCluster_flashA (s : State) (c : Nat) (f : Cluster → Cluster) : (s.modCluster c f).flashA = s.flashA := rfl
@[simp] theorem State.modCluster_flashB (s : State) (c : Nat) (f : Cluster → Cluster) : (s.modCluster c f).flashB = s.flashB := rfl
@[simp] theorem State.modCluster_fwSvn (s : State) (c : Nat) (f : Cluster → Cluster) : (s.modCluster c f).fwSvn = s.fwSvn := rfl
@[simp] theorem State.modCluster_refused (s : State) (c : Nat) (f : Cluster → Cluster) : (s.modCluster c f).refused = s.refused := rfl
@[simp] theorem State.modCluster_replies (s : State) (c : Nat) (f : Cluster → Cluster) : (s.modCluster c f).replies = s.replies := rfl
@[simp] theorem State.modCluster_parts (s : State) (c : Nat) (f : Cluster → Cluster) : (s.modCluster c f).parts = s.parts := rfl
@[simp] theorem State.modCluster_nodes (s : State) (c : Nat) (f : Cluster → Cluster) : (s.modCluster c f).nodes = s.nodes := rfl
@[simp] theorem State.modCluster_teams (s : State) (c : Nat) (f : Cluster → Cluster) : (s.modCluster c f).teams = s.teams := rfl
@[simp] theorem State.modCluster_cores (s : State) (c : Nat) (f : Cluster → Cluster) : (s.modCluster c f).cores = s.cores := rfl
@[simp] theorem State.modCluster_clusters (s : State) (c : Nat) (f : Cluster → Cluster) : (s.modCluster c f).clusters = s.clusters.update c {} f := rfl
@[simp] theorem State.modCluster_slices (s : State) (c : Nat) (f : Cluster → Cluster) : (s.modCluster c f).slices = s.slices := rfl
@[simp] theorem State.modCluster_dies (s : State) (c : Nat) (f : Cluster → Cluster) : (s.modCluster c f).dies = s.dies := rfl
@[simp] theorem State.modCluster_net (s : State) (c : Nat) (f : Cluster → Cluster) : (s.modCluster c f).net = s.net := rfl
@[simp] theorem State.modCluster_outst (s : State) (c : Nat) (f : Cluster → Cluster) : (s.modCluster c f).outst = s.outst := rfl
@[simp] theorem State.modCluster_fly (s : State) (c : Nat) (f : Cluster → Cluster) : (s.modCluster c f).fly = s.fly := rfl
@[simp] theorem State.modCluster_invals (s : State) (c : Nat) (f : Cluster → Cluster) : (s.modCluster c f).invals = s.invals := rfl
@[simp] theorem State.modCluster_drops (s : State) (c : Nat) (f : Cluster → Cluster) : (s.modCluster c f).drops = s.drops := rfl
@[simp] theorem State.modCluster_pkts (s : State) (c : Nat) (f : Cluster → Cluster) : (s.modCluster c f).pkts = s.pkts := rfl
@[simp] theorem State.modCluster_rr (s : State) (c : Nat) (f : Cluster → Cluster) : (s.modCluster c f).rr = s.rr := rfl
@[simp] theorem State.modCluster_qeNext (s : State) (c : Nat) (f : Cluster → Cluster) : (s.modCluster c f).qeNext = s.qeNext := rfl
@[simp] theorem State.modCluster_ucie (s : State) (c : Nat) (f : Cluster → Cluster) : (s.modCluster c f).ucie = s.ucie := rfl
@[simp] theorem State.modCluster_remaps (s : State) (c : Nat) (f : Cluster → Cluster) : (s.modCluster c f).remaps = s.remaps := rfl
@[simp] theorem State.modCluster_ports (s : State) (c : Nat) (f : Cluster → Cluster) : (s.modCluster c f).ports = s.ports := rfl
@[simp] theorem State.modCluster_rrPlane (s : State) (c : Nat) (f : Cluster → Cluster) : (s.modCluster c f).rrPlane = s.rrPlane := rfl
@[simp] theorem State.modCluster_emptySince (s : State) (c : Nat) (f : Cluster → Cluster) : (s.modCluster c f).emptySince = s.emptySince := rfl
@[simp] theorem State.modCluster_outStreams (s : State) (c : Nat) (f : Cluster → Cluster) : (s.modCluster c f).outStreams = s.outStreams := rfl
@[simp] theorem State.modCluster_far (s : State) (c : Nat) (f : Cluster → Cluster) : (s.modCluster c f).far = s.far := rfl
@[simp] theorem State.modCluster_inStreams (s : State) (c : Nat) (f : Cluster → Cluster) : (s.modCluster c f).inStreams = s.inStreams := rfl
@[simp] theorem State.modCluster_fabOut (s : State) (c : Nat) (f : Cluster → Cluster) : (s.modCluster c f).fabOut = s.fabOut := rfl
@[simp] theorem State.modCluster_collIn (s : State) (c : Nat) (f : Cluster → Cluster) : (s.modCluster c f).collIn = s.collIn := rfl
@[simp] theorem State.modCluster_collFailed (s : State) (c : Nat) (f : Cluster → Cluster) : (s.modCluster c f).collFailed = s.collFailed := rfl
@[simp] theorem State.modCluster_inbox (s : State) (c : Nat) (f : Cluster → Cluster) : (s.modCluster c f).inbox = s.inbox := rfl
@[simp] theorem State.modCluster_seq (s : State) (c : Nat) (f : Cluster → Cluster) : (s.modCluster c f).seq = s.seq := rfl

/-! ### modPart -/

@[simp] theorem State.modPart_clk (s : State) (p : Nat) (f : Part → Part) : (s.modPart p f).clk = s.clk := rfl
@[simp] theorem State.modPart_ptp (s : State) (p : Nat) (f : Part → Part) : (s.modPart p f).ptp = s.ptp := rfl
@[simp] theorem State.modPart_mhz (s : State) (p : Nat) (f : Part → Part) : (s.modPart p f).mhz = s.mhz := rfl
@[simp] theorem State.modPart_clearSince (s : State) (p : Nat) (f : Part → Part) : (s.modPart p f).clearSince = s.clearSince := rfl
@[simp] theorem State.modPart_lastLid (s : State) (p : Nat) (f : Part → Part) : (s.modPart p f).lastLid = s.lastLid := rfl
@[simp] theorem State.modPart_nextId (s : State) (p : Nat) (f : Part → Part) : (s.modPart p f).nextId = s.nextId := rfl
@[simp] theorem State.modPart_cur (s : State) (p : Nat) (f : Part → Part) : (s.modPart p f).cur = s.cur := rfl
@[simp] theorem State.modPart_agenda (s : State) (p : Nat) (f : Part → Part) : (s.modPart p f).agenda = s.agenda := rfl
@[simp] theorem State.modPart_wakes (s : State) (p : Nat) (f : Part → Part) : (s.modPart p f).wakes = s.wakes := rfl
@[simp] theorem State.modPart_mem (s : State) (p : Nat) (f : Part → Part) : (s.modPart p f).mem = s.mem := rfl
@[simp] theorem State.modPart_poison (s : State) (p : Nat) (f : Part → Part) : (s.modPart p f).poison = s.poison := rfl
@[simp] theorem State.modPart_corrected (s : State) (p : Nat) (f : Part → Part) : (s.modPart p f).corrected = s.corrected := rfl
@[simp] theorem State.modPart_csem (s : State) (p : Nat) (f : Part → Part) : (s.modPart p f).csem = s.csem := rfl
@[simp] theorem State.modPart_cerr (s : State) (p : Nat) (f : Part → Part) : (s.modPart p f).cerr = s.cerr := rfl
@[simp] theorem State.modPart_rdy (s : State) (p : Nat) (f : Part → Part) : (s.modPart p f).rdy = s.rdy := rfl
@[simp] theorem State.modPart_vrdy (s : State) (p : Nat) (f : Part → Part) : (s.modPart p f).vrdy = s.vrdy := rfl
@[simp] theorem State.modPart_frdy (s : State) (p : Nat) (f : Part → Part) : (s.modPart p f).frdy = s.frdy := rfl
@[simp] theorem State.modPart_podcfg (s : State) (p : Nat) (f : Part → Part) : (s.modPart p f).podcfg = s.podcfg := rfl
@[simp] theorem State.modPart_fabev (s : State) (p : Nat) (f : Part → Part) : (s.modPart p f).fabev = s.fabev := rfl
@[simp] theorem State.modPart_staged (s : State) (p : Nat) (f : Part → Part) : (s.modPart p f).staged = s.staged := rfl
@[simp] theorem State.modPart_heats (s : State) (p : Nat) (f : Part → Part) : (s.modPart p f).heats = s.heats := rfl
@[simp] theorem State.modPart_fuse (s : State) (p : Nat) (f : Part → Part) : (s.modPart p f).fuse = s.fuse := rfl
@[simp] theorem State.modPart_pmask (s : State) (p : Nat) (f : Part → Part) : (s.modPart p f).pmask = s.pmask := rfl
@[simp] theorem State.modPart_comms (s : State) (p : Nat) (f : Part → Part) : (s.modPart p f).comms = s.comms := rfl
@[simp] theorem State.modPart_mr (s : State) (p : Nat) (f : Part → Part) : (s.modPart p f).mr = s.mr := rfl
@[simp] theorem State.modPart_msix (s : State) (p : Nat) (f : Part → Part) : (s.modPart p f).msix = s.msix := rfl
@[simp] theorem State.modPart_msixPend (s : State) (p : Nat) (f : Part → Part) : (s.modPart p f).msixPend = s.msixPend := rfl
@[simp] theorem State.modPart_vectors (s : State) (p : Nat) (f : Part → Part) : (s.modPart p f).vectors = s.vectors := rfl
@[simp] theorem State.modPart_mailbox (s : State) (p : Nat) (f : Part → Part) : (s.modPart p f).mailbox = s.mailbox := rfl
@[simp] theorem State.modPart_flashA (s : State) (p : Nat) (f : Part → Part) : (s.modPart p f).flashA = s.flashA := rfl
@[simp] theorem State.modPart_flashB (s : State) (p : Nat) (f : Part → Part) : (s.modPart p f).flashB = s.flashB := rfl
@[simp] theorem State.modPart_fwSvn (s : State) (p : Nat) (f : Part → Part) : (s.modPart p f).fwSvn = s.fwSvn := rfl
@[simp] theorem State.modPart_refused (s : State) (p : Nat) (f : Part → Part) : (s.modPart p f).refused = s.refused := rfl
@[simp] theorem State.modPart_replies (s : State) (p : Nat) (f : Part → Part) : (s.modPart p f).replies = s.replies := rfl
@[simp] theorem State.modPart_parts (s : State) (p : Nat) (f : Part → Part) : (s.modPart p f).parts = s.parts.update p {} f := rfl
@[simp] theorem State.modPart_nodes (s : State) (p : Nat) (f : Part → Part) : (s.modPart p f).nodes = s.nodes := rfl
@[simp] theorem State.modPart_teams (s : State) (p : Nat) (f : Part → Part) : (s.modPart p f).teams = s.teams := rfl
@[simp] theorem State.modPart_cores (s : State) (p : Nat) (f : Part → Part) : (s.modPart p f).cores = s.cores := rfl
@[simp] theorem State.modPart_clusters (s : State) (p : Nat) (f : Part → Part) : (s.modPart p f).clusters = s.clusters := rfl
@[simp] theorem State.modPart_slices (s : State) (p : Nat) (f : Part → Part) : (s.modPart p f).slices = s.slices := rfl
@[simp] theorem State.modPart_dies (s : State) (p : Nat) (f : Part → Part) : (s.modPart p f).dies = s.dies := rfl
@[simp] theorem State.modPart_net (s : State) (p : Nat) (f : Part → Part) : (s.modPart p f).net = s.net := rfl
@[simp] theorem State.modPart_outst (s : State) (p : Nat) (f : Part → Part) : (s.modPart p f).outst = s.outst := rfl
@[simp] theorem State.modPart_fly (s : State) (p : Nat) (f : Part → Part) : (s.modPart p f).fly = s.fly := rfl
@[simp] theorem State.modPart_invals (s : State) (p : Nat) (f : Part → Part) : (s.modPart p f).invals = s.invals := rfl
@[simp] theorem State.modPart_drops (s : State) (p : Nat) (f : Part → Part) : (s.modPart p f).drops = s.drops := rfl
@[simp] theorem State.modPart_pkts (s : State) (p : Nat) (f : Part → Part) : (s.modPart p f).pkts = s.pkts := rfl
@[simp] theorem State.modPart_rr (s : State) (p : Nat) (f : Part → Part) : (s.modPart p f).rr = s.rr := rfl
@[simp] theorem State.modPart_qeNext (s : State) (p : Nat) (f : Part → Part) : (s.modPart p f).qeNext = s.qeNext := rfl
@[simp] theorem State.modPart_ucie (s : State) (p : Nat) (f : Part → Part) : (s.modPart p f).ucie = s.ucie := rfl
@[simp] theorem State.modPart_remaps (s : State) (p : Nat) (f : Part → Part) : (s.modPart p f).remaps = s.remaps := rfl
@[simp] theorem State.modPart_ports (s : State) (p : Nat) (f : Part → Part) : (s.modPart p f).ports = s.ports := rfl
@[simp] theorem State.modPart_rrPlane (s : State) (p : Nat) (f : Part → Part) : (s.modPart p f).rrPlane = s.rrPlane := rfl
@[simp] theorem State.modPart_emptySince (s : State) (p : Nat) (f : Part → Part) : (s.modPart p f).emptySince = s.emptySince := rfl
@[simp] theorem State.modPart_outStreams (s : State) (p : Nat) (f : Part → Part) : (s.modPart p f).outStreams = s.outStreams := rfl
@[simp] theorem State.modPart_far (s : State) (p : Nat) (f : Part → Part) : (s.modPart p f).far = s.far := rfl
@[simp] theorem State.modPart_inStreams (s : State) (p : Nat) (f : Part → Part) : (s.modPart p f).inStreams = s.inStreams := rfl
@[simp] theorem State.modPart_fabOut (s : State) (p : Nat) (f : Part → Part) : (s.modPart p f).fabOut = s.fabOut := rfl
@[simp] theorem State.modPart_collIn (s : State) (p : Nat) (f : Part → Part) : (s.modPart p f).collIn = s.collIn := rfl
@[simp] theorem State.modPart_collFailed (s : State) (p : Nat) (f : Part → Part) : (s.modPart p f).collFailed = s.collFailed := rfl
@[simp] theorem State.modPart_inbox (s : State) (p : Nat) (f : Part → Part) : (s.modPart p f).inbox = s.inbox := rfl
@[simp] theorem State.modPart_seq (s : State) (p : Nat) (f : Part → Part) : (s.modPart p f).seq = s.seq := rfl

/-! ### modSlice -/

@[simp] theorem State.modSlice_clk (s : State) (i : Nat) (f : Slice → Slice) : (s.modSlice i f).clk = s.clk := rfl
@[simp] theorem State.modSlice_ptp (s : State) (i : Nat) (f : Slice → Slice) : (s.modSlice i f).ptp = s.ptp := rfl
@[simp] theorem State.modSlice_mhz (s : State) (i : Nat) (f : Slice → Slice) : (s.modSlice i f).mhz = s.mhz := rfl
@[simp] theorem State.modSlice_clearSince (s : State) (i : Nat) (f : Slice → Slice) : (s.modSlice i f).clearSince = s.clearSince := rfl
@[simp] theorem State.modSlice_lastLid (s : State) (i : Nat) (f : Slice → Slice) : (s.modSlice i f).lastLid = s.lastLid := rfl
@[simp] theorem State.modSlice_nextId (s : State) (i : Nat) (f : Slice → Slice) : (s.modSlice i f).nextId = s.nextId := rfl
@[simp] theorem State.modSlice_cur (s : State) (i : Nat) (f : Slice → Slice) : (s.modSlice i f).cur = s.cur := rfl
@[simp] theorem State.modSlice_agenda (s : State) (i : Nat) (f : Slice → Slice) : (s.modSlice i f).agenda = s.agenda := rfl
@[simp] theorem State.modSlice_wakes (s : State) (i : Nat) (f : Slice → Slice) : (s.modSlice i f).wakes = s.wakes := rfl
@[simp] theorem State.modSlice_mem (s : State) (i : Nat) (f : Slice → Slice) : (s.modSlice i f).mem = s.mem := rfl
@[simp] theorem State.modSlice_poison (s : State) (i : Nat) (f : Slice → Slice) : (s.modSlice i f).poison = s.poison := rfl
@[simp] theorem State.modSlice_corrected (s : State) (i : Nat) (f : Slice → Slice) : (s.modSlice i f).corrected = s.corrected := rfl
@[simp] theorem State.modSlice_csem (s : State) (i : Nat) (f : Slice → Slice) : (s.modSlice i f).csem = s.csem := rfl
@[simp] theorem State.modSlice_cerr (s : State) (i : Nat) (f : Slice → Slice) : (s.modSlice i f).cerr = s.cerr := rfl
@[simp] theorem State.modSlice_rdy (s : State) (i : Nat) (f : Slice → Slice) : (s.modSlice i f).rdy = s.rdy := rfl
@[simp] theorem State.modSlice_vrdy (s : State) (i : Nat) (f : Slice → Slice) : (s.modSlice i f).vrdy = s.vrdy := rfl
@[simp] theorem State.modSlice_frdy (s : State) (i : Nat) (f : Slice → Slice) : (s.modSlice i f).frdy = s.frdy := rfl
@[simp] theorem State.modSlice_podcfg (s : State) (i : Nat) (f : Slice → Slice) : (s.modSlice i f).podcfg = s.podcfg := rfl
@[simp] theorem State.modSlice_fabev (s : State) (i : Nat) (f : Slice → Slice) : (s.modSlice i f).fabev = s.fabev := rfl
@[simp] theorem State.modSlice_staged (s : State) (i : Nat) (f : Slice → Slice) : (s.modSlice i f).staged = s.staged := rfl
@[simp] theorem State.modSlice_heats (s : State) (i : Nat) (f : Slice → Slice) : (s.modSlice i f).heats = s.heats := rfl
@[simp] theorem State.modSlice_fuse (s : State) (i : Nat) (f : Slice → Slice) : (s.modSlice i f).fuse = s.fuse := rfl
@[simp] theorem State.modSlice_pmask (s : State) (i : Nat) (f : Slice → Slice) : (s.modSlice i f).pmask = s.pmask := rfl
@[simp] theorem State.modSlice_comms (s : State) (i : Nat) (f : Slice → Slice) : (s.modSlice i f).comms = s.comms := rfl
@[simp] theorem State.modSlice_mr (s : State) (i : Nat) (f : Slice → Slice) : (s.modSlice i f).mr = s.mr := rfl
@[simp] theorem State.modSlice_msix (s : State) (i : Nat) (f : Slice → Slice) : (s.modSlice i f).msix = s.msix := rfl
@[simp] theorem State.modSlice_msixPend (s : State) (i : Nat) (f : Slice → Slice) : (s.modSlice i f).msixPend = s.msixPend := rfl
@[simp] theorem State.modSlice_vectors (s : State) (i : Nat) (f : Slice → Slice) : (s.modSlice i f).vectors = s.vectors := rfl
@[simp] theorem State.modSlice_mailbox (s : State) (i : Nat) (f : Slice → Slice) : (s.modSlice i f).mailbox = s.mailbox := rfl
@[simp] theorem State.modSlice_flashA (s : State) (i : Nat) (f : Slice → Slice) : (s.modSlice i f).flashA = s.flashA := rfl
@[simp] theorem State.modSlice_flashB (s : State) (i : Nat) (f : Slice → Slice) : (s.modSlice i f).flashB = s.flashB := rfl
@[simp] theorem State.modSlice_fwSvn (s : State) (i : Nat) (f : Slice → Slice) : (s.modSlice i f).fwSvn = s.fwSvn := rfl
@[simp] theorem State.modSlice_refused (s : State) (i : Nat) (f : Slice → Slice) : (s.modSlice i f).refused = s.refused := rfl
@[simp] theorem State.modSlice_replies (s : State) (i : Nat) (f : Slice → Slice) : (s.modSlice i f).replies = s.replies := rfl
@[simp] theorem State.modSlice_parts (s : State) (i : Nat) (f : Slice → Slice) : (s.modSlice i f).parts = s.parts := rfl
@[simp] theorem State.modSlice_nodes (s : State) (i : Nat) (f : Slice → Slice) : (s.modSlice i f).nodes = s.nodes := rfl
@[simp] theorem State.modSlice_teams (s : State) (i : Nat) (f : Slice → Slice) : (s.modSlice i f).teams = s.teams := rfl
@[simp] theorem State.modSlice_cores (s : State) (i : Nat) (f : Slice → Slice) : (s.modSlice i f).cores = s.cores := rfl
@[simp] theorem State.modSlice_clusters (s : State) (i : Nat) (f : Slice → Slice) : (s.modSlice i f).clusters = s.clusters := rfl
@[simp] theorem State.modSlice_slices (s : State) (i : Nat) (f : Slice → Slice) : (s.modSlice i f).slices = s.slices.update i {} f := rfl
@[simp] theorem State.modSlice_dies (s : State) (i : Nat) (f : Slice → Slice) : (s.modSlice i f).dies = s.dies := rfl
@[simp] theorem State.modSlice_net (s : State) (i : Nat) (f : Slice → Slice) : (s.modSlice i f).net = s.net := rfl
@[simp] theorem State.modSlice_outst (s : State) (i : Nat) (f : Slice → Slice) : (s.modSlice i f).outst = s.outst := rfl
@[simp] theorem State.modSlice_fly (s : State) (i : Nat) (f : Slice → Slice) : (s.modSlice i f).fly = s.fly := rfl
@[simp] theorem State.modSlice_invals (s : State) (i : Nat) (f : Slice → Slice) : (s.modSlice i f).invals = s.invals := rfl
@[simp] theorem State.modSlice_drops (s : State) (i : Nat) (f : Slice → Slice) : (s.modSlice i f).drops = s.drops := rfl
@[simp] theorem State.modSlice_pkts (s : State) (i : Nat) (f : Slice → Slice) : (s.modSlice i f).pkts = s.pkts := rfl
@[simp] theorem State.modSlice_rr (s : State) (i : Nat) (f : Slice → Slice) : (s.modSlice i f).rr = s.rr := rfl
@[simp] theorem State.modSlice_qeNext (s : State) (i : Nat) (f : Slice → Slice) : (s.modSlice i f).qeNext = s.qeNext := rfl
@[simp] theorem State.modSlice_ucie (s : State) (i : Nat) (f : Slice → Slice) : (s.modSlice i f).ucie = s.ucie := rfl
@[simp] theorem State.modSlice_remaps (s : State) (i : Nat) (f : Slice → Slice) : (s.modSlice i f).remaps = s.remaps := rfl
@[simp] theorem State.modSlice_ports (s : State) (i : Nat) (f : Slice → Slice) : (s.modSlice i f).ports = s.ports := rfl
@[simp] theorem State.modSlice_rrPlane (s : State) (i : Nat) (f : Slice → Slice) : (s.modSlice i f).rrPlane = s.rrPlane := rfl
@[simp] theorem State.modSlice_emptySince (s : State) (i : Nat) (f : Slice → Slice) : (s.modSlice i f).emptySince = s.emptySince := rfl
@[simp] theorem State.modSlice_outStreams (s : State) (i : Nat) (f : Slice → Slice) : (s.modSlice i f).outStreams = s.outStreams := rfl
@[simp] theorem State.modSlice_far (s : State) (i : Nat) (f : Slice → Slice) : (s.modSlice i f).far = s.far := rfl
@[simp] theorem State.modSlice_inStreams (s : State) (i : Nat) (f : Slice → Slice) : (s.modSlice i f).inStreams = s.inStreams := rfl
@[simp] theorem State.modSlice_fabOut (s : State) (i : Nat) (f : Slice → Slice) : (s.modSlice i f).fabOut = s.fabOut := rfl
@[simp] theorem State.modSlice_collIn (s : State) (i : Nat) (f : Slice → Slice) : (s.modSlice i f).collIn = s.collIn := rfl
@[simp] theorem State.modSlice_collFailed (s : State) (i : Nat) (f : Slice → Slice) : (s.modSlice i f).collFailed = s.collFailed := rfl
@[simp] theorem State.modSlice_inbox (s : State) (i : Nat) (f : Slice → Slice) : (s.modSlice i f).inbox = s.inbox := rfl
@[simp] theorem State.modSlice_seq (s : State) (i : Nat) (f : Slice → Slice) : (s.modSlice i f).seq = s.seq := rfl

/-! ### modDie -/

@[simp] theorem State.modDie_clk (s : State) (d : Nat) (f : Die → Die) : (s.modDie d f).clk = s.clk := rfl
@[simp] theorem State.modDie_ptp (s : State) (d : Nat) (f : Die → Die) : (s.modDie d f).ptp = s.ptp := rfl
@[simp] theorem State.modDie_mhz (s : State) (d : Nat) (f : Die → Die) : (s.modDie d f).mhz = s.mhz := rfl
@[simp] theorem State.modDie_clearSince (s : State) (d : Nat) (f : Die → Die) : (s.modDie d f).clearSince = s.clearSince := rfl
@[simp] theorem State.modDie_lastLid (s : State) (d : Nat) (f : Die → Die) : (s.modDie d f).lastLid = s.lastLid := rfl
@[simp] theorem State.modDie_nextId (s : State) (d : Nat) (f : Die → Die) : (s.modDie d f).nextId = s.nextId := rfl
@[simp] theorem State.modDie_cur (s : State) (d : Nat) (f : Die → Die) : (s.modDie d f).cur = s.cur := rfl
@[simp] theorem State.modDie_agenda (s : State) (d : Nat) (f : Die → Die) : (s.modDie d f).agenda = s.agenda := rfl
@[simp] theorem State.modDie_wakes (s : State) (d : Nat) (f : Die → Die) : (s.modDie d f).wakes = s.wakes := rfl
@[simp] theorem State.modDie_mem (s : State) (d : Nat) (f : Die → Die) : (s.modDie d f).mem = s.mem := rfl
@[simp] theorem State.modDie_poison (s : State) (d : Nat) (f : Die → Die) : (s.modDie d f).poison = s.poison := rfl
@[simp] theorem State.modDie_corrected (s : State) (d : Nat) (f : Die → Die) : (s.modDie d f).corrected = s.corrected := rfl
@[simp] theorem State.modDie_csem (s : State) (d : Nat) (f : Die → Die) : (s.modDie d f).csem = s.csem := rfl
@[simp] theorem State.modDie_cerr (s : State) (d : Nat) (f : Die → Die) : (s.modDie d f).cerr = s.cerr := rfl
@[simp] theorem State.modDie_rdy (s : State) (d : Nat) (f : Die → Die) : (s.modDie d f).rdy = s.rdy := rfl
@[simp] theorem State.modDie_vrdy (s : State) (d : Nat) (f : Die → Die) : (s.modDie d f).vrdy = s.vrdy := rfl
@[simp] theorem State.modDie_frdy (s : State) (d : Nat) (f : Die → Die) : (s.modDie d f).frdy = s.frdy := rfl
@[simp] theorem State.modDie_podcfg (s : State) (d : Nat) (f : Die → Die) : (s.modDie d f).podcfg = s.podcfg := rfl
@[simp] theorem State.modDie_fabev (s : State) (d : Nat) (f : Die → Die) : (s.modDie d f).fabev = s.fabev := rfl
@[simp] theorem State.modDie_staged (s : State) (d : Nat) (f : Die → Die) : (s.modDie d f).staged = s.staged := rfl
@[simp] theorem State.modDie_heats (s : State) (d : Nat) (f : Die → Die) : (s.modDie d f).heats = s.heats := rfl
@[simp] theorem State.modDie_fuse (s : State) (d : Nat) (f : Die → Die) : (s.modDie d f).fuse = s.fuse := rfl
@[simp] theorem State.modDie_pmask (s : State) (d : Nat) (f : Die → Die) : (s.modDie d f).pmask = s.pmask := rfl
@[simp] theorem State.modDie_comms (s : State) (d : Nat) (f : Die → Die) : (s.modDie d f).comms = s.comms := rfl
@[simp] theorem State.modDie_mr (s : State) (d : Nat) (f : Die → Die) : (s.modDie d f).mr = s.mr := rfl
@[simp] theorem State.modDie_msix (s : State) (d : Nat) (f : Die → Die) : (s.modDie d f).msix = s.msix := rfl
@[simp] theorem State.modDie_msixPend (s : State) (d : Nat) (f : Die → Die) : (s.modDie d f).msixPend = s.msixPend := rfl
@[simp] theorem State.modDie_vectors (s : State) (d : Nat) (f : Die → Die) : (s.modDie d f).vectors = s.vectors := rfl
@[simp] theorem State.modDie_mailbox (s : State) (d : Nat) (f : Die → Die) : (s.modDie d f).mailbox = s.mailbox := rfl
@[simp] theorem State.modDie_flashA (s : State) (d : Nat) (f : Die → Die) : (s.modDie d f).flashA = s.flashA := rfl
@[simp] theorem State.modDie_flashB (s : State) (d : Nat) (f : Die → Die) : (s.modDie d f).flashB = s.flashB := rfl
@[simp] theorem State.modDie_fwSvn (s : State) (d : Nat) (f : Die → Die) : (s.modDie d f).fwSvn = s.fwSvn := rfl
@[simp] theorem State.modDie_refused (s : State) (d : Nat) (f : Die → Die) : (s.modDie d f).refused = s.refused := rfl
@[simp] theorem State.modDie_replies (s : State) (d : Nat) (f : Die → Die) : (s.modDie d f).replies = s.replies := rfl
@[simp] theorem State.modDie_parts (s : State) (d : Nat) (f : Die → Die) : (s.modDie d f).parts = s.parts := rfl
@[simp] theorem State.modDie_nodes (s : State) (d : Nat) (f : Die → Die) : (s.modDie d f).nodes = s.nodes := rfl
@[simp] theorem State.modDie_teams (s : State) (d : Nat) (f : Die → Die) : (s.modDie d f).teams = s.teams := rfl
@[simp] theorem State.modDie_cores (s : State) (d : Nat) (f : Die → Die) : (s.modDie d f).cores = s.cores := rfl
@[simp] theorem State.modDie_clusters (s : State) (d : Nat) (f : Die → Die) : (s.modDie d f).clusters = s.clusters := rfl
@[simp] theorem State.modDie_slices (s : State) (d : Nat) (f : Die → Die) : (s.modDie d f).slices = s.slices := rfl
@[simp] theorem State.modDie_dies (s : State) (d : Nat) (f : Die → Die) : (s.modDie d f).dies = s.dies.update d {} f := rfl
@[simp] theorem State.modDie_net (s : State) (d : Nat) (f : Die → Die) : (s.modDie d f).net = s.net := rfl
@[simp] theorem State.modDie_outst (s : State) (d : Nat) (f : Die → Die) : (s.modDie d f).outst = s.outst := rfl
@[simp] theorem State.modDie_fly (s : State) (d : Nat) (f : Die → Die) : (s.modDie d f).fly = s.fly := rfl
@[simp] theorem State.modDie_invals (s : State) (d : Nat) (f : Die → Die) : (s.modDie d f).invals = s.invals := rfl
@[simp] theorem State.modDie_drops (s : State) (d : Nat) (f : Die → Die) : (s.modDie d f).drops = s.drops := rfl
@[simp] theorem State.modDie_pkts (s : State) (d : Nat) (f : Die → Die) : (s.modDie d f).pkts = s.pkts := rfl
@[simp] theorem State.modDie_rr (s : State) (d : Nat) (f : Die → Die) : (s.modDie d f).rr = s.rr := rfl
@[simp] theorem State.modDie_qeNext (s : State) (d : Nat) (f : Die → Die) : (s.modDie d f).qeNext = s.qeNext := rfl
@[simp] theorem State.modDie_ucie (s : State) (d : Nat) (f : Die → Die) : (s.modDie d f).ucie = s.ucie := rfl
@[simp] theorem State.modDie_remaps (s : State) (d : Nat) (f : Die → Die) : (s.modDie d f).remaps = s.remaps := rfl
@[simp] theorem State.modDie_ports (s : State) (d : Nat) (f : Die → Die) : (s.modDie d f).ports = s.ports := rfl
@[simp] theorem State.modDie_rrPlane (s : State) (d : Nat) (f : Die → Die) : (s.modDie d f).rrPlane = s.rrPlane := rfl
@[simp] theorem State.modDie_emptySince (s : State) (d : Nat) (f : Die → Die) : (s.modDie d f).emptySince = s.emptySince := rfl
@[simp] theorem State.modDie_outStreams (s : State) (d : Nat) (f : Die → Die) : (s.modDie d f).outStreams = s.outStreams := rfl
@[simp] theorem State.modDie_far (s : State) (d : Nat) (f : Die → Die) : (s.modDie d f).far = s.far := rfl
@[simp] theorem State.modDie_inStreams (s : State) (d : Nat) (f : Die → Die) : (s.modDie d f).inStreams = s.inStreams := rfl
@[simp] theorem State.modDie_fabOut (s : State) (d : Nat) (f : Die → Die) : (s.modDie d f).fabOut = s.fabOut := rfl
@[simp] theorem State.modDie_collIn (s : State) (d : Nat) (f : Die → Die) : (s.modDie d f).collIn = s.collIn := rfl
@[simp] theorem State.modDie_collFailed (s : State) (d : Nat) (f : Die → Die) : (s.modDie d f).collFailed = s.collFailed := rfl
@[simp] theorem State.modDie_inbox (s : State) (d : Nat) (f : Die → Die) : (s.modDie d f).inbox = s.inbox := rfl
@[simp] theorem State.modDie_seq (s : State) (d : Nat) (f : Die → Die) : (s.modDie d f).seq = s.seq := rfl

/-! ### modNode -/

@[simp] theorem State.modNode_clk (s : State) (n : Nat) (f : Node → Node) : (s.modNode n f).clk = s.clk := rfl
@[simp] theorem State.modNode_ptp (s : State) (n : Nat) (f : Node → Node) : (s.modNode n f).ptp = s.ptp := rfl
@[simp] theorem State.modNode_mhz (s : State) (n : Nat) (f : Node → Node) : (s.modNode n f).mhz = s.mhz := rfl
@[simp] theorem State.modNode_clearSince (s : State) (n : Nat) (f : Node → Node) : (s.modNode n f).clearSince = s.clearSince := rfl
@[simp] theorem State.modNode_lastLid (s : State) (n : Nat) (f : Node → Node) : (s.modNode n f).lastLid = s.lastLid := rfl
@[simp] theorem State.modNode_nextId (s : State) (n : Nat) (f : Node → Node) : (s.modNode n f).nextId = s.nextId := rfl
@[simp] theorem State.modNode_cur (s : State) (n : Nat) (f : Node → Node) : (s.modNode n f).cur = s.cur := rfl
@[simp] theorem State.modNode_agenda (s : State) (n : Nat) (f : Node → Node) : (s.modNode n f).agenda = s.agenda := rfl
@[simp] theorem State.modNode_wakes (s : State) (n : Nat) (f : Node → Node) : (s.modNode n f).wakes = s.wakes := rfl
@[simp] theorem State.modNode_mem (s : State) (n : Nat) (f : Node → Node) : (s.modNode n f).mem = s.mem := rfl
@[simp] theorem State.modNode_poison (s : State) (n : Nat) (f : Node → Node) : (s.modNode n f).poison = s.poison := rfl
@[simp] theorem State.modNode_corrected (s : State) (n : Nat) (f : Node → Node) : (s.modNode n f).corrected = s.corrected := rfl
@[simp] theorem State.modNode_csem (s : State) (n : Nat) (f : Node → Node) : (s.modNode n f).csem = s.csem := rfl
@[simp] theorem State.modNode_cerr (s : State) (n : Nat) (f : Node → Node) : (s.modNode n f).cerr = s.cerr := rfl
@[simp] theorem State.modNode_rdy (s : State) (n : Nat) (f : Node → Node) : (s.modNode n f).rdy = s.rdy := rfl
@[simp] theorem State.modNode_vrdy (s : State) (n : Nat) (f : Node → Node) : (s.modNode n f).vrdy = s.vrdy := rfl
@[simp] theorem State.modNode_frdy (s : State) (n : Nat) (f : Node → Node) : (s.modNode n f).frdy = s.frdy := rfl
@[simp] theorem State.modNode_podcfg (s : State) (n : Nat) (f : Node → Node) : (s.modNode n f).podcfg = s.podcfg := rfl
@[simp] theorem State.modNode_fabev (s : State) (n : Nat) (f : Node → Node) : (s.modNode n f).fabev = s.fabev := rfl
@[simp] theorem State.modNode_staged (s : State) (n : Nat) (f : Node → Node) : (s.modNode n f).staged = s.staged := rfl
@[simp] theorem State.modNode_heats (s : State) (n : Nat) (f : Node → Node) : (s.modNode n f).heats = s.heats := rfl
@[simp] theorem State.modNode_fuse (s : State) (n : Nat) (f : Node → Node) : (s.modNode n f).fuse = s.fuse := rfl
@[simp] theorem State.modNode_pmask (s : State) (n : Nat) (f : Node → Node) : (s.modNode n f).pmask = s.pmask := rfl
@[simp] theorem State.modNode_comms (s : State) (n : Nat) (f : Node → Node) : (s.modNode n f).comms = s.comms := rfl
@[simp] theorem State.modNode_mr (s : State) (n : Nat) (f : Node → Node) : (s.modNode n f).mr = s.mr := rfl
@[simp] theorem State.modNode_msix (s : State) (n : Nat) (f : Node → Node) : (s.modNode n f).msix = s.msix := rfl
@[simp] theorem State.modNode_msixPend (s : State) (n : Nat) (f : Node → Node) : (s.modNode n f).msixPend = s.msixPend := rfl
@[simp] theorem State.modNode_vectors (s : State) (n : Nat) (f : Node → Node) : (s.modNode n f).vectors = s.vectors := rfl
@[simp] theorem State.modNode_mailbox (s : State) (n : Nat) (f : Node → Node) : (s.modNode n f).mailbox = s.mailbox := rfl
@[simp] theorem State.modNode_flashA (s : State) (n : Nat) (f : Node → Node) : (s.modNode n f).flashA = s.flashA := rfl
@[simp] theorem State.modNode_flashB (s : State) (n : Nat) (f : Node → Node) : (s.modNode n f).flashB = s.flashB := rfl
@[simp] theorem State.modNode_fwSvn (s : State) (n : Nat) (f : Node → Node) : (s.modNode n f).fwSvn = s.fwSvn := rfl
@[simp] theorem State.modNode_refused (s : State) (n : Nat) (f : Node → Node) : (s.modNode n f).refused = s.refused := rfl
@[simp] theorem State.modNode_replies (s : State) (n : Nat) (f : Node → Node) : (s.modNode n f).replies = s.replies := rfl
@[simp] theorem State.modNode_parts (s : State) (n : Nat) (f : Node → Node) : (s.modNode n f).parts = s.parts := rfl
@[simp] theorem State.modNode_nodes (s : State) (n : Nat) (f : Node → Node) : (s.modNode n f).nodes = s.nodes.modify n f := rfl
@[simp] theorem State.modNode_teams (s : State) (n : Nat) (f : Node → Node) : (s.modNode n f).teams = s.teams := rfl
@[simp] theorem State.modNode_cores (s : State) (n : Nat) (f : Node → Node) : (s.modNode n f).cores = s.cores := rfl
@[simp] theorem State.modNode_clusters (s : State) (n : Nat) (f : Node → Node) : (s.modNode n f).clusters = s.clusters := rfl
@[simp] theorem State.modNode_slices (s : State) (n : Nat) (f : Node → Node) : (s.modNode n f).slices = s.slices := rfl
@[simp] theorem State.modNode_dies (s : State) (n : Nat) (f : Node → Node) : (s.modNode n f).dies = s.dies := rfl
@[simp] theorem State.modNode_net (s : State) (n : Nat) (f : Node → Node) : (s.modNode n f).net = s.net := rfl
@[simp] theorem State.modNode_outst (s : State) (n : Nat) (f : Node → Node) : (s.modNode n f).outst = s.outst := rfl
@[simp] theorem State.modNode_fly (s : State) (n : Nat) (f : Node → Node) : (s.modNode n f).fly = s.fly := rfl
@[simp] theorem State.modNode_invals (s : State) (n : Nat) (f : Node → Node) : (s.modNode n f).invals = s.invals := rfl
@[simp] theorem State.modNode_drops (s : State) (n : Nat) (f : Node → Node) : (s.modNode n f).drops = s.drops := rfl
@[simp] theorem State.modNode_pkts (s : State) (n : Nat) (f : Node → Node) : (s.modNode n f).pkts = s.pkts := rfl
@[simp] theorem State.modNode_rr (s : State) (n : Nat) (f : Node → Node) : (s.modNode n f).rr = s.rr := rfl
@[simp] theorem State.modNode_qeNext (s : State) (n : Nat) (f : Node → Node) : (s.modNode n f).qeNext = s.qeNext := rfl
@[simp] theorem State.modNode_ucie (s : State) (n : Nat) (f : Node → Node) : (s.modNode n f).ucie = s.ucie := rfl
@[simp] theorem State.modNode_remaps (s : State) (n : Nat) (f : Node → Node) : (s.modNode n f).remaps = s.remaps := rfl
@[simp] theorem State.modNode_ports (s : State) (n : Nat) (f : Node → Node) : (s.modNode n f).ports = s.ports := rfl
@[simp] theorem State.modNode_rrPlane (s : State) (n : Nat) (f : Node → Node) : (s.modNode n f).rrPlane = s.rrPlane := rfl
@[simp] theorem State.modNode_emptySince (s : State) (n : Nat) (f : Node → Node) : (s.modNode n f).emptySince = s.emptySince := rfl
@[simp] theorem State.modNode_outStreams (s : State) (n : Nat) (f : Node → Node) : (s.modNode n f).outStreams = s.outStreams := rfl
@[simp] theorem State.modNode_far (s : State) (n : Nat) (f : Node → Node) : (s.modNode n f).far = s.far := rfl
@[simp] theorem State.modNode_inStreams (s : State) (n : Nat) (f : Node → Node) : (s.modNode n f).inStreams = s.inStreams := rfl
@[simp] theorem State.modNode_fabOut (s : State) (n : Nat) (f : Node → Node) : (s.modNode n f).fabOut = s.fabOut := rfl
@[simp] theorem State.modNode_collIn (s : State) (n : Nat) (f : Node → Node) : (s.modNode n f).collIn = s.collIn := rfl
@[simp] theorem State.modNode_collFailed (s : State) (n : Nat) (f : Node → Node) : (s.modNode n f).collFailed = s.collFailed := rfl
@[simp] theorem State.modNode_inbox (s : State) (n : Nat) (f : Node → Node) : (s.modNode n f).inbox = s.inbox := rfl
@[simp] theorem State.modNode_seq (s : State) (n : Nat) (f : Node → Node) : (s.modNode n f).seq = s.seq := rfl

/-! ### noIssue -/

@[simp] theorem State.noIssue_clk (s : State) : (s.noIssue).clk = s.clk := rfl
@[simp] theorem State.noIssue_ptp (s : State) : (s.noIssue).ptp = s.ptp := rfl
@[simp] theorem State.noIssue_mhz (s : State) : (s.noIssue).mhz = s.mhz := rfl
@[simp] theorem State.noIssue_clearSince (s : State) : (s.noIssue).clearSince = s.clearSince := rfl
@[simp] theorem State.noIssue_lastLid (s : State) : (s.noIssue).lastLid = s.lastLid := rfl
@[simp] theorem State.noIssue_nextId (s : State) : (s.noIssue).nextId = s.nextId := rfl
@[simp] theorem State.noIssue_cur (s : State) : (s.noIssue).cur = none := rfl
@[simp] theorem State.noIssue_agenda (s : State) : (s.noIssue).agenda = s.agenda := rfl
@[simp] theorem State.noIssue_wakes (s : State) : (s.noIssue).wakes = s.wakes := rfl
@[simp] theorem State.noIssue_mem (s : State) : (s.noIssue).mem = s.mem := rfl
@[simp] theorem State.noIssue_poison (s : State) : (s.noIssue).poison = s.poison := rfl
@[simp] theorem State.noIssue_corrected (s : State) : (s.noIssue).corrected = s.corrected := rfl
@[simp] theorem State.noIssue_csem (s : State) : (s.noIssue).csem = s.csem := rfl
@[simp] theorem State.noIssue_cerr (s : State) : (s.noIssue).cerr = s.cerr := rfl
@[simp] theorem State.noIssue_rdy (s : State) : (s.noIssue).rdy = s.rdy := rfl
@[simp] theorem State.noIssue_vrdy (s : State) : (s.noIssue).vrdy = s.vrdy := rfl
@[simp] theorem State.noIssue_frdy (s : State) : (s.noIssue).frdy = s.frdy := rfl
@[simp] theorem State.noIssue_podcfg (s : State) : (s.noIssue).podcfg = s.podcfg := rfl
@[simp] theorem State.noIssue_fabev (s : State) : (s.noIssue).fabev = s.fabev := rfl
@[simp] theorem State.noIssue_staged (s : State) : (s.noIssue).staged = s.staged := rfl
@[simp] theorem State.noIssue_heats (s : State) : (s.noIssue).heats = s.heats := rfl
@[simp] theorem State.noIssue_fuse (s : State) : (s.noIssue).fuse = s.fuse := rfl
@[simp] theorem State.noIssue_pmask (s : State) : (s.noIssue).pmask = s.pmask := rfl
@[simp] theorem State.noIssue_comms (s : State) : (s.noIssue).comms = s.comms := rfl
@[simp] theorem State.noIssue_mr (s : State) : (s.noIssue).mr = s.mr := rfl
@[simp] theorem State.noIssue_msix (s : State) : (s.noIssue).msix = s.msix := rfl
@[simp] theorem State.noIssue_msixPend (s : State) : (s.noIssue).msixPend = s.msixPend := rfl
@[simp] theorem State.noIssue_vectors (s : State) : (s.noIssue).vectors = s.vectors := rfl
@[simp] theorem State.noIssue_mailbox (s : State) : (s.noIssue).mailbox = s.mailbox := rfl
@[simp] theorem State.noIssue_flashA (s : State) : (s.noIssue).flashA = s.flashA := rfl
@[simp] theorem State.noIssue_flashB (s : State) : (s.noIssue).flashB = s.flashB := rfl
@[simp] theorem State.noIssue_fwSvn (s : State) : (s.noIssue).fwSvn = s.fwSvn := rfl
@[simp] theorem State.noIssue_refused (s : State) : (s.noIssue).refused = s.refused := rfl
@[simp] theorem State.noIssue_replies (s : State) : (s.noIssue).replies = s.replies := rfl
@[simp] theorem State.noIssue_parts (s : State) : (s.noIssue).parts = s.parts := rfl
@[simp] theorem State.noIssue_nodes (s : State) : (s.noIssue).nodes = s.nodes := rfl
@[simp] theorem State.noIssue_teams (s : State) : (s.noIssue).teams = s.teams := rfl
@[simp] theorem State.noIssue_cores (s : State) : (s.noIssue).cores = s.cores := rfl
@[simp] theorem State.noIssue_clusters (s : State) : (s.noIssue).clusters = s.clusters := rfl
@[simp] theorem State.noIssue_slices (s : State) : (s.noIssue).slices = s.slices := rfl
@[simp] theorem State.noIssue_dies (s : State) : (s.noIssue).dies = s.dies := rfl
@[simp] theorem State.noIssue_net (s : State) : (s.noIssue).net = s.net := rfl
@[simp] theorem State.noIssue_outst (s : State) : (s.noIssue).outst = s.outst := rfl
@[simp] theorem State.noIssue_fly (s : State) : (s.noIssue).fly = s.fly := rfl
@[simp] theorem State.noIssue_invals (s : State) : (s.noIssue).invals = s.invals := rfl
@[simp] theorem State.noIssue_drops (s : State) : (s.noIssue).drops = s.drops := rfl
@[simp] theorem State.noIssue_pkts (s : State) : (s.noIssue).pkts = s.pkts := rfl
@[simp] theorem State.noIssue_rr (s : State) : (s.noIssue).rr = s.rr := rfl
@[simp] theorem State.noIssue_qeNext (s : State) : (s.noIssue).qeNext = s.qeNext := rfl
@[simp] theorem State.noIssue_ucie (s : State) : (s.noIssue).ucie = s.ucie := rfl
@[simp] theorem State.noIssue_remaps (s : State) : (s.noIssue).remaps = s.remaps := rfl
@[simp] theorem State.noIssue_ports (s : State) : (s.noIssue).ports = s.ports := rfl
@[simp] theorem State.noIssue_rrPlane (s : State) : (s.noIssue).rrPlane = s.rrPlane := rfl
@[simp] theorem State.noIssue_emptySince (s : State) : (s.noIssue).emptySince = s.emptySince := rfl
@[simp] theorem State.noIssue_outStreams (s : State) : (s.noIssue).outStreams = s.outStreams := rfl
@[simp] theorem State.noIssue_far (s : State) : (s.noIssue).far = s.far := rfl
@[simp] theorem State.noIssue_inStreams (s : State) : (s.noIssue).inStreams = s.inStreams := rfl
@[simp] theorem State.noIssue_fabOut (s : State) : (s.noIssue).fabOut = s.fabOut := rfl
@[simp] theorem State.noIssue_collIn (s : State) : (s.noIssue).collIn = s.collIn := rfl
@[simp] theorem State.noIssue_collFailed (s : State) : (s.noIssue).collFailed = s.collFailed := rfl
@[simp] theorem State.noIssue_inbox (s : State) : (s.noIssue).inbox = s.inbox := rfl
@[simp] theorem State.noIssue_seq (s : State) : (s.noIssue).seq = s.seq := rfl

end Sys2Proof.Machine
end

