-- ==== Sys2Proof/Machine/FrameImage.lean ====
section
/-!
DEFINITION. The bytes of a context frame (spec/08_core.md R153), as the saved team gives them: its sections, and the contents of
those to which the spec gives a layout. Nothing but a restore reads them (R218).
-/

namespace Sys2Proof.Config

/-- The bytes of the header, of a group record, of what follows the state words in the section of hoops and copy commands, and of the
last 4 KiB of the matrix section, for which R153 names the contents and no offsets.
Free values, log 13. -/
opaque headerByte : Machine.Team → Nat → Byte
opaque recordByte : Machine.Group → Nat → Byte
opaque hoopByte : Machine.Team → Machine.Frame → Nat → Byte
opaque entriesByte : Machine.MxUnit → Nat → Byte

/-- The first byte of a team's frame in the shadow region of a cluster's vault, counted from the start of the region (R316).
A free value, log 12. -/
opaque frameBase : Nat → Nat → Nat

end Sys2Proof.Config

namespace Sys2Proof.Machine

/-- Offsets of the sections behind the group records, each on a 4 KiB boundary: main-file images, scratch, hoops and copies, matrix
unit, and the end (R153). -/
structure Sections where
  main : Nat
  scratch : Nat
  hoops : Nat
  matrix : Nat
  size : Nat
  deriving DecidableEq, Repr

/-- The sections of a team's frame; those that it does not need are empty (R153). -/
def Team.sections (t : Team) (f : Frame) : Sections :=
  let main := 0x11000
  let scratch := main + pages ((t.groups.map fun g => 128 * g.n).sum)
  let hoops := scratch + t.scr
  let matrix := hoops + (if t.hoops.isEmpty && f.copies.isEmpty then 0 else 4096)
  { main, scratch, hoops, matrix, size := matrix + (if t.hasMatrix then 308 * 1024 else 0) }

/-- The sections fit in the space that the team has reserved: a team without copy groups saves no copy command (R139, R153, R316). -/
theorem sections_fit (t : Team) (f : Frame) (h : t.hasCopies = true ∨ f.copies = []) : (t.sections f).size ≤ frameSize t := by
  simp only [Team.sections, frameSize]
  rcases h with h | h <;> cases ht : t.hoops.isEmpty <;> simp [h] <;> split <;> omega

/-- Byte i of a group's main-file image: register i / 128, lane by lane; a dead register is not written (R38, R153). -/
def Group.imageByte (g : Group) (i : Nat) : Option Byte :=
  let r := i / 128
  let lane := i % 128 / 4
  if (g.dead.getD r 0).getLsbD lane then none
  else some (BitVec.ofNat 8 ((LVec.at (g.v.getD r LVec.zero) lane).toNat / 256 ^ (i % 4)))

/-- Byte i of the main-file images in group order (R153). -/
def mainByte : List Group → Nat → Option Byte
  | [], _ => none
  | g :: r, i => if i < 128 * g.n then g.imageByte i else mainByte r (i - 128 * g.n)

/-- Byte i of the matrix section: the accumulators, the weight buffer, and the rest (R153). -/
def MxUnit.frameByte (m : MxUnit) (i : Nat) : Byte :=
  if i < 48 * 1024 then BitVec.ofNat 8 ((m.acc.getD (i / 4) 0).toNat / 256 ^ (i % 4))
  else if i < 304 * 1024 then Mem.read m.wb (i - 48 * 1024)
  else Config.entriesByte m (i - 304 * 1024)

/-- Byte i of the section of hoops and copy commands: the state words of the hoops first, then the rest (R150, R153). -/
def Team.hoopByte (t : Team) (f : Frame) (i : Nat) : Byte :=
  if i < 64 then
    match t.hoops.get? (i / 8) with
    | some h => BitVec.ofNat 8 (h.stateWord.toNat / 256 ^ (i % 8))
    | none => 0
  else Config.hoopByte t f i

/-- Byte i of a saved team's frame; none where the save writes nothing (R153). -/
def Team.frameByte (t : Team) (f : Frame) (i : Nat) : Option Byte :=
  let x := t.sections f
  if i < 0x1000 then some (Config.headerByte t i)
  else if i < x.main then (t.groups[(i - 0x1000) / 4096]?).map fun g => Config.recordByte g (i % 4096)
  else if i < x.scratch then mainByte t.groups (i - x.main)
  else if i < x.hoops then some (Mem.read f.scratch (i - x.scratch))
  else if i < x.matrix then some (t.hoopByte f (i - x.hoops))
  else if i < x.size then f.mx.map fun m => m.frameByte (i - x.matrix)
  else none

/-- The physical address of byte i of a team's frame: in the shadow region of its cluster's vault (R153, R218, R316). -/
def State.frameAddr (s : State) (cluster : Nat) (t : Team) (i : Nat) : Nat :=
  let room := (s.cluster cluster).vshad.toNat % 128 * 2 ^ 24
  2 ^ 31 * cluster + (2 ^ 31 - room) + Config.frameBase cluster t.id % (room - frameSize t + 1) + i

end Sys2Proof.Machine
end

