-- ==== Sys2Proof/Tests/Slice0.lean ====
section
/-!
SUPPORT. Tests: terms that each check of well-formedness refuses; words written out from the spec's encodings; single steps whose
results are worked out by hand from the rules; and, for every statement with hypotheses, a state and operands that meet them,
clause by clause (`witness_` and the statement's name).
-/

namespace Sys2Proof.Tests

open Machine Safety

set_option maxRecDepth 100000
set_option Elab.async false

/-! ### Small states -/

/-- The instruction is well-formed, issues and passes its checks, and `p` holds of its context, the state in which a cause would be raised, and the
state from which it takes effect. -/
def seen (i : Instr) (s : State) (p : Ctx → State → State → Bool) : Bool :=
  match issueOf i s with
  | none => false
  | some (x0, s0) =>
    match clearOf (infoOf i) (specOf i).1 x0 (deadGone x0 s0) with
    | none => false
    | some (x, s') => i.wf && p x s0 s'

/-- A well-formed instruction that issues and passes its checks. -/
def runs (i : Instr) (s : State) : Bool := seen i s fun _ _ _ => true

/-- What `seen` shows meets the premises of the statements about issuing instructions. -/
theorem seen_meets {i : Instr} {s : State} {p : Ctx → State → State → Bool} (h : seen i s p = true) :
    ∃ s0 x s', i.wf = true ∧ IssuesFrom i s s0 x s' ∧ Issues i s x s' ∧ p x s0 s' = true := by
  unfold seen at h
  cases e : issueOf i s with
  | none => simp [e] at h
  | some q =>
    obtain ⟨x0, s0⟩ := q
    simp only [e] at h
    cases f : clearOf (infoOf i) (specOf i).1 x0 (deadGone x0 s0) with
    | none => simp [f] at h
    | some r =>
      obtain ⟨x, s'⟩ := r
      simp only [f] at h
      simp only [Bool.and_eq_true] at h
      exact ⟨s0, x, s', h.1, ⟨x0, e, f⟩, by simp [Issues, e, f], h.2⟩

/-- A state in which the group of the placed team issues next, with a few registers, at cycle 1000. -/
def base (role : Role := .vector) : State :=
  let s : State := State.reset.placeWords []
  let s : State := { s with clk := 1000, teams := s.teams.set 0 (placedTeam role) }
  s.modGroup ⟨0, 0⟩ fun g =>
    { g with
      v := [(1, LVec.tab fun i => BitVec.ofNat 32 (i + 1)), (2, LVec.splat 3), (3, LVec.splat 0x202)]
      s := [(3, 7), (8, 9)], p := [(1, 0xFFFF)] }

/-- Changes to the placed group, its team, its core and its partition. -/
def onG (f : Group → Group) (s : State) : State := s.modGroup ⟨0, 0⟩ f
def onT (f : Team → Team) (s : State) : State := s.modTeam 0 f
def onC (f : Core → Core) (s : State) : State := s.modCore 1 f
def onP (f : Part → Part) (s : State) : State := s.modPart 0 f

/-- A line that lies in its home slice. -/
def resident (line : Nat) (s : State) : State :=
  match s.home line with
  | some h => s.ensure h line .other
  | none => s

/-- An extended head without modifiers. -/
def hx (mod : Nat := 0) (mod2 : Nat := 0) : Sys2Proof.Head :=
  { Head.base false 2 with mod := BitVec.ofNat 4 mod, mod2 := BitVec.ofNat 2 mod2 }

/-- An instruction word of the arithmetic layout: v9 := v1 op v2 op v3. -/
def xa (mod : Nat := 0) (spec : Nat := 0) : ExtA :=
  { form := .ext, h := hx mod, dst := .v 9, a := .v 1, b := .v 2, c := .v 3, spec := BitVec.ofNat 23 spec, lit := 0 }

/-- The same with two sources, and with one. -/
def x2 (mod : Nat := 0) (spec : Nat := 0) : ExtA := { xa mod spec with c := .zero }
def x1 (mod : Nat := 0) (spec : Nat := 0) : ExtA := { x2 mod spec with b := .zero }

/-- The same without operands. -/
def xz (spec : Nat := 0) (mod : Nat := 0) : ExtA :=
  { form := .ext, h := hx mod, dst := .zero, a := .zero, b := .zero, c := .zero, spec := BitVec.ofNat 23 spec, lit := 0 }

/-- A base word: v9 := v1 op v2. -/
def xb : Base := { dst := .v 9, a := .v 1, b := .v 2, y := false, stall := 2 }

def b1 : Base := { xb with b := .zero }

def bz : Base := { dst := .zero, a := .zero, b := .zero, y := false, stall := 2 }

/-- A memory instruction with the address in a register pair. -/
def xm (dst a b : Operand) (size : Nat := 2) (mod : Nat := 0) : ExtM :=
  { h := hx mod, dst, a, b, offset := 0, mmod := BitVec.ofNat 8 size }

/-- Guarded by p2, which is false: no lane executes. -/
def none_ (w : ExtA) : ExtA := { w with h := { w.h with guard := 2 } }

/-- The NOP of the base form. -/
def bz0 : Base := { bz with stall := 0 }

/-- Every clause. -/
def every (l : List Bool) : Bool := l.all id

/-! ### Premises of the statements: arithmetic -/

theorem witness_IntegerResults :
    (([.iadd xb, .iaddExt (x2 1), .isub xb, .isubExt (x2 2), .imul xb, .imulExt (x2), .imulhi xb, .imulhiExt (x2 1), .imad (xa 1),
       .iabs b1, .iabsExt (x1 1), .imin xb, .iminExt (x2 1), .imax xb, .imaxExt (x2), .shl xb, .shlExt (x2), .shr xb, .shrExt (x2),
       .sar xb, .sarExt (x2), .rol xb, .rolExt (x2), .logic (xa 0 0xE8), .popc b1, .popcExt (x1), .clz b1, .clzExt (x1), .ctz b1,
       .ctzExt (x1), .brev b1, .brevExt (x1), .bfx (x2 1), .bfi (xa), .sel (x2 0 1), .idot4 (xa 7)] : List Instr).all fun i =>
      (Rules.intResult i).isSome && runs i base) = true ∧
    (([.imadw { xa with dst := .v 10, c := .v 4 }, .aadd { x2 1 with dst := .v 10, a := .v 4 }] : List Instr).all fun i =>
      (Rules.intResult64 i).isSome && runs i base) = true := by
  decide +kernel

theorem witness_FloatResults :
    (([.fadd xb, .faddExt (x2), .fmul xb, .fmulExt (x2 1), .ffma (xa 2), .fmin xb, .fminExt (x2), .fmax xb, .fmaxExt (x2),
       .hadd2 (x2 1), .hmul2 (x2), .hfma2 (xa 3), .fdot2 (xa 1)] : List Instr).all fun i =>
      (Rules.floatResult i).isSome && runs i base) = true ∧
    (([.hmin2 (x2), .hmax2 (x2 1)] : List Instr).all fun i => (Rules.halfMinMax i).isSome && runs i base) = true ∧
    runs (.fcls (x2 0 8)) base = true := by
  decide +kernel

theorem witness_SpecialFunctions :
    (([.frcp b1, .frcpExt (x1), .frsq b1, .frsqExt (x1), .fsqrt b1, .fsqrtExt (x1), .fexp2 b1, .fexp2Ext (x1), .flog2 b1, .flog2Ext (x1),
       .fsin b1, .fsinExt (x1), .fcos b1, .fcosExt (x1), .ftanh b1, .ftanhExt (x1)] : List Instr).all fun i =>
      (Rules.specialOf i).isSome && runs i base) = true ∧
    (0x7F800000 < 0xFFC00000 % 2 ^ 31 ∧ 0x80000000 < 0xFF800000) ∧ (0 < 0x3F000000 ∧ 0x3F000000 < 0x7F800000 ∧ Rules.quanta 0x3F000000 = 2 ^ 148) := by
  decide +kernel

/-- CVT of S8 to FP16, and under SR to E4M3; FP32 to S64, a pair; a code that rounding leaves as it is. -/
theorem witness_Conversions :
    (([.cvt (x1 8 (9 * 2 ^ 5)), .cvt (x1 4 (11 * 2 ^ 5)), .cvt { x1 0 (8 + 6 * 2 ^ 5) with dst := .v 10 }] : List Instr).all
      fun i => runs i base) = true ∧
    (lfsrNext 0 = 0 ∧ 3 < 2 ^ (fp16.sign + 1) ∧ 3 % 2 ^ fp16.sign ≤ fp16.maxCode) := by
  decide +kernel

theorem witness_PackAndUnpack :
    (runs (.pack (xa 0 9)) base && packOk (xa 0 9) && runs (.qnt (xa 0 16)) base && qntOk (xa 0 16)
      && runs (.unpack { x1 0 9 with dst := .v 10 }) base && runs (.mxscale (x1 0 16)) base) = true ∧
    (xa 0 9).c ≠ .cwin := by
  decide +kernel

theorem witness_Predicates :
    (([.icmp { x2 2 with dst := .zero }, .fcmp { x2 2 with dst := .zero }, .plogic (xz 0x1234)] : List Instr).all fun i =>
      (Rules.predResult i).isSome && runs i base) = true ∧
    runs (.pmovGet { xz with dst := .v 9 }) base = true ∧ runs (.pmovPut { xz 5 1 with a := .v 1 }) base = true ∧
    runs (.vote (xz 1 1)) base = true ∧ runs (.vote { xz 1 2 with dst := .v 9 }) base = true := by
  decide +kernel

theorem witness_Moves :
    runs (.mov b1) base = true ∧ runs (.movExt x1) base = true ∧ runs (.movExt { x1 1 with dst := .v 10, a := .v 2 }) base = true ∧
    runs (.movl { x1 with form := .extLit, a := .zero, b := .lit, lit := 5 }) base = true ∧
    (([0, 8, 9, 14, 13] : List Nat).all fun n => runs (.movs { xz n with dst := .v 9 }) base && !movsWide n) = true ∧
    (([0x10, 0x11, 0x12] : List Nat).all fun n => movsWide n && seen (.movs { xz n with dst := .v 10 }) base fun x _ _ =>
      decide (x.g.cur < 4) && decide ((x.g.split x.g.cur).stack.length < 16)) = true ∧
    (([none, some 2] : List (Option Nat)).all fun a => seen (.movs { xz 0x0F with dst := .v 10 }) (base.modNode 0 fun n => { n with arena := a }) fun x _ s' =>
      match s'.node? x.team.node with | some n => n.arena == a | none => false) = true := by
  decide +kernel

theorem witness_CrossLane :
    (([.shfl (x2 0 5), .matchLanes (x1), .matchLanes { x1 3 with a := .v 2 }, .prmt (xa), .elect { xz with dst := .v 9 }]
      : List Instr).all fun i => runs i base) = true ∧
    ((List.range 9).all fun m => (Instr.redg (x1 m)).wf && seen (.redg (x1 m)) base fun x _ _ => x.ex != 0) = true ∧
    seen (.elect (none_ { xz with dst := .v 9 })) base (fun x _ _ => x.ex == 0) = true := by
  decide +kernel

/-! ### Premises of the statements: decoding, the step, runs and checks -/

/-- A placed NOP: the line is at hand and the word decodes; an event of the agenda; an idle step. -/
theorem witness_StepRunsDecoded :
    (let s : State := State.reset.withFetchWord 32 0xEBAE8254
     match s.cur, s.team? 0, s.group? ⟨0, 0⟩ with
     | some ⟨0, 0⟩, some t, some g =>
       !s.fatal && t.core? == some 1 && decide (g.runLen < 256) &&
       (match s.codeLine { core := some 1, cluster := clusterOf 1, part := t.part, lid := t.lid } (g.split g.cur).pc with
        | (_, .words ws) => decode (ws.drop ((g.split g.cur).pc.toNat % 128 / 4)) == .instr (.nop bz0) 1
        | _ => false)
     | _, _, _ => false) = true ∧
    (State.reset.fatal = false ∧ State.reset.cur = none ∧ State.reset.agenda = []) ∧
    (let s : State := { State.reset with agenda := [.queueHeadStart] }
     s.fatal = false ∧ s.cur = none ∧ s.agenda = .queueHeadStart :: []) := by
  decide +kernel

/-- An instruction that ends no run; a group at the end of its 256th instruction; a line at hand whose word decodes to a cause; a fetch
whose page is absent, and one in the peer window. -/
theorem witness_FetchCauses :
    seen (.iadd xb) base (fun x _ s' => !runEnds (.iadd xb) && !x.f.h.y &&
      (match s'.group? x.ref with | some g => g.cur == x.g.cur | none => false)) = true ∧
    (match (onG (fun g => { g with runLen := 256 }) base).group? ⟨0, 0⟩ with | some g => decide (256 ≤ g.runLen) | none => false) = true ∧
    (match (State.reset.placeWords (List.replicate 12 255)).codeLine { core := some 1, cluster := 0, part := 0, lid := 1 } 0 with
     | (_, .words ws) => match decode (ws.drop 0) with | .cause _ _ => true | _ => false
     | _ => false) = true ∧
    (match (resident 0 base).codeLine { core := some 1, cluster := 0, part := 0, lid := 1 } (2 ^ 40) with
     | (_, .err c) => c == 0x100
     | _ => false) = true ∧
    (match base.codeLine { core := some 1, cluster := 0, part := 0, lid := 1 } (2 ^ 55) with
     | (_, .err c) => c != 0x100
     | _ => false) = true ∧
    base.cur = some ⟨0, 0⟩ ∧ base.fatal = false := by
  decide +kernel

theorem witness_EncodeDecode : (Instr.iadd xb).wf = true := by decide +kernel

theorem witness_DecodeEncode : decode [0xEBAE8254] = .instr (.nop bz0) 1 := by decide +kernel

theorem witness_MemoryStaysCanonical : memoryOk State.reset ∧ ∃ t, Machine.step State.reset = .next t :=
  ⟨by unfold memoryOk; decide, ⟨_, rfl⟩⟩

/-- Two results due for one register, one result not due, and those of two splits to one uniform register, the earlier-issued one first and last. -/
theorem witness_ResultsLand :
    let w (n : Nat) : PendWrite := { at_ := n, loc := .v 5, lanes := 0xF, val := LVec.splat 1, bits := 0, slot := 0 }
    (([w 8, w 9] : List PendWrite).all fun w => decide (w.at_ ≤ 10) && w.loc == .v 5 && w.lanes.getLsbD 1) = true ∧
    (∀ x ∈ [w 12], 11 < x.at_) ∧
    (let u (slot iss : Nat) : PendWrite := { w 8 with loc := .s 5, slot, iss }
     let g : Group := { role := .vector, grp := 0, n := 256, pend := [u 0 3, u 1 5] }
     g.pend == [u 0 3, u 1 5] && decide ((u 0 3).iss < (u 1 5).iss) && decide ((u 1 5).slot < 4) && (u 0 3).slot != (u 1 5).slot &&
       decide ((u 0 3).at_ ≤ 10) && (List.range 4).all fun i => decide (g.swr.getD (4 * 5 + i) 0 ≤ 5)) = true := by
  decide +kernel

/-- An instruction inside a run, one with its Y bit set, and one that ends the run by itself. -/
theorem witness_IssueAndRunEnds :
    (([.iadd xb, .iadd { xb with y := true }, .yield bz] : List Instr).all fun i => seen i base fun x _ s' =>
      match s'.group? x.ref with | some g => g.cur == x.g.cur | none => false) = true ∧
    runEnds (.iadd xb) = false ∧ runEnds (.yield bz) = true := by
  decide +kernel

/-- An instruction whose operands are read. -/
def early (i : Instr) (s : State) (p : Ctx → State → Bool) : Bool :=
  match issueOf i s with
  | some (x, s0) => i.wf && p x (deadGone x s0)
  | none => false

/-- A register beyond the allotment; with the checking scoreboard a source that is pending; a latch that is invalid, with the scoreboard
off, and on. -/
theorem witness_IssueRules :
    let scored (s : State) : State := s.modNode 0 fun n => { n with chksb := true }
    (early (.iadd { xb with a := .v 39 }) (onG (fun g => { g with n := 32 }) base) fun x _ => (unallotted x.g.n x.sh x.f).isSome) = true ∧
    (early (.iadd xb) (scored (onG (fun g => { g with pend := [pendV 2000 0 (.v 1) 0xF LVec.zero] }) base)) fun x s1 =>
      (unallotted x.g.n x.sh x.f).isNone && s1.scoreOn x.team && s1.checkScore x (infoOf (.iadd xb))) = true ∧
    (([base, scored base] : List State).all fun s => early (.iadd { xb with a := .la }) s fun x s1 =>
      (unallotted x.g.n x.sh x.f).isNone && (!s1.scoreOn x.team || !s1.checkScore x (infoOf (.iadd xb))) &&
      (staleAt x.g x.sh x.f).isSome) = true := by
  decide +kernel

/-- A constant-window operand: beyond the window; not in the constant cache; there; in the peer window; on an absent page; in an arena
that does not exist. -/
theorem witness_IssueRules_constants :
    let w : ExtA := { xa with c := .cwin }
    let win (b n : Nat) (s : State) : State := s.modNode 0 fun d => { d with windows := [(0, (b, n))] }
    let peer : State := onC (fun c => { c with tlb := { placedPage with page := 2 ^ 20, peer := 1 } :: c.tlb }) base
    let at_ (s : State) (p : Nat → ConstOp → Bool) : Bool := early (.imad w) s fun x s1 =>
      x.f.c == .cwin && constRegs x.sh == 1 && p ((s1.window x.team (windowOf (specOf (.imad w)).1).1).2) (x.constOp s1 (specOf (.imad w)).1 1).2
    let err (c : Nat) (r : ConstOp) : Bool := match r with | .err k _ => k == c | _ => false
    at_ (win 0 0 base) (fun room _ => room == 0) = true ∧
    at_ (win 0 1 base) (fun room r => room == 1 && match r with | .miss _ => true | _ => false) = true ∧
    at_ (win 0 1 (onC (fun c => { c with ccache := [(0, 5)] }) base)) (fun room r => room == 1 && r == .words 5) = true ∧
    at_ (win (2 ^ 55) 1 peer) (fun room r => room == 1 && err 0x141 r) = true ∧
    at_ (win (2 ^ 40) 1 (resident 0 base)) (fun room r => room == 1 && err 0x100 r) = true ∧
    at_ (win (10 * 2 ^ 52) 1 base) (fun room r => room == 1 && err 0x110 r) = true := by
  decide +kernel

/-! ### Premises of the statements: control flow and traps -/

/-- An instruction line whose word 8 begins an extended instruction, so that words 9 and 10 start none. -/
def coded : State := onC (fun c => { c with icache := [(0, List.replicate 8 0 ++ 2 :: List.replicate 23 0)] }) base

/-- A branch in the lanes of a predicate. -/
def br (guard : BitVec 3) (spec : Nat) : ExtA := { xz spec with h := { hx with guard := guard } }

/-- A group with one split. -/
def one (sp : Split) : Group := { role := .vector, grp := 0, n := 256, splits := [(0, { sp with st := .runnable })] }

/-- The code target of a check. -/
def isBad (t : State × Target) : Bool := match t.2 with | .bad => true | _ => false
def isOk (t : State × Target) : Bool := match t.2 with | .ok => true | _ => false

/-- A handler runs and the path stack is full: no division. -/
def packed : State := onG (fun g =>
  { g with trap := { g.trap with handling := some 0 }
           splits := [(0, { st := .runnable, pc := 0, mask := 0xFFFFFFFF, stack := List.replicate 7 (.reconverge 64 1) })] }) coded

theorem witness_BranchResults :
    (seen (.bra (br 2 4)) coded fun x _ _ => x.ex == 0) = true ∧
    (seen (.bra (br 7 9)) coded fun x _ s' => x.ex != 0 && isBad (s'.checkTarget x.from (Rules.relative x 9))) = true ∧
    (seen (.bra (br 7 4)) coded fun x _ s' => x.act &&& ~~~x.ex == 0 && isOk (s'.checkTarget x.from (Rules.relative x 4))) = true ∧
    (seen (.bra { br 1 4 with b := .imm 9 }) coded fun x _ s' =>
      x.act &&& ~~~x.ex != 0 && x.ex != 0 && Rules.relative x 4 != Rules.through x { br 1 4 with b := .imm 9 } &&
      (match s'.checkTarget x.from (Rules.relative x 4) with
       | (s1, .ok) => isBad (s1.checkTarget x.from (Rules.joinOf x { br 1 4 with b := .imm 9 }))
       | _ => false)) = true ∧
    (([(coded, true), (packed, false)] : List (State × Bool)).all fun y =>
      seen (.bra { br 1 4 with b := .imm 12 }) y.1 fun x _ s' =>
        x.act &&& ~~~x.ex != 0 && x.ex != 0 &&
        (match s'.checkTarget x.from (Rules.relative x 4) with
         | (s1, .ok) =>
           match s1.checkTarget x.from (Rules.joinOf x { br 1 4 with b := .imm 12 }) with
           | (s2, .ok) =>
             match s2.group? x.ref with
             | some g => (g.divide x.slot (Rules.joinOf x { br 1 4 with b := .imm 12 }) x.act
                 (Rules.braPaths x { br 1 4 with b := .imm 12 })).isSome == y.2
             | none => false
           | _ => false
         | _ => false)) = true := by
  decide +kernel

/-- BRX to one address, to a bad one, and to two, where the split can divide and where it cannot. -/
theorem witness_IndexedBranches :
    let w : ExtA := { br 7 12 with a := .v 4 }
    let at_ (f : Nat → Word) (s : State) : State := onG (fun g => { g with v := [(4, LVec.tab f), (5, LVec.zero)] }) s
    (seen (.brx w) (at_ (fun _ => 36) coded) fun x _ s' => x.act != 0 &&
      (match (Mask.list x.ex).head? with | some l => isBad (s'.checkTarget x.from (Rules.brxNext x w l)) | none => false)) = true ∧
    (seen (.brx w) (at_ (fun _ => 16) coded) fun x _ s' =>
      (Rules.checked x.from ((Mask.list x.ex).map (Rules.brxNext x w)).eraseDups s').isSome &&
      (Mask.list x.act).all fun l => Rules.brxNext x w l == 16) = true ∧
    (([(coded, true), (packed, false)] : List (State × Bool)).all fun y =>
      seen (.brx w) (at_ (fun l => if l < 16 then 16 else 20) y.1) fun x _ s' =>
        match Rules.checked x.from ((Mask.list x.ex).map (Rules.brxNext x w)).eraseDups s' with
        | some s1 =>
          Rules.brxNext x w 0 != Rules.brxNext x w 31 &&
          (match s1.checkTarget x.from (Rules.relative x 12) with
           | (s2, .ok) =>
             match s2.group? x.ref with
             | some g => (g.divide x.slot (Rules.relative x 12) x.act [(16, 0xFFFF), (20, 0xFFFF0000)]).isSome == y.2
             | none => false
           | _ => false)
        | none => false) = true := by
  decide +kernel

theorem witness_CallAndReturn :
    let s : State := onG (fun g => { g with s := [(4, 36), (5, 0), (6, 16), (7, 0x01000000)] }) coded
    let call (spec : Nat) (a : Operand) : ExtA := { br 7 spec with dst := .v 10, a }
    (seen (.call (call 0 (.s 6))) s fun x _ _ => (x.src64 (.s 6) 0).toNat / 2 ^ 56 != 0) = true ∧
    (seen (.call (call 0 (.s 4))) s fun x _ s' => (x.src64 (.s 4) 0).toNat / 2 ^ 56 == 0 &&
      isBad (s'.checkTarget x.from (Rules.callTarget x (call 0 (.s 4))))) = true ∧
    (seen (.call (call 4 .zero)) s fun x _ s' => isOk (s'.checkTarget x.from (Rules.callTarget x (call 4 .zero)))) = true ∧
    (seen (.ret { br 7 0 with a := .s 4 }) s fun x _ s' =>
      isBad (s'.checkTarget x.from ((x.src64 (.s 4) (Mask.lowest x.act)).setWidth 56))) = true ∧
    (seen (.ret { br 7 0 with a := .s 6 }) (onG (fun g => { g with s := [(6, 16), (7, 0)] }) s) fun x _ s' =>
      isOk (s'.checkTarget x.from ((x.src64 (.s 6) (Mask.lowest x.act)).setWidth 56))) = true := by
  decide +kernel

/-- The cases of R18 and R19, and those of R20 with the tests that find nothing. -/
theorem witness_Divergence :
    let g := one { pc := 8, mask := 0xFF }
    let rest : List (BitVec 56 × Mask) := [(20, 0xF0)]
    let free (g : Group) := [0, 1, 2, 3].filter fun i => (g.split i).st == .free
    let full := one { pc := 8, mask := 0xFF, stack := List.replicate 7 (.reconverge 64 1) }
    ((g.split 0).st = .runnable ∧ rest ≠ [] ∧ ([0, 1, 2].filter fun e => (g.joins.get? e).isNone) = [0, 1, 2] ∧
      g.trap.handling = none ∧ rest.length ≤ (free g).length) ∧
    (let h := { g with trap := { handling := some 0 } }
     h.trap.handling ≠ none ∧ (h.split 0).stack.length + rest.length + 1 ≤ 8) ∧
    (let h := { full with joins := [(0, ⟨4, 1, 0, 3⟩), (1, ⟨4, 1, 0, 3⟩), (2, ⟨4, 1, 0, 3⟩)] }
     ([0, 1, 2].filter fun e => (h.joins.get? e).isNone) = [] ∧ 8 < (h.split 0).stack.length + rest.length + 1) ∧
    ((one { pc := 8, stack := [.path 16 1 8] }).split 0).stack = [.path 16 1 8] ∧
    ((one { pc := 8, stack := [.reconverge 8 1] }).split 0).stack = [.reconverge 8 1] ∧
    (let h := { one { pc := 8, mask := 0xF, jrec := 1 } with joins := [(1, ⟨8, 0xFF, 0, 3⟩)] }
     (h.split 0).stack = [] ∧ h.joins.get? 1 = some ⟨8, 0xFF, 0, 3⟩ ∧ (0 ||| (h.split 0).mask) ≠ 0xFF ∧
       ∀ e ∈ h.joins, e.1 = 1) ∧
    (let h := { one { pc := 8, mask := 0xF, jrec := 1 } with joins := [(1, ⟨8, 0xFF, 0xF0, 3⟩)] }
     h.trap.handling = none ∧ (0xF0 ||| (h.split 0).mask) = 0xFF ∧
       ([0, 1, 2, 3].filter fun i => i == h.cur || ((h.split i).st == .parked && (h.split i).jrec == 1)) = [0]) ∧
    ((one { pc := 12, stack := [.path 16 1 8] }).split 0).pc ≠ 8 ∧
    ((one { pc := 12, stack := [.reconverge 8 1] }).split 0).pc ≠ 8 ∧
    ((one { pc := 12 }).split 0).jrec = 3 ∧
    -- one test that matches, and two in a row; then none does
    (one { pc := 12 }).test1 = none ∧
    ((one { pc := 8, stack := [.path 16 1 8] }).test1.bind Group.test1) = none ∧ (one { pc := 8, stack := [.path 16 1 8] }).test1.isSome ∧
    (((one { pc := 8, stack := [.reconverge 8 1, .reconverge 8 1] }).test1.bind Group.test1).map fun g => g.test1.isNone) = some true := by
  decide +kernel

/-- EXIT in both forms, all its cases of R21, NOP and YIELD, with the next RUNNABLE split one slot on. -/
theorem witness_ExitsAndPauses :
    (([.exit bz, .exitExt xz, .nop bz, .nopExt xz, .yield bz, .yieldExt xz] : List Instr).all fun i => runs i base) = true ∧
    (((one { mask := 0xFF }).split 0).mask &&& ~~~0xF#32 ≠ 0 ∧ ((one { mask := 0xFF }).split 0).mask &&& ~~~0xFF#32 = 0) ∧
    (∀ st ∈ ([[], [.path 8 1 16], [.reconverge 8 0x300]] : List (List StackEnt)), ((one { mask := 0xFF, stack := st }).split 0).stack = st) ∧
    0x300#32 &&& ~~~0xFF#32 ≠ 0 ∧
    -- a join entry complete without the exited lanes, with lanes left and with none
    (([⟨8, 0xFF, 0xF0, 3⟩, ⟨8, 0xF, 0, 3⟩] : List JoinEnt).all fun j =>
      let g := { one { mask := 0xF } with joins := [(1, j)] }
      (g.split 0).st == .runnable && g.trap.handling.isNone && g.joins.get? 1 == some j && j.a &&& ~~~0xF#32 == j.m &&& ~~~0xF#32) = true ∧
    -- a handler that is over, and one that is not
    (([1, 0x100] : List Mask).all fun em =>
      let g := { one { mask := 0xF } with live := 0x10F, trap := { handling := some 0, emask := em } }
      g.trap.handling.isSome && (g.trap.emask &&& (g.live &&& ~~~0xF#32) == 0) == (em == 1)) = true ∧
    (let s := onG (fun g => { g with splits := g.splits.set 1 { st := .runnable, mask := 1 } }) base
     match Machine.exec (.yield bz) s with
     | .next t =>
       (match t.group? ⟨0, 0⟩ with | some g' => g'.cur == 1 | none => false) && seen (.yield bz) s fun x _ s' =>
         match s'.group? x.ref with | some g => g.cur == 0 && (g.split 1).st == .runnable | none => false
     | _ => false) = true := by
  decide +kernel

/-- TRAP and ERET in every case, an H cause with a handler and without one, and the end of a handler. -/
theorem witness_Traps :
    causeIsK 7 = false ∧
    (let s := onG (fun g => { g with trap := { tvec := 64 } }) base
     match s.group? ⟨0, 0⟩ with
     | some g => (g.split g.cur).st == .runnable && g.trap.tvec != 0 && g.trap.handling == none
     | none => false) = true ∧
    (match base.group? ⟨0, 0⟩, base.node? 0 with | some g, some n => g.trap.tvec == 0 && n.st == .running | _, _ => false) = true ∧
    (seen (.trap (xz 5)) base fun x _ _ => x.ex != 0) = true ∧
    (seen (.trap (none_ (xz 5))) base fun x _ _ => x.ex == 0) = true ∧
    (([.eret bz, .eretExt xz] : List Instr).all fun i => runs i base &&
      seen i (onG (fun g => { g with trap := { tvec := 64, handling := some 0, emask := 1 } }) base) fun x _ _ =>
        x.ex != 0 && x.g.trap.handling == some x.slot) = true ∧
    (let g := { one { pc := 8, mask := 1 } with trap := { emask := 1, depth := 0 } }
     g.trap.emask &&& g.live ≠ 0 ∧ g.trap.depth ≤ (g.split 0).stack.length ∧ g.joins = []) := by
  decide +kernel

theorem witness_SystemRegisters :
    (([0, 2, 4] : List Nat).all fun n => runs (.rdsys { xz n with dst := .v 10 }) base) = true ∧
    (([1, 3, 5, 8, 0x10, 0x11] : List Nat).all fun n => runs (.rdsys { xz n with dst := .v 9 }) base) = true ∧
    (([1, 3, 4, 5, 0x10, 0x11] : List Nat).all fun n => seen (.wrsys { xz n with a := .v 2 }) base fun x _ _ =>
      x.ex != 0 && !x.team.priv) = true ∧
    (([(0, .v 4), (2, .v 4), (8, .v 1)] : List (Nat × Operand)).all fun y => runs (.wrsys { xz y.1 with a := y.2 }) base) = true ∧
    (([0x10, 0x11] : List Nat).all fun n => seen (.wrsys { xz n with a := .v 2 }) (onT (fun t => { t with priv := true }) base)
      fun x _ _ => x.ex != 0 && x.team.priv) = true ∧
    (seen (.wrsys (none_ { xz 8 with a := .v 2 })) base fun x _ _ => x.ex == 0) = true := by
  decide +kernel

/-- A WAITING split, one that has not registered yet and a HELD one whose wait writes a register and a predicate. -/
theorem witness_WaitOutcomes :
    let w : Wait := { on := .bart, ipc := 0, dst := .v 3, wide := false, pd := some 2, lanes := 0xF }
    (([.waiting, .runnable, .held] : List SplitSt).all fun st =>
      let s := onG (fun g => { g with splits := [(0, { st, wait := some w })] }) base
      match s.team? 0, s.group? ⟨0, 0⟩ with
      | some t, some g => t.core? == some 1 && (g.split 0).wait == some w && (g.split 0).st == st
      | _, _ => false) = true := by
  decide +kernel

/-! ### Premises of the statements: lane memory, scratch, hoops, copies and barriers -/

/-- Lane addresses `f` in v4 and v5, data in v8, and the area of a group at 0x4000 with PSZ 256. -/
def lanes (f : Nat → Nat) : State :=
  (onG (fun g => { g with
    v := [(4, LVec.tab fun l => BitVec.ofNat 32 (f l)), (5, LVec.zero), (8, LVec.tab fun l => BitVec.ofNat 32 (l + 1))] }) base).modNode 0
    fun n => { n with desc := { n.desc with priv := 0x4000, psz := 256, gcnt := (0, 0, 1) } }

def ld4 (a : Operand) : ExtM := xm (.v 9) a .zero
def st4 (a : Operand) : ExtM := xm .zero a (.v 8)
def noLane (w : ExtM) : ExtM := { w with h := { w.h with guard := 2 } }

/-- Every access is to memory, and no line of them waits, `w` telling whether a line does. -/
def reaches (r : Option (State × List (VAcc × Tgt))) (w : State → Nat → Bool) : Bool :=
  match r with
  | some (s, ts) => ts.all (fun y => match y.2 with | .mem _ _ _ => true | _ => false) && (linesOf ts).all fun l => !w s l
  | none => false

/-- A line of the accesses waits. -/
def holdsUp (r : Option (State × List (VAcc × Tgt))) (w : State → Nat → Bool) : Bool :=
  match r with
  | some (s, ts) => (linesOf ts).any (w s)
  | none => false

/-- What makes a load, and a store, wait. -/
def loadW (x : Ctx) (s : State) (l : Nat) : Bool := s.loadWaits x.core x.ref false l
def storeW (x : Ctx) (s : State) (l : Nat) : Bool := s.unread x.ref l fun _ => true
def storeBlocked (x : Ctx) (s : State) (l : Nat) : Bool := storeW x s l || s.inShadow (128 * l)

/-- A load of the placed group of line 0 is on its way. -/
def loading0 (s : State) : State := s.addOut
  { id := 77, g := ⟨0, 0⟩, core := 1, kind := .load, sb := none, dst := .v 20, regs := 1, size := 2, sx := false, lanes := 1
    from_ := none, pieces := [{ line := 0, accs := [] }], part := 0, epoch := 0, l1pos := none, cls := .other }

theorem witness_Loads :
    (seen (.ld (noLane (ld4 (.v 4)))) (lanes (4 * ·)) fun x _ _ => x.ex == 0) = true ∧
    (seen (.ld (ld4 (.v 4))) (lanes (4 * ·)) fun x _ s' => x.ex != 0 &&
      let accs := Rules.accesses x (ld4 (.v 4)) (Rules.loading x (.v 9))
      accs.all (fun a => a.va.toNat % 4 == 0) && reaches (Rules.reached x false accs s') (loadW x)) = true ∧
    (seen (.ld (ld4 (.v 4))) (loading0 (lanes (4 * ·))) fun x _ s' => x.ex != 0 &&
      holdsUp (Rules.reached x false (Rules.accesses x (ld4 (.v 4)) (Rules.loading x (.v 9))) s') (loadW x)) = true ∧
    (seen (.ldl (noLane (ld4 (.v 4)))) (lanes (4 * ·)) fun x _ _ => x.ex == 0) = true ∧
    (seen (.ldl (ld4 (.v 4))) (lanes (4 * ·)) fun x _ s' => x.ex != 0 &&
      let accs := Rules.ownAccesses x s' (ld4 (.v 4)) (Rules.loading x (.v 9))
      (Mask.list x.ex).all (fun l => !Rules.ownFails x s' (ld4 (.v 4)) l) && accs.all (fun a => a.va.toNat % a.len == 0) &&
      reaches (Rules.reached x false accs s') (loadW x)) = true ∧
    (seen (.ldc (noLane (ld4 (.v 4)))) (lanes (4 * ·)) fun x _ _ => x.ex == 0) = true ∧
    (seen (.ldc (ld4 (.v 4))) (lanes (4 * ·)) fun x _ s' => x.ex != 0 &&
      let accs := Rules.accesses x (ld4 (.v 4)) (Rules.loading x (.v 9))
      accs.all (fun a => !isPeer a.va && a.va.toNat % 4 == 0) && reaches (Rules.reached x false accs s') fun _ _ => false) = true ∧
    (seen (.ldc (ld4 (.s 4))) (onG (fun g => { g with s := [(4, 0), (5, 0x00800000)] }) base) fun x _ _ =>
      (Rules.accesses x (ld4 (.s 4)) (Rules.loading x (.v 9))).any fun a => isPeer a.va) = true ∧
    (([0, 3] : List Nat).all fun cls =>
      let w : ExtM := { xm .zero (.v 4) .zero 0 with mmod := BitVec.ofNat 8 (64 * cls) }
      seen (.pref w) (lanes (4 * ·)) fun x _ s' => w.cls == cls &&
        (match Rules.skipped x (Rules.accesses x w (Mask.list x.ex)) s' with
         | some (s1, ts) => !ts.isEmpty && s1.outst.isEmpty
         | none => false)) = true := by
  decide +kernel

/-- The forms of LD, LDC, LDL, PREF, ST and STL above are well-formed. -/
theorem test_memory_forms :
    (([.ld (ld4 (.v 4)), .ldl (ld4 (.v 4)), .ldc (ld4 (.v 4)), .pref (xm .zero (.v 4) .zero 0), .st (st4 (.v 4)), .stl (st4 (.v 4))]
      : List Instr).all fun i => i.wf) = true := by
  decide +kernel

/-- What a load of a word brings to lane 3, with a piece that has landed. -/
theorem witness_LoadedValues :
    let o : Outst :=
      { id := 0, g := ⟨0, 0⟩, core := 1, kind := .load, sb := some 2, dst := .v 9, regs := 1, size := 2, sx := true, lanes := 0xF
        from_ := none, pieces := [{ line := 0, accs := [], landed := true }], part := 0, epoch := 0, l1pos := none, cls := .other }
    let a : Acc := { lane := 3, off := 0, len := 1, pos := 0 }
    (o.from_ = none ∧ 9 + 4 ≤ 256 ∧ a.lane < 32 ∧ a.pos = 0 ∧ a.len = 1 ∧ 0x80 < 256 ^ a.len ∧ 2 ^ (8 * a.len - 1) ≤ 0x80) ∧
    ((base.addOut o).outst.get? 0 = some o ∧ (∀ p ∈ o.pieces, p.landed = true ∧ p.away = false) ∧ (base.group? ⟨0, 0⟩).isSome = true) ∧
    (([{ line := 0, accs := [] }, { line := 0, accs := [], landed := true, away := true }] : List Piece).all fun p =>
      (!p.landed || p.away) && (base.addOut { o with pieces := [p] }).outst.get? 0 == some { o with pieces := [p] }) = true := by
  decide +kernel

theorem witness_Stores :
    (seen (.st (st4 (.v 4))) (lanes (4 * ·)) fun x _ s' =>
      let accs := Rules.accesses x (st4 (.v 4)) (Mask.list x.ex)
      accs.all (fun a => a.va.toNat % 4 == 0) && reaches (Rules.reached x true accs s') (storeBlocked x)) = true ∧
    (seen (.st (st4 (.v 4))) ((lanes fun l => 0x7FFFF000 + 4 * l).modCluster 0 fun c => { c with vshad := 1 }) fun x _ s' =>
      let accs := Rules.accesses x (st4 (.v 4)) (Mask.list x.ex)
      accs.all (fun a => a.va.toNat % 4 == 0) && reaches (Rules.reached x true accs s') (storeW x) &&
      holdsUp (Rules.reached x true accs s') fun s l => s.inShadow (128 * l)) = true ∧
    (seen (.st (st4 (.v 4))) (loading0 (lanes (4 * ·))) fun x _ s' =>
      holdsUp (Rules.reached x true (Rules.accesses x (st4 (.v 4)) (Mask.list x.ex)) s') (storeW x)) = true ∧
    (seen (.stl (st4 (.v 4))) (lanes (4 * ·)) fun x _ s' =>
      let accs := Rules.ownAccesses x s' (st4 (.v 4)) (Mask.list x.ex)
      (Mask.list x.ex).all (fun l => !Rules.ownFails x s' (st4 (.v 4)) l) && accs.all (fun a => a.va.toNat % a.len == 0) &&
      reaches (Rules.reached x true accs s') (storeBlocked x)) = true ∧
    (let accs : List Acc := [{ lane := 0, off := 124, len := 4, pos := 0 }, { lane := 1, off := 126, len := 1, pos := 0 }]
     (∀ a ∈ accs, a.off + a.len ≤ 128 ∧ 0 < a.len) ∧
     ((accs.filter fun a => decide (a.off ≤ 126) && decide (126 < a.off + a.len)).getLast?.map Acc.lane) = some 1 ∧
     (accs.filter fun a => decide (a.off ≤ 3) && decide (3 < a.off + a.len)) = []) ∧
    (∀ a ∈ ([{ lane := 0, off := 127, len := 1, pos := 0 }] : List Acc), a.pos = 0 ∧ a.len = 1) := by
  decide +kernel

/-- A set of the L1 that is full, its last line dirty. -/
theorem witness_StoreFrame :
    let l (n : Nat) : L1Line := { line := 1024 * (n + 1) + 8, way := n, data := 0, valid := 0, dirty := 0xF, cls := .other, part := 0 }
    let s := onC (fun c => { c with l1 := [(8, (List.range 16).map l)] }) base
    ((s.core 1).l1Set 8).length = (s.core 1).ways.length ∧ (((s.core 1).l1Set 8).getLast?.map L1Line.dirty) = some 0xF ∧
    (1024 * 3 + 8) % 1024 = 8 % 1024 := by
  decide +kernel

/-- Lane 5 misaligned; an address outside PSZ; a page that is absent. -/
theorem witness_AccessFaults :
    (seen (.ld (ld4 (.v 4))) (lanes fun l => if l = 5 then 22 else 4 * l) fun x _ _ =>
      (((Rules.accesses x (ld4 (.v 4)) (Rules.loading x (.v 9))).find? fun a => a.va.toNat % a.len != 0).map VAcc.lane) == some 5) = true ∧
    (seen (.st (st4 (.v 4))) (lanes fun l => if l = 5 then 22 else 4 * l) fun x _ _ =>
      ((Rules.accesses x (st4 (.v 4)) (Mask.list x.ex)).find? fun a => a.va.toNat % a.len != 0).isSome) = true ∧
    (seen (.ldl (ld4 (.v 4))) (lanes fun l => if l = 5 then 256 else 4 * l) fun x _ s' =>
      ((Rules.loading x (.v 9)).find? (Rules.ownFails x s' (ld4 (.v 4)))) == some 5) = true ∧
    (seen (.stl (st4 (.v 4))) (lanes fun l => if l = 5 then 253 else 4 * l) fun x _ s' =>
      ((Mask.list x.ex).find? (Rules.ownFails x s' (st4 (.v 4)))) == some 5) = true ∧
    (([(true, .st (st4 (.v 4))), (false, .ld (ld4 (.v 4)))] : List (Bool × Instr)).all fun y =>
      seen y.2 (onG (fun g => { g with v := g.v.set 5 (LVec.tab fun l => if l = 1 then 8 else 0) }) (resident 0 (lanes (4 * ·)))) fun x _ s' =>
        match Rules.accesses x (ld4 (.v 4)) (Mask.list x.ex) with
        | a0 :: a1 :: _ =>
          !isPeer a1.va &&
          (match Rules.reached x y.1 [a0] s' with
           | some (s1, _) => match s1.translateLane x.from x.ref a1.lane a1.va y.1 with | (_, .err c) => c == 0x100 | _ => false
           | none => false)
        | _ => false) = true := by
  decide +kernel

/-- The placed team with 4096 bytes of scratch at 0. -/
def scratched (f : Nat → Nat) : State := onT (fun t => { t with scr := 4096 }) (lanes f)

theorem witness_Scratch :
    let ls : ExtM := { xm (.v 9) (.v 4) .zero with h := hx 0 1 }
    let ss : ExtM := { xm .zero (.v 4) (.v 8) with h := hx 0 1 }
    (seen (.lds (noLane ls)) (scratched (4 * ·)) fun x _ _ => Rules.loading x (.v 9) == []) = true ∧
    (seen (.lds ls) (scratched (4 * ·)) fun x _ _ =>
      (Mask.list x.ex).all fun l => Rules.offset x ls l % 4 == 0 && decide (Rules.offset x ls l + 4 ≤ x.team.scr)) = true ∧
    (seen (.sts ss) (scratched fun l => 4 * (l / 2)) fun x _ s' => Memory.wf (Rules.scratch x s') &&
      ((Mask.list x.ex).all fun l => Rules.offset x ss l % 4 == 0 && decide (Rules.offset x ss l + 4 ≤ x.team.scr)) &&
      (Rules.covering x ss (Mask.list x.ex) 5).getLast? == some 3 && Rules.covering x ss (Mask.list x.ex) 4000 == []) = true ∧
    (([ss, { ls with b := .v 8 }] : List ExtM).all fun w => seen (.atoms w) (scratched (4 * ·)) fun x _ _ => x.ex != 0 &&
      (Mask.list x.ex).all fun l => Rules.offset x w l % 4 == 0 && decide (Rules.offset x w l + 4 ≤ x.team.scr)) = true ∧
    (([.lds ls, .sts ss, .atoms ss] : List Instr).all fun i =>
      (seen i (scratched fun l => if l = 3 then 5 else 4 * l) fun x _ _ =>
        ((Mask.list x.ex).find? fun l => Rules.offset x ss l % 4 != 0) == some 3) &&
      seen i (scratched fun l => if l = 3 then 4096 else 4 * l) fun x _ _ =>
        (Mask.list x.ex).all (fun l => Rules.offset x ss l % 4 == 0) &&
        (Mask.list x.ex).any fun l => decide (x.team.scr < Rules.offset x ss l + 4)) = true := by
  decide +kernel

/-- A hoop of three slots with the tags of slots 0 and 1. -/
def hooped (t0 t1 : Tag) : State :=
  onT (fun t => { t with hoops := [(2, { off := 64, ssz := 128, nslot := 3, tag := [(0, t0), (1, t1)]
                                         waiters := [{ g := ⟨0, 0⟩, slot := 1 }] })] }) base

theorem witness_HoopResults :
    let w : ExtA := { xz (2 + 8 * 1) with dst := .v 9 }
    let all : List Instr := [.hoopAcq w, .hoopWait { xz 2 with dst := .v 9 }, .hoopRel (xz 2)]
    (all.all fun i => i.wf) = true ∧
    (seen (.hoopAcq (none_ w)) base fun x _ _ => x.ex == 0) = true ∧
    (all.all fun i => seen i base fun x _ s' => x.ex != 0 && (Rules.hoop x s' 2).isNone) = true ∧
    (all.all fun i => ([Tag.empty, .full, .draining].all fun t => seen i (hooped t .empty) fun x _ s' => x.ex != 0 &&
      match Rules.hoop x s' 2 with | some h => Rules.tag h h.nacq == t && h.nacq == h.nwt && h.nrel == 0 | none => false)) = true ∧
    (match (hooped .full .empty).team? 0 with
     | some t => match t.hoops.get? 2 with | some h => !h.waiters.isEmpty && Rules.tag h h.nwt == .full | none => false
     | none => false) = true := by
  decide +kernel

/-- A copy group; the block at offset 64 has the KIND `k`, N 2, ROWB 8 and BOXH 2. -/
def copying (k : Nat) (n : Nat) : State :=
  let block : List Byte := (List.range 64).map fun i =>
    BitVec.ofNat 8 (if i = 0 then k + (if k = 4 then 0x10 else 0x20) else if i = 4 then 2 else if i = 0x20 then 8 else if i = 0x24 then (if k = 2 then 0 else 2)
      else if i = (if k = 4 then 9 else 0x11) then 2 else 0)
  onC (fun c => { c with scratch := Mem.writeBytes [] 64 block
                         cq := List.replicate n { id := 3, team := 0, cmd := cmdOf [] } })
    (onT (fun t => { t with scr := 4096 }) (onG (fun g => { g with s := [(2, 64), (4, 16), (6, 256), (8, 65)], role := .copy }) base))

theorem witness_CopyCommands :
    let cp : ExtA := { xz 8 3 with a := .s 6, b := .s 6, c := .s 4 }
    let cb (a : Operand) : ExtA := { xz 8 with a }
    let is (a : Operand) : List (Instr × Nat) := [(.cp2d (cb a), 2), (.cpg (cb a), 3), (.cps (cb a), 4)]
    (((.cp cp, 1) :: is (.s 2)).all fun y => y.1.wf && (seen y.1 base fun x _ _ => x.g.role != .copy) &&
      (seen y.1 (copying y.2 0) fun x _ _ => x.g.role == .copy && x.ex != 0) &&
      (seen y.1 (copying y.2 32) fun x _ s' => x.ex != 0 && decide (32 ≤ (s'.core x.core).cq.length))) = true ∧
    (seen (.cp (none_ cp)) (copying 1 0) fun x _ _ => x.ex == 0) = true ∧
    (seen (.cp cp) (copying 1 0) fun x _ _ => let c := Rules.cp x cp
      c.sk && c.dk && decide (c.src + c.len ≤ x.team.scr) && decide (c.dst + c.len ≤ x.team.scr)) = true ∧
    (seen (.cp { cp with c := .s 6, a := .s 20 }) (onT (fun t => { t with scr := 300 }) (copying 1 0)) fun x _ _ =>
      let c := Rules.cp x { cp with c := .s 6, a := .s 20 }
      c.len != 0 && c.dk && decide (x.team.scr < c.dst + c.len)) = true ∧
    ((is (.s 2)).all fun y => seen y.1 (copying y.2 0) fun x _ s' =>
      blockOk ((Rules.scratch x s').bytes (x.team.scrBase + 64) 64) y.2 x.team.scr) = true ∧
    ((is (.s 8)).all fun y => seen y.1 (copying y.2 0) fun x _ _ => (LVec.at (x.src .int (.s 8)) 0).toNat % 64 != 0) = true ∧
    runs (.cpq { xz with dst := .v 9 }) (copying 1 3) = true ∧
    (([2, 3, 4] : List Nat).all fun k => ((copying k 0).core 1).scratch.bytes 64 64 |> fun b => b.length == 64 && blockOk b k 4096) = true := by
  decide +kernel

/-- WAYM in kernel code, in privileged code, with a command that may write the ways and without; a matrix unit of the team and none. -/
theorem witness_FencesAndWays :
    let w : ExtA := { xz with dst := .v 9, a := .s 3 }
    runs (.fences xz) base = true ∧
    (seen (.waym (none_ w)) base fun x _ _ => x.ex == 0) = true ∧
    (seen (.waym w) base fun x _ _ => x.ex != 0 && !x.team.priv) = true ∧
    (([[], [{ id := 3, team := 0, cmd := { cmdOf [] with kind := 1, dk := true, len := 64 } }]] : List (List CopyEnt)).all fun q =>
      seen (.waym w) (onC (fun c => { c with cq := q }) (onG (fun g => { g with s := [(3, 0x700)] }) (onT (fun t => { t with priv := true }) base)))
        fun x _ s' =>
        x.ex != 0 && x.team.priv && decide (max 3 (s'.heldWays x.core) ≠ (s'.core x.core).scrWays) && (q.length == 1) ==
        (s'.core x.core).cq.any fun e => match s'.team? e.team with
          | some t => e.cmd.dk && !e.paused && decide (t.scrBase + e.cmd.dst < max (max 3 (s'.heldWays x.core)) (s'.core x.core).scrWays * 2 ^ 17)
            && decide (min (max 3 (s'.heldWays x.core)) (s'.core x.core).scrWays * 2 ^ 17 < t.scrBase + e.cmd.dst + e.cmd.span)
          | none => false) = true ∧
    (let s := onC (fun c => { c with mx := { c.mx with owner := some 0 } }) base
     (s.core 1).mx.owner = some 0 ∧ (base.core 1).mx.owner ≠ some 0 ∧ (s.team? 0).isSome = true) := by
  decide +kernel

/-- The placed team with a second group; `there` tells whether that group has arrived at the barriers, with n 2 at role barrier 3. -/
def barred (there : Bool) (n : Nat) : State :=
  onT (fun t =>
    { t with
      groups := t.groups ++ (t.groups.take 1).map fun g => { g with grp := 1 }
      bart := { lanes := if there then [(1, 0xFFFFFFFF)] else [], waiters := if there then [{ g := ⟨0, 1⟩, slot := 0 }] else [] }
      barr := if there then [(3, { lanes := [(1, 0xFFFFFFFF)], arrived := [1], first := some n, waiters := [] })] else [] }) base

/-- BART and BARR with an earlier event of the lanes that has not performed. -/
theorem witness_Barriers_wait :
    (([.bart xz, .barrArv (xz (3 + 8)), .barrWt (xz (3 + 8))] : List Instr).all fun i => i.wf &&
      seen i (loading0 (barred true 2)) fun x _ s' => s'.unperformed x.ref x.act != []) = true ∧
    (([false, true] : List Bool).all fun b => seen (.barc (xz (1 + 8) 1)) (onG (fun g => { g with phased := b }) base) fun x _ _ =>
      (xz (1 + 8) 1).mod % 2 == 1 && x.g.phased == b) = true := by
  decide +kernel

theorem witness_Barriers :
    (([true, false] : List Bool).all fun there => seen (.bart xz) (barred there 2) fun x _ s' =>
      match s'.team? x.ref.team with
      | some tm => s'.unperformed x.ref x.act == [] &&
        let lanes := tm.bart.lanes.set x.ref.grp (tm.bart.lanes.getD x.ref.grp 0 ||| x.act)
        (tm.groups.zipIdx.all fun y => Rules.covered lanes y.2 y.1) == there
      | none => false) = true ∧
    (([2, 3] : List Nat).all fun n => ([.barrArv (xz (3 + 8)), .barrWt (xz (3 + 8))] : List Instr).all fun i => i.wf &&
      seen i (barred true n) fun x _ s' =>
        match s'.team? x.ref.team with
        | some tm =>
          let b := Rules.roleBar x tm 3 2
          !(tm.barr.getD 3 {}).arrived.contains x.ref.grp && (b.first == some b.arrived.length) == (n == 2)
        | none => false) = true ∧
    (seen (.barrArv (xz (3 + 8))) (onT (fun t => { t with barr := [(3, { arrived := [0] })] }) base) fun x _ s' =>
      match s'.team? x.ref.team with | some tm => (tm.barr.getD 3 {}).arrived.contains x.ref.grp | none => false) = true ∧
    (let bar (b : CBar) : State := base.modCluster 0 fun c => { c with links := { c.links with bars := [(1, b)] } }
     let w := xz (1 + 8)
     (([({ lid := some 9 }, 0), ({ lid := some 1, arrived := [0] }, 1), ({ lid := some 1, counts := [(0, 5)] }, 1), ({}, 2)
        , ({ lid := some 1, first := some 2, arrived := [5] }, 2)] : List (CBar × Nat)).all fun y =>
       (Instr.barc w).wf && seen (.barc w) (bar y.1) fun x _ s' =>
         match s'.team? x.ref.team with
         | some tm =>
           let b := (s'.cluster (x.core / 8)).links.bars.getD 1 {}
           let b' := Rules.clusterBar x b (w.f 17 12 + 1)
           b == y.1 && w.mod % 2 == 0 &&
           (if y.2 = 0 then b.lid == some 9 && x.team.lid != 9
            else if y.2 = 1 then b.arrived.contains x.ref.team || b.counts.get? x.ref.team == some 5
            else tm.groups.zipIdx.all fun z => Rules.covered (b'.lanes.getD x.ref.team []) z.2 z.1)
         | none => false) = true) := by
  decide +kernel

/-! ### Premises of the statements: the matrix unit, links, slice operations, queues and collectives -/

/-- A matrix group with handles 1 and 2 set for S8 rows and columns, the block of a loop in s8 to s15, `n` entries outstanding. -/
def mxGroup (n : Nat) (hb : Word := 0x200C) : State :=
  let ent (i : Nat) : MxEnt := { id := i + 50, work := .loop (10 * i) false 1 2 0xC 0x200C (loopBlk fun _ => 0) 3 0, ready := 0 }
  onC (fun c => { c with mx := { c.mx with owner := some 0, entries := (List.range n).map ent
                                           hnd := [(1, { word := 0xC, set := true, gen := 4 }), (2, { word := hb, set := true, gen := 5 })] } })
    (onT (fun t => { t with scr := 0x8000 }) (onG (fun g => { g with
      s := [(8, 64), (9, 96), (10, 0x600000), (11, 0), (12, 0), (13, 1152), (14, 0), (15, 0), (20, 64), (21, 3), (22, 0x200C), (23, 5)] })
      (base .matrix)))

def mxLoop (tile : Nat) : ExtA := { xz (8 + 2 ^ 11 + 2 ^ 15 + 2 ^ 17 * tile) with a := .s 8, b := .s 21 }
def mxStep_ (tile : Nat) : ExtA := { xz (8 + 2 ^ 11 + 2 ^ 15 + 2 ^ 17 * tile) with a := .s 8, c := .s 21 }

/-- The bounds of rows, for every step. -/
def rowsIn (base inc : Int) (cnt n str len limit : Nat) : Bool :=
  (List.range cnt).all fun t => (List.range n).all fun i =>
    decide (0 ≤ base + inc * t + str * i) && decide (base + inc * t + str * i + len ≤ limit)

/-- Which check of a loop fails first, by the rules; none when all pass. -/
def loopFails (m : MxUnit) (x : Ctx) (w : ExtA) (tile cnt : Nat) : Option Nat :=
  let r (k : Nat) : Nat := (x.srcReg w.a k 0).toNat
  let a := m.hnd.getD (w.f 22 20) {}
  let b := m.hnd.getD (w.f 25 23) {}
  if 63 < tile then some 0x050
  else if !a.set || !b.set then some 0x052
  else
    match opSet a.word b.word with
    | none => some 0x054
    | some os =>
      if hSide a.word || !hSide b.word then some 0x054
      else if !(decide (r 4 < 2 ^ 18) && decide (r 6 < 2 ^ 18) && decide (r 7 < 2 ^ 16)) then some 0x002
      else if !(r 0 % 16 == 0 && r 1 % 16 == 0 && r 2 / 2 ^ 16 % 16 == 0 && r 4 % 8 == 0 && r 5 % 8 == 0) then some 0x008
      else if !(rowsIn (r 0) (BitVec.ofNat 32 (r 1)).toInt cnt 16 (r 2 / 2 ^ 16) 96 x.team.scr && os.nb == 0) then some 0x040
      else if !rowsIn (r 4) (BitVec.ofNat 32 (r 5)).toInt cnt 12 (rowSize b.word) (rowSize b.word) 262144 then some 0x051
      else none

/-- The same group with one of its registers changed. -/
def withS (n : Nat) (v : Word) (s : State) : State := onG (fun g => { g with s := g.s.set n v }) s

theorem witness_MatrixEntries :
    let wb (a b c : Operand) : ExtA := { xz 8 with a, b, c }
    (([.wbld (wb (.s 20) (.s 20) (.s 20)), .mloop (mxLoop 1), .mstep (mxStep_ 1), .mwait { xz 1 with dst := .v 9 }
       , .accrd { xz with a := .s 21, dst := .v 9 }, .accwr { xz with a := .s 21, b := .v 2 }, .accclr { xz with a := .s 21 }
       , .ohnd { xz 1 with a := .s 22 }, .ohndClr (xz 1 1)] : List Instr).all fun i => i.wf &&
      (seen i base fun x _ _ => x.g.role != .matrix) && seen i (mxGroup 0) fun x _ _ => x.g.role == .matrix && x.ex != 0) = true ∧
    (seen (.wbld (none_ (wb (.s 20) (.s 20) (.s 20)))) (mxGroup 0) fun x _ _ => x.g.role == .matrix && x.ex == 0) = true ∧
    -- WBLD: a multiple of 8 missed; beyond scratch; beyond the buffer; entered; no room
    (([(wb (.s 21) (.s 20) (.s 20), mxGroup 0, 0), (wb (.s 20) (.s 20) (.s 20), onT (fun t => { t with scr := 120 }) (mxGroup 0), 1)
       , (wb (.s 20) (.s 20) (.s 24), withS 24 262144 (mxGroup 0), 2), (wb (.s 20) (.s 20) (.s 24), withS 24 262080 (mxGroup 3), 3)
       , (wb (.s 20) (.s 20) (.s 20), mxGroup 4, 4)] : List (ExtA × State × Nat)).all fun y => seen (.wbld y.1) y.2.1 fun x _ s' =>
      let a := Rules.uni x y.1.a
      let b := Rules.uni x y.1.b
      let c := Rules.uni x y.1.c
      x.g.role == .matrix && x.ex != 0 && (if a % 8 ≠ 0 ∨ b % 8 ≠ 0 ∨ c % 8 ≠ 0 then 0 else if x.team.scr < a + b then 1
        else if 262144 < c + b then 2 else if (Rules.mx x s').entries.length < 4 then 3 else 4) == y.2.2) = true ∧
    -- MLOOP: every check, and none, with room and without
    (([(63, mxGroup 0, none, 0), (1, onC (fun c => { c with mx := { c.mx with hnd := [] } }) (mxGroup 0), some 0x052, 0)
       , (1, mxGroup 0 0xC, some 0x054, 0), (1, withS 12 262144 (mxGroup 0), some 0x002, 0), (1, withS 8 65 (mxGroup 0), some 0x008, 0)
       , (1, withS 8 0x8000 (mxGroup 0), some 0x040, 0), (1, withS 9 (BitVec.ofInt 32 (-48)) (mxGroup 0), some 0x040, 0)
       , (1, withS 12 262136 (mxGroup 0), some 0x051, 0), (1, mxGroup 0, none, 0), (1, mxGroup 4, none, 4)]
      : List (Nat × State × Option Nat × Nat)).all fun y => seen (.mloop (mxLoop y.1)) y.2.1 fun x _ s' =>
      let w := mxLoop y.1
      x.g.role == .matrix && x.ex != 0 && loopFails (Rules.mx x s') x w (w.f 31 26) (Rules.uni x w.b % 2 ^ 16) == y.2.2.1 &&
      (Rules.mx x s').entries.length == y.2.2.2) = true ∧
    (([(62, mxGroup 0, some 0x050), (60, mxGroup 4, none), (60, mxGroup 0, none)] : List (Nat × State × Option Nat)).all fun y =>
      seen (.mstep (mxStep_ y.1)) y.2.1 fun x _ s' =>
      let w := mxStep_ y.1
      loopFails (Rules.mx x s') x w (w.f 31 26 + Rules.uni x w.c) 1 == y.2.2) = true ∧
    (∀ k, k < 9 → ([64, 96, 0x600000, 0, 0, 1152, 0, 0] : List Nat).getD k 0 < 2 ^ 32) ∧
    ((List.range 4096).any fun n => hFmt (BitVec.ofNat 32 n) == some .mxi8) = true ∧
    ((List.range 4096).any fun n => hFmt (BitVec.ofNat 32 n) == none) = true ∧ hFmt 0xC = some .e5m2 := by
  decide +kernel

theorem witness_MatrixResults :
    let acc (t : Nat) : ExtA := { xz (2 ^ 17 * t) with a := .s 21 }
    (([0, 2] : List Nat).all fun n => seen (.mwait { xz 1 with dst := .v 9 }) (mxGroup n) fun x _ s' => x.g.role == .matrix && x.ex != 0 &&
      (Rules.mx x s').entries.length == n) = true ∧
    (([(1, .accrd { acc 1 with dst := .v 9 }), (61, .accrd { acc 61 with dst := .v 9 }), (1, .accwr { acc 1 with b := .v 2 }),
       (61, .accwr { acc 61 with b := .v 2 }), (1, .accclr (acc 1)), (61, .accclr (acc 61))] : List (Nat × Instr)).all fun y => y.2.wf &&
      seen y.2 (mxGroup 1) fun x _ _ => x.g.role == .matrix && x.ex != 0 && Rules.uni x (acc y.1).a == 3) = true ∧
    (seen (.accrd (none_ { acc 1 with dst := .v 9 })) (mxGroup 1) fun x _ _ => x.g.role == .matrix && x.ex == 0) = true ∧
    (([(.s 22, true), (.s 8, false)] : List (Operand × Bool)).all fun y => seen (.ohnd { xz 1 with a := y.1 }) (mxGroup 0) fun x _ _ =>
      x.g.role == .matrix && x.ex != 0 && handleOk (LVec.at (x.src .int y.1) (Mask.lowest x.ex)) == y.2) = true ∧
    runs (.ohndClr (xz 1 1)) (mxGroup 0) = true := by
  decide +kernel

/-- Cluster 0 with every cluster in the partition: `n` credits spent and a FIFO on side 1, channel 2. -/
def linked (n : Nat) (q : List LinkMsg) : State :=
  (onP (fun p => { p with pclus := BitVec.allOnes 128 }) base).modCluster 0 fun c =>
    { c with part := some 0, links := { c.links with fifo := [(6, q)], spent := [(6, n)] } }

def msgOf (lid : Word) : LinkMsg := { words := LVec.splat 5, lanes := 0xF, lid, tlin := 3 }

theorem witness_LinkResults :
    let w : ExtA := xz (8 + 2 ^ 6 + 2 ^ 9)
    let send := { w with b := Operand.v 2 }
    let recv := { xz (2 ^ 6 + 2 ^ 9) with dst := Operand.v 9 }
    let poll := { w with dst := Operand.v 9 }
    (([.nsend send, .nrecv recv, .npoll poll] : List Instr).all fun i => i.wf &&
      (seen i base fun x _ s' => x.ex != 0 && (s'.partNeighbour x.team.part (x.core / 8) 1).isNone) &&
      seen i (linked 0 []) fun x _ s' => x.ex != 0 && (s'.partNeighbour x.team.part (x.core / 8) 1).isSome) = true ∧
    (seen (.nsend (none_ send)) (linked 0 []) fun x _ _ => x.ex == 0) = true ∧
    (([15, 16] : List Nat).all fun n => seen (.nsend send) (linked n []) fun x _ s' =>
      (s'.links (x.core / 8) x.team.part).spent.getD (4 * Rules.dir send + Rules.chan send) 0 == n) = true ∧
    (([([], none), ([msgOf 1], some 1)] : List (List LinkMsg × Option Word)).all fun y =>
      seen (.nrecv recv) (linked 0 y.1) fun x _ s' => ((Rules.fifo x recv (Rules.settled x recv s')).head?.map LinkMsg.lid) == y.2) = true ∧
    (seen (.nrecv recv) (onT (fun t => { t with lid := 7 }) (linked 0 [msgOf 1])) fun x _ s' => x.team.lid == 7 &&
      ((Rules.fifo x recv (Rules.settled x recv s')).head?.map LinkMsg.lid) == some 1) = true ∧
    ((List.range 84).any fun c => (neighbour c 1).isSome) = true := by
  decide +kernel

/-- A slice operation at the lane addresses: ATOM, RED, LR, SC, WAITC. -/
def sliceOps : List (Instr × ExtM × Bool) :=
  let w (dst b : Operand) : ExtM := xm dst (.v 4) b
  [(.atom (w (.v 9) (.v 8)), w (.v 9) (.v 8), true), (.red (w .zero (.v 8)), w .zero (.v 8), true), (.lr (w (.v 9) .zero), w (.v 9) .zero, false)
   , (.sc (w (.v 9) (.v 8)), w (.v 9) (.v 8), false), (.waitc (w (.v 9) (.v 8)), w (.v 9) (.v 8), false)]

theorem witness_Atomics :
    ((sliceOps.take 2).all fun y => y.1.wf &&
      (seen y.1 (lanes (4 * ·)) fun x _ s' => x.ex != 0 &&
        (Rules.accesses x y.2.1 (Mask.list x.ex)).all (fun a => a.va.toNat % 4 == 0 && !notLocal true a.va) &&
        reaches (Rules.reached x true (Rules.accesses x y.2.1 (Mask.list x.ex)) s') (storeW x)) &&
      (seen y.1 (loading0 (lanes (4 * ·))) fun x _ s' => x.ex != 0 &&
        holdsUp (Rules.reached x true (Rules.accesses x y.2.1 (Mask.list x.ex)) s') (storeW x)) &&
      (match y.1 with
       | .atom w => seen (.atom (noLane w)) (lanes (4 * ·)) fun x _ _ => x.ex == 0
       | .red w => seen (.red (noLane w)) (lanes (4 * ·)) fun x _ _ => x.ex == 0
       | _ => false)) = true ∧
    (handler 30 0x01FF 0x0101).isSome = true := by
  decide +kernel

/-- Accesses translate one after another, each with a result or with a page cause. -/
def translatesB (x : Ctx) (wr : Bool) : List VAcc → State → Bool
  | [], _ => true
  | a :: r, s =>
    match s.translateLane x.from x.ref a.lane a.va wr with
    | (s, .err c) => (c == 0x100 || c == 0x101 || c == 0x102) && translatesB x wr r s
    | (_, .busy) => false
    | (s, _) => translatesB x wr r s

theorem witness_Reservations :
    ((sliceOps.drop 2).all fun y => seen y.1 (lanes (4 * ·)) fun x _ s' => x.ex != 0 &&
      (Rules.accesses x y.2.1 (Mask.list x.ex)).all (fun a => a.va.toNat % 4 == 0 && !notLocal false a.va) &&
      (([true, false] : List Bool).all fun wr =>
        match Rules.reached x wr (Rules.accesses x y.2.1 (Mask.list x.ex)) s' with
        | some (s1, ts) => (Rules.lowest ts).isSome && (linesOf ts).all fun l => !storeW x s1 l
        | none => false) && (x.g.split x.g.cur).wait == none) = true ∧
    ((sliceOps.drop 2).all fun y => seen y.1 (loading0 (lanes (4 * ·))) fun x _ s' => x.ex != 0 &&
      (([true, false] : List Bool).all fun wr => holdsUp (Rules.reached x wr (Rules.accesses x y.2.1 (Mask.list x.ex)) s') (storeW x))) = true ∧
    (([.lr (noLane (xm (.v 9) (.v 4) .zero)), .sc (noLane (xm (.v 9) (.v 4) (.v 8))), .waitc (noLane (xm (.v 9) (.v 4) (.v 8)))]
      : List Instr).all fun i => seen i (lanes (4 * ·)) fun x _ _ => x.ex == 0) = true ∧
    (([.lr (xm (.v 9) (.v 4) .zero), .sc (xm (.v 9) (.v 4) (.v 8))] : List Instr).all fun i =>
      seen i (onG (fun g => { g with rsv := some 77 }) (lanes (4 * ·))) fun x _ s' =>
      match s'.group? x.ref with | some g => g.rsv == some 77 | none => false) = true ∧
    -- lane 3 in the scratch window, the others translated, lane 1 of them on an absent page; and a misaligned lane, every lane in the scratch window
    (sliceOps.all fun y => ([0, 8] : List Nat).all fun top =>
      seen y.1 (onG (fun g => { g with v := g.v.set 5 (LVec.tab fun l => if l = 3 then 0x900000 else if l = 1 then BitVec.ofNat 32 top else 0) })
          (resident 0 (lanes (4 * ·)))) fun x _ s' =>
        let accs := Rules.accesses x y.2.1 (Mask.list x.ex)
        accs.all (fun a => a.va.toNat % a.len == 0) && accs.any (fun a => notLocal y.2.2 a.va) && ([true, false] : List Bool).all fun wr =>
          translatesB x wr (accs.filter fun a => !notLocal y.2.2 a.va) s') = true ∧
    (sliceOps.all fun y =>
      (seen y.1 (lanes fun l => if l = 3 then 5 else 4 * l) fun x _ _ =>
        ((Rules.accesses x y.2.1 (Mask.list x.ex)).find? fun a => a.va.toNat % a.len != 0).isSome) &&
      seen y.1 (onG (fun g => { g with v := g.v.set 5 (LVec.splat 0x900000) }) (lanes (4 * ·))) fun x _ _ => x.ex != 0 &&
        (Rules.accesses x y.2.1 (Mask.list x.ex)).all fun a => a.va.toNat % a.len == 0 && notLocal y.2.2 a.va) = true := by
  decide +kernel

/-- Lines in the L1, dirty and clean, and an outstanding load of the group. -/
def cached : State :=
  let l (n : Nat) : L1Line := { line := n, way := 0, data := 5, valid := BitVec.allOnes 256, dirty := if n = 0 then 0xF else 0, cls := .other, part := 0 }
  (onC (fun c => { c with l1 := [(0, [l 0]), (9, [l 9])] }) (lanes (4 * ·))).addOut
    { id := 3, g := ⟨0, 0⟩, core := 1, kind := .load, sb := none, dst := .zero, regs := 1, size := 0, sx := false, lanes := 0, from_ := none
      pieces := [], part := 0, epoch := 0, l1pos := none, cls := .other }

theorem witness_PhasesAndLines :
    let wd := xm .zero (.v 4) .zero 0
    (([1, 2, 3] : List Nat).all fun m => seen (.phase (xz 0 m)) cached fun x _ s' => x.ex != 0 && (xz 0 m).mod == m &&
      !s'.outst.isEmpty && s'.outst.all (fun e => e.2.g == x.ref) && (s'.core x.core).l1.any fun y => y.2.any fun l => l.dirty != 0) = true ∧
    (seen (.phase (xz 0 2)) ({ cached with nextId := 10 }.modOut 3 fun o => { o with kind := .effect, bypass := true }) fun x _ s' =>
      s'.outst.all (fun e => decide (e.1 < s'.nextId)) && s'.outst.any fun e => e.2.core == x.core && e.2.kind == .effect && e.2.bypass) = true ∧
    (seen (.phase (none_ (xz 0 1))) cached fun x _ _ => x.ex == 0) = true ∧
    (seen (.disc wd) cached fun x _ s' => x.ex != 0 &&
      (Rules.accesses x wd (Mask.list x.ex)).all (fun a => !notLocal false a.va) &&
      (match Rules.reached x true (Rules.accesses x wd (Mask.list x.ex)) s' with
       | some (s1, ts) => linesOf ts == [0] && !storeW x s1 0
       | none => false)) = true ∧
    (seen (.disc wd) (loading0 cached) fun x _ s' => x.ex != 0 &&
      (Rules.accesses x wd (Mask.list x.ex)).all (fun a => !notLocal false a.va) &&
      holdsUp (Rules.reached x true (Rules.accesses x wd (Mask.list x.ex)) s') (storeW x)) = true ∧
    (seen (.disc (noLane wd)) cached fun x _ _ => x.ex == 0) = true ∧
    (([.cwb wd, .cinv { wd with h := hx 1 }] : List Instr).all fun i => i.wf && seen i cached fun x _ s' =>
      match Rules.skipped x (Rules.accesses x wd (Mask.list x.ex)) s' with
      | some (s1, ts) => linesOf ts == [0] && (match (s1.core x.core).l1Find 0 with | some l => l.dirty != 0 | none => false)
      | none => false) = true := by
  decide +kernel

/-- A queue in the partition with `n` packets, a descriptor of a collective or a packet at scratch offset 64, and post slots. -/
def posting (n : Nat) (sl : NMap PostSlot := []) : State :=
  let bytes : List Byte := (List.range 64).map fun i =>
    BitVec.ofNat 8 (match i with | 0 => 1 | 4 => 3 | 8 => 5 | 17 => 16 | 25 => 32 | _ => 0)
  let s := onC (fun c => { c with scratch := Mem.writeBytes [] 64 bytes }) (onT (fun t => { t with scr := 4096 })
    (onG (fun g => { g with s := [(6, 64), (7, 2), (8, 9), (9, 65), (10, 70), (11, 4096), (12, 3), (13, 4)], phased := true }) base))
  { (onP (fun p => { p with
      queues := [(2, { base := 0x4000, ctl := 0x84, ridx := 5, widx := BitVec.ofNat 32 (5 + n) }), (3, {})], slots := sl }) s) with
    comms := [(3, (BitVec.ofNat 64 (2 ^ 63 + 4), 0))] }

/-- The same with the queue in the peer window, where an earlier write has ended with a cause. -/
def peerQueue (n : Nat) : State :=
  let s : State := onP (fun p => { p with queues := p.queues.update 2 {} fun q => { q with base := BitVec.ofNat _ (2 ^ 55) } })
    (onC (fun c => { c with tlb := { placedPage with page := 2 ^ 20, peer := 3 } :: c.tlb }) (posting n))
  { s with podcfg := 0x200, far := [{ who := .post ⟨0, 0⟩, peer := 3, line := (5 + n) % 16 / 2, op := 1, done := some (1000, (0x140, 0)) }] }

def slot_ (st : SlotState) : PostSlot := { st, comm := 3, tag := 9, tap := some 77 }

theorem witness_PostsAndCollectives :
    let q (a b : Operand) : ExtA := { xz 8 with a, b }
    let c (a b : Operand) : ExtA := { xz 8 with a, b, dst := .v 9 }
    let cw (m : Nat) : ExtA := { xz 0 m with a := .s 7, dst := .v 10 }
    (([(q (.s 9) (.s 7), posting 0, 0), (q (.s 11) (.s 7), posting 0, 1), (q (.s 6) (.s 10), posting 0, 2), (q (.s 6) (.imm 3), posting 0, 2)
       , (q (.s 6) (.s 7), posting 16, 3), (q (.s 6) (.s 7), resident 0x84 (posting 3), 4), (q (.s 6) (.s 7), posting 3, 5)
       , (q (.s 6) (.s 7), peerQueue 3, 6)] : List (ExtA × State × Nat)).all fun y => seen (.qpost y.1) y.2.1 fun x _ s' => x.ex != 0 &&
      let off := Rules.uni x y.1.a
      let n := Rules.uni x y.1.b
      let k := (s'.part x.team.part).queues.getD n {}
      (if off % 64 ≠ 0 then 0 else if x.team.scr < off + 64 then 1 else if 63 < n ∨ k.ctl.getLsbD 7 = false ∨ k.ctl.toNat % 16 < 4 then 2
       else if (k.widx - k.ridx).toNat = 16 then 3
       else match s'.reach x.from (BitVec.ofNat 56 (k.base.toNat + 64 * (k.widx.toNat % 16))) true with
         | (s1, .spot p) =>
           let bytes := ((Rules.scratch x s1).bytes (x.team.scrBase + off) 64).set 3 0
           let s2 := if p.peer = none then s1.leaveL1 x.core x.ref (p.pa / 128) else s1
           if s1.postAhead x.ref p then 7
           else match s2.spotWrite (.post x.ref) p bytes with
             | (_, .old _) => 4
             | (_, .busy) => 5
             | (_, .kill _) => 6
         | _ => 8) == y.2.2) = true ∧
    (({ posting 3 with far := [{ who := .post ⟨0, 1⟩, peer := 3, line := 2, op := 1 }] } : State).postAhead ⟨0, 0⟩
      { pa := 256, cls := .other, arena := false, peer := some 3 }) = true ∧
    (([.qpost (none_ (q (.s 6) (.s 7))), .coll (none_ (c (.s 6) (.s 8))), .collw (none_ (cw 0)), .collc (none_ (q (.s 12) (.s 8)))]
      : List Instr).all fun i => seen i (posting 0) fun x _ _ => x.ex == 0) = true ∧
    (seen (.coll (c (.s 9) (.s 8))) (posting 0) fun x _ s' => x.collCause s' (Rules.uni x (.s 9)) 9 == some 0x008) = true ∧
    (seen (.coll (c (.s 6) (.s 8))) (onC (fun c => { c with scratch := c.scratch.writeBytes 86 [0x80] }) (posting 0)) fun x _ s' =>
      x.collCause s' (Rules.uni x (.s 6)) 9 == some 0x141) = true ∧
    (seen (.coll (c (.s 6) (.s 8))) (onG (fun g => { g with phased := false }) (posting 0)) fun x _ s' =>
      x.collCause s' (Rules.uni x (.s 6)) (LVec.at (x.src .int (.s 8)) (Mask.lowest x.ex)) == none && !x.g.phased) = true ∧
    (posting 0).prim = (posting 0).pkg ∧ ({ posting 0 with podcfg := 0x280000 } : State).prim ≠ (posting 0).pkg ∧
    (([(posting 0, false), (posting 0 ((List.range 64).map fun i => (i, { slot_ .done with comm := 9 })), true)]
      : List (State × Bool)).all fun y => (Instr.coll (c (.s 6) (.s 8))).wf && seen (.coll (c (.s 6) (.s 8))) y.1 fun x _ s' => x.ex != 0 &&
      x.collCause s' (Rules.uni x (.s 6)) (LVec.at (x.src .int (.s 8)) (Mask.lowest x.ex)) == none && x.g.phased &&
      ((List.range 64).filter fun i => ((s'.part x.team.part).slots.getD i {}).st == .free).isEmpty == y.2) = true ∧
    (([SlotState.free, .posted, .done, .failed] : List SlotState).all fun st => ([0, 1, 2, 3] : List Nat).all fun m =>
      (Instr.collw (cw m)).wf && seen (.collw (cw m)) (posting 0 [(2, slot_ st)]) fun x _ s' => x.ex != 0 &&
      ((s'.part x.team.part).slots.getD (Rules.uni x (.s 7)) {}).st == st) = true ∧
    (([(.s 12, true), (.s 13, false)] : List (Operand × Bool)).all fun y => seen (.collc (q y.1 (.s 8))) (posting 0) fun x _ s' =>
      x.ex != 0 && s'.commValid (Rules.uni x y.1) x.team.part == y.2) = true := by
  decide +kernel

/-! ### Premises of the statements: events of a core -/

/-- The placed team's group `n` times, the k-th changed by `f`, and no group picked. -/
def many (n : Nat) (f : Nat → Group → Group) : State :=
  { onT (fun t => { t with groups := (List.range n).flatMap fun k => (t.groups.take 1).map fun g => f k { g with grp := k } }) base with
    cur := none }

/-- Places 0 to 3 and one group without a place, ready since cycle 0. -/
def five : State := many 5 fun k g => { g with place := if k < 4 then some k else none, waited := 3 * k, readySince := 0, atEnd := k == 1 }

theorem witness_QuarterEvents : every [
    (let s := five
     s.cur.isNone && decide ((s.core 1).issued.getD 0 0 ≤ s.clk) &&
     (s.eligible (s.quarterGroups 1 0 fun _ g => g.place.isSome)).2.length == 4),
    (let s := many 4 fun k g => { g with place := some k, waited := if k = 2 then 63 else 0 }
     let (s1, es) := s.eligible (s.quarterGroups 1 0 fun _ g => g.place.isSome)
     es.any fun h => decide (63 ≤ Rules.waitedOf s1 h)),
    (let s := many 4 fun k g => { g with place := some k, progress := if k = 2 then 0 else 100 }
     let (s1, es) := s.eligible (s.quarterGroups 1 0 fun _ g => g.place.isSome)
     (es.any s1.laggard) && es.all fun h => decide (Rules.waitedOf s1 h < 63)),
    (let s := many 5 fun k g => { g with place := if k < 4 then some k else none, progress := if k < 4 then 100 else 0 }
     let (s1, es) := s.eligible (s.quarterGroups 1 0 fun _ g => g.place.isSome)
     !es.isEmpty && es.all fun h => !s1.laggard h),
    (let s := many 3 fun k g => { g with place := if k = 0 then some 0 else none, readySince := k, progress := if k = 2 then 0 else 100 }
     (s.freePlace 1 0) == some 1 && (s.awaitPlace 1 0).length == 2 && (s.awaitPlace 1 0).any s.laggard),
    (let s := many 2 fun k g => { g with place := some k, atEnd := true, splits := [], live := 0 }
     ((s.quarterGroups 1 0 fun _ g => g.place.isSome && g.atEnd).filter fun r =>
       match s.team? r.team, s.group? r with
       | some t, some gr => !gr.ready || gr.live == 0 || s.stopped t gr
       | _, _ => true).length == 2),
    (let s := five
     (s.quarterGroups 1 0 fun _ g => g.place.isSome && g.atEnd) == [⟨0, 1⟩] &&
     (s.quarterGroups 1 0 fun _ g => g.place.isSome && g.atEnd && decide (g.readySince ≤ g.lastIssue)) == [⟨0, 1⟩] && (s.freePlace 1 0).isNone && s.awaitPlace 1 0 == [⟨0, 4⟩] &&
     (match s.group? ⟨0, 4⟩, s.team? 0, s.group? ⟨0, 1⟩ with
      | some y, some t, some g => decide (y.readySince + 512 ≤ s.clk) && g.ready && g.live != 0 && !s.stopped t g
      | _, _, _ => false))] = true := by
  decide +kernel

/-- An outstanding load of one word, with its piece as `f` leaves it. -/
def loading (kind : OutKind) (l1pos : Option Nat) (f : Piece → Piece) : State :=
  base.addOut
    { id := 3, g := ⟨0, 0⟩, core := 1, kind, sb := none, dst := .v 9, regs := 1, size := 2, sx := false, lanes := 1, from_ := none
      pieces := [f { line := 7, accs := [{ lane := 0, off := 0, len := 4, pos := 0 }] }], part := 0, epoch := 0, l1pos, cls := .other }

/-- A group that waits for a fetch. -/
def wanting (w : Want) (line : Nat) : State :=
  { onG (fun g => { g with want := some w }) base with cur := none, poison := if line = 0 then [] else [line] }

theorem witness_ArrivalEvents : every [
    (([(.load, none, 0), (.ldc, none, 0), (.ldc, some 5, 0), (.load, none, 2000)] : List (OutKind × Option (BitVec 1024) × Nat)).all fun y =>
      match (((loading y.1 (some 0) fun p => { p with vals := some [(0, 5)], data := y.2.1 }).modOut 3 fun o => { o with at_ := y.2.2 })).outst.get? 3 with
      | some o => (match o.pieces[0]? with | some p => !p.landed && p.vals.isSome && p.data == y.2.1 && !p.away | none => false)
        && o.kind == y.1 && decide (o.at_ ≤ base.clk) == (y.2.2 == 0)
      | none => false),
    (match (loading .load none id).outst.get? 3 with
     | some o => (match o.pieces[0]? with | some p => !p.landed && p.vals.isNone | none => false)
     | none => false),
    (match (loading .load none fun p => { p with vals := some [(0, 5)], away := true }).outst.get? 3 with
     | some o => (match o.pieces[0]? with | some p => !p.landed && p.away | none => false)
     | none => false),
    (([(.const 64, 0), (.fetch 64, 0), (.const 1024, 8), (.fetch 1024, 8)] : List (Want × Nat)).all fun y =>
      let s := resident y.2 (wanting y.1 y.2)
      let va : BitVec 56 := match y.1 with | .const v => v | .fetch v => v
      match s.group? ⟨0, 0⟩, s.team? 0 with
      | some gr, some t =>
        gr.want == some y.1 && t.core? == some 1 && !isPeer va &&
        (match s.translate (Rules.coreFrom t 1) va false with
         | (s1, .ok pa e) => match (s1.agentLine (.fetch ⟨0, 0⟩) (pa / 128) e.cls).2 with
           | .line _ => y.2 == 0
           | .kill c => y.2 == 8 && c == 0x0C1
           | _ => false
         | _ => false)
      | _, _ => false),
    (let s := resident 0 (wanting (.const (2 ^ 40)) 0)
     match s.group? ⟨0, 0⟩, s.team? 0 with
     | some gr, some t => gr.want == some (.const (2 ^ 40)) && (match s.translate (Rules.coreFrom t 1) (2 ^ 40) false with | (_, .err _) => true | _ => false)
     | _, _ => false)] = true := by
  decide +kernel

/-- A team like the placed one, with number `id`, at `place`. -/
def teamAt (id : Nat) (place : Place) : Team := { placedTeam .vector with id, place }

/-- Cluster 0 with a partition, a shadow region and a queue of teams. -/
def queued (ts : List (Nat × Team)) (f : LinkSt → LinkSt) : State :=
  ({ base with cur := none, clk := 5000, teams := ts } : State).modCluster 0 fun c =>
    { c with part := some 0, vshad := 100, links := f { c.links with dq := ts.map (·.1) } }

/-- The placed team, to be saved, restored or retired, at a run end. -/
def leaving (f : Team → Team) : State := { onT f base with cur := none }

def frame0 : Frame := { scratch := [], copies := [], mx := some {}, why := .fault }

theorem witness_TeamResidency : every [
    (let s := queued [(5, { teamAt 5 (.queued 0) with scr := 2 ^ 21 })] id
     match s.team? 5 with
     | some tm => (s.cluster 0).part.isSome && (s.cluster 0).switching.isNone && (s.cluster 0).links.dq == [5] && tooLarge tm
     | none => false),
    (let s := queued [(5, teamAt 5 (.queued 0)), (6, teamAt 6 (.queued 0))] fun l => { l with headSince := 4000 }
     match s.team? 5 with
     | some tm => !tooLarge tm && !(s.cluster 0).links.alone && decide (s.clk < 4000 + 4096) &&
       (match s.firstFit 0 [5, 6] with | some (t, c, _) => t.id == 5 && c / 8 == 0 | none => false)
     | none => false),
    (let s := queued [(5, teamAt 5 (.queued 0))] fun l => { l with headSince := 0, alone := true }
     (s.firstFit 0 [5]).isSome && (s.cluster 0).links.alone && decide ((s.cluster 0).links.headSince + 4096 ≤ s.clk) &&
     !(s.cluster 0).links.dq.isEmpty),
    (let s := leaving fun t => { t with saving := some .fault }
     match s.team? 0 with | some t => t.core? == some 1 && t.saving == some .fault && t.boundary.isNone && (s.dropRefused 0).saveReady 1 t | none => false),
    (let s := leaving fun t => { t with saving := some .fault, boundary := some [9] }
     match s.team? 0 with | some t => (s.dropRefused 0).saveReady 1 t && ((s.dropRefused 0).outst.get? 9).isNone | none => false),
    (let s := leaving fun t => { t with place := .restoring 1, frame := some frame0, boundary := some [9] }
     match s.team? 0 with
     | some t => t.place == .restoring 1 && t.frame == some frame0 && t.boundary == some [9] && (s.outst.get? 9).isNone &&
       decide ((s.core 1).cq.length + frame0.copies.length ≤ 32)
     | none => false),
    (([none, some []] : List (Option (List Nat))).all fun b =>
     let s := resident 0x40 <| leaving fun t => { t with recAt := { t.recAt with pa := 0x2000 }, boundary := b, groups := t.groups.map fun g => { g with live := 0, splits := [] } }
     match s.team? 0, s.node? 0 with
     | some t, some n => s.retireReady 1 t && n.st == .running && t.boundary == b && t.id == 0 && !t.recStale &&
       (match s.spotRmw (.team 0) { t.recAt with pa := t.recAt.pa + 0x18 } 0 4 0xFFFFFFFF with | (_, .old _) => true | _ => false)
     | _, _ => false),
    -- a record to be translated again
    (let s := resident 0x40 <| (leaving fun t => { t with recStale := true, boundary := some [], groups := t.groups.map fun g => { g with live := 0, splits := [] } })
       |>.modNode 0 (fun n => { n with tensor := { n.tensor with recs := 0x2000 } }) |>.modCluster 0 fun c => { c with tlb := [placedPage] }
     match s.team? 0, s.node? 0 with
     | some t, some n => s.retireReady 1 t && n.st == .running && t.boundary == some [] && t.id == 0 && t.recStale && s.far.isEmpty &&
       (match s.reach { core := none, cluster := clusterOf 1, part := n.part, lid := n.lid } (BitVec.ofNat 56 (n.tensor.recs + 32 * t.record)) true with
        | (s1, .spot p) =>
          (match (s1.modTeam t.id fun t => { t with recAt := p, recStale := false }).spotRmw (.team 0) { p with pa := p.pa + 0x18 } 0 4 0xFFFFFFFF with
           | (_, .old _) => true | _ => false)
        | _ => false)
     | _, _ => false)] = true := by
  decide +kernel

/-- A copy queue with one command. -/
def cmdIn (e : CopyEnt) : State := { onC (fun c => { c with cq := [e] }) (onT (fun t => { t with scr := 4096 }) base) with cur := none }

/-- The first page in the TLB of cluster 0. -/
def mapped (s : State) : State := s.modCluster 0 fun c => { c with tlb := [placedPage] }

def cmd0 (kind : Nat) (sk dk : Bool) : CopyCmd :=
  { kind, pad := 0, clip := false, dk, sk, n := 2, src := 64, dst := 256, sstr := 8, dstr := 8, rowb := 8, boxh := 2, bstr := 16, idx := 0
    srows := 1, srowb := 8, len := 16 }

def hoopTeam (t : Tag) : Team :=
  { placedTeam .vector with scr := 4096, hoops := [(0, { off := 256, ssz := 32, nslot := 2, tag := [(0, t), (1, t)], fill := [(0, 30)] })] }

theorem witness_CopyEngine : every [
    (let s := cmdIn { id := 3, team := 0, cmd := cmd0 1 true true }
     ((s.core 1).cq.filter CopyEnt.started).length == 0 && ((s.core 1).cq.find? fun e => !e.started).isSome &&
     (match s.team? 0 with | some t => t.saving.isNone && s.nodeRuns t | none => false)),
    -- the next byte of a started command is bad, skipped or written
    (([(cmd0 1 true true, 2), ({ cmd0 3 true true with srows := 0 }, 1)] : List (CopyCmd × Nat)).all fun y =>
      let e : CopyEnt := { id := 3, team := 0, cmd := y.1, started := true }
      let s := cmdIn e
      let p := patchOf ((s.core 1).scratch.bytes (e.cmd.idx + 16 * e.cmd.box e.pos) 16)
      decide (e.pos < e.cmd.total) &&
      (match e.cmd.act p e.pos with | .bad => false | .skip => y.2 == 1 | .write _ _ => decide (e.cmd.run p e.pos (min 64 128) ≠ 0))),
    (let e : CopyEnt := { id := 3, team := 0, cmd := { cmd0 3 true true with n := 1 }, started := true }
     let s := onC (fun c => { c with scratch := Mem.writeBytes [] 0 (List.replicate 16 0xFF) }) (cmdIn e)
     let p := patchOf ((s.core 1).scratch.bytes (e.cmd.idx + 16 * e.cmd.box e.pos) 16)
     match e.cmd.act p e.pos with | .bad => true | _ => false),
    -- the slot that a write reaches
    (([(.filling, 288, 4, 0), (.full, 256, 4, 0x045), (.filling, 280, 16, 0x046), (.filling, 256, 4, 0x046), (.filling, 1024, 4, 0)]
      : List (Tag × Nat × Nat × Nat)).all fun y => (if y.2.1 = 288 then { hoopTeam .full with hoops := [] } else hoopTeam y.1).slotCause y.2.1 y.2.2.1
        == y.2.2.2),
    ((hoopTeam .full).slotAt 1024 == none && ((hoopTeam .full).slotAt 260).isSome),
    -- between scratch and virtual memory
    (let s := resident 2 (mapped (cmdIn { id := 3, team := 0, cmd := cmd0 1 true false, started := true }))
     match s.team? 0 with
     | some t => match s.reachOwn (Rules.engineFrom t 1) 256 true with
       | (s1, .spot p) => (s1.tryWriteN (.copy 1 3) p.pa 16 (leNat ((s1.core 1).scratch.bytes (t.scrBase + 64) 16)) p.cls).2
       | _ => false
     | none => false),
    (let s := resident 0 (mapped (cmdIn { id := 3, team := 0, cmd := cmd0 1 false true, started := true }))
     match s.team? 0 with
     | some t => match s.reachOwn (Rules.engineFrom t 1) 64 false with
       | (s1, .spot p) => (match (s1.engineLine (.copy 1 3) 0 (p.pa / 128) p.cls p.arena).2 with | .line _ => true | _ => false) && t.slotCause 256 16 == 0
       | _ => false
     | none => false),
    isPeer (2 ^ 55),
    (let e : CopyEnt := { id := 3, team := 0, cmd := cmd0 1 true true, started := true, paused := true }
     let s := cmdIn e
     ((s.core 1).cq.find? fun e => e.id == 3) == some e && (s.part 0).posts.isEmpty && (s.part 0).watch.isEmpty),
    (let e : CopyEnt := { id := 3, team := 0, cmd := cmd0 1 true true, started := true, pos := 16 }
     decide (e.cmd.total ≤ e.pos) && ((cmdIn e).core 1).cq == [e])] = true := by
  decide +kernel

/-- The matrix unit of core 1 with a loop of handle 1 over rows at scratch 0, and one entry. -/
def mxWith (f : MxUnit → MxUnit) : State :=
  { onC (fun c => { c with mx := f { c.mx with owner := some 0, hnd := [(1, { word := 0xC, set := true, gen := 4 })
                                                                        , (2, { word := 0x200C, set := true, gen := 5 })] } })
      (onT (fun t => { t with scr := 0x8000 }) (base .matrix)) with cur := none }

def mxEnt0 (work : MxWork) : MxEnt := { id := 50, work, ready := 0 }
def loop0 (total next : Nat) : MxWork := .loop 1 false 1 2 0xC 0x200C (loopBlk fun k => if k = 2 then 0x600000 else 0) total next

theorem witness_MatrixSequencer : every [
    (let s := mxWith fun m => { m with entries := [mxEnt0 (loop0 3 0)] }
     match s.mxRuns 1 with
     | some (_, mx) => (mx.current.map fun c => c.1) == some (mxEnt0 (loop0 3 0)) && decide (mx.fillFree ≤ s.clk) && (opSet 0xC 0x200C).isSome &&
       !((mx.arrive s.clk).missing 1 (rangeLines ((loopBlk fun k => if k = 2 then 0x600000 else 0).places 0 0))).isEmpty
     | none => false),
    (([hoopTeam .full, hoopTeam .empty] : List Team).all fun ht =>
     let s := onT (fun t => { t with hoops := ht.hoops }) (mxWith fun m => { m with
       entries := [mxEnt0 (loop0 3 0)]
       ocache := (List.range 32).map fun i => { h := 1, gen := 4, off := i, bytes := List.replicate 128 0 } })
     match s.mxRuns 1 with
     | some (t, mx) =>
       let now := mx.arrive s.clk
       let parts := (loopBlk fun k => if k = 2 then 0x600000 else 0).places 0 0
       decide (mx.lastStep ≤ s.clk) && !mx.accBefore 50 1 && (rangeLines parts).all (fun l => (now.ocFind 1 l).isSome) &&
       (parts.all fun p => t.slotsReady p.1 p.2) == (ht == hoopTeam .full)
     | none => false),
    (let st : MxStep := { entry := 50, tile := 1, zero := false, wa := 0xC, wb := 0x200C, arows := [], ascales := [], brows := [], bscales := [], at_ := 900 }
     let s := mxWith fun m => { m with steps := [st] }
     (s.core 1).mx.steps == [st] && decide (st.at_ ≤ s.clk)),
    (([hoopTeam .full, hoopTeam .empty] : List Team).all fun ht =>
     let s := onT (fun t => { t with hoops := ht.hoops }) (mxWith fun m => { m with entries := [mxEnt0 (.wbld 256 512 0 0)] })
     match s.mxRuns 1 with
     | some (t, mx) => mx.current == some (mxEnt0 (.wbld 256 512 0 0), true) && t.slotsReady 256 256 == (ht == hoopTeam .full)
     | none => false),
    (let e := { mxEnt0 (.wbld 0 8 0 8) with started := true }
     let s := mxWith fun m => { m with entries := [e] }
     match s.mxRuns 1 with | some (_, mx) => mx.entries == [e] && mx.finished e s.clk | none => false),
    (([.read 1 0 false true true 0 0 1 3, .write 1 0 true 0xF LVec.zero, .clear 1 2 true] : List AccOp).all fun op =>
     let s := mxWith fun m => { m with accq := [{ op, after := [7] }], entries := [mxEnt0 (loop0 3 0)] }
     (s.core 1).mx.accq == [{ op, after := [7] }] && (s.core 1).mx.entries.all fun e => e.id != 7)] = true := by
  decide +kernel

/-! ### Premises of the statements: events of slices, weavers, queues, nodes and partitions -/

/-- No group issues next, the first page is in the TLB of every die, and partition 0 is resident. -/
def calm (f : State → State := id) : State :=
  f ((List.range 4).foldl (fun u d => u.modDie d fun k => { k with tlb := [placedPage] })
    (onP (fun p => { p with resident := true, ptroot := 1 }) { base with cur := none, clk := 4096 }))

/-- A read of line 5 by a source, and a write-back of it. -/
def reqOf (src : Src) (line : Nat) (body : ReqOp) : Req :=
  { op := 3, piece := 0, src, line, cls := .other, arena := false, g := ⟨0, 0⟩, part := 0, epoch := 0, body }

def netOf (slice : Nat) (r : Req) (f : State → State := id) : State := calm fun s => f { s with net := [(slice, r)] }

/-- A request is the oldest of its source at a slice, and what stands against its being taken: its far channel, another home, and its bank. -/
def arrives (s : State) (slice : Nat) (r : Req) (far here stops : Bool) : Bool :=
  (s.net.find? fun x => x.1 == slice && x.2.src == r.src) == some (slice, r) && s.farWaits r.line == far &&
  (match s.home r.line with
   | some h =>
     (h.slice == slice) == here &&
       (!((s.slice slice).xbar.getD (h.set % 4) []).isEmpty || Rules.bankStops (s.slice slice) h.set r) == stops
   | none => false)

/-- A set of slice 5 that is blocked by line 5. -/
def stuck (chain : List Req) : Blocked := { set := 0, line := 5, cls := .other, first := none, chain }

def rline (n : Nat) : SLine := { line := n, data := 5, valid := allNibbles, dirty := 0, cls := .other, replica := true, poison := false }

def slice0 (f : Slice → Slice) (i : Nat := 5) : State := calm fun s => s.modSlice i f

theorem witness_SliceEvents : every [
    (let r := reqOf (.core 1) 5 (.read false)
     arrives (netOf 5 r) 5 r false true false && !r.body.isWb),
    (let r := reqOf (.core 1) 5 (.write 0 1 true)
     arrives (netOf 5 r) 5 r false true false && r.body.isWb),
    (let r := reqOf .fabric 5 (.read false)
     arrives (netOf 70 r) 70 r false false false && srcSector r.src == none),
    -- no replica, a good one, a poisoned one; a request of the source that waits at the home
    (([none, some false, some true] : List (Option Bool)).all fun rep =>
     let r := reqOf (.core 168) 5 (.read false)
     let s := netOf 71 r fun s => match rep with
       | some p => s.modSlice (s.placeIn 1 0 5).slice fun sl => { sl with sets := sl.sets.set (s.placeIn 1 0 5).set [{ rline 5 with poison := p }] }
       | none => s
     let s1 : State := { s with net := s.net.eraseP fun x => x.1 == 71 && x.2.src == r.src }
     arrives s 71 r false false false && srcSector r.src == some (1, 0) && !s1.homePending r.src r.line &&
       (s1.replica? 1 0 5).map SLine.poison == rep),
    (let r := reqOf (.core 168) 5 (.read false)
     let s := netOf 71 r fun s => s.modSlice 5 fun sl => { sl with queues := [(0, [r])] }
     ({ s with net := s.net.eraseP fun x => x.1 == 71 && x.2.src == r.src } : State).homePending r.src r.line),
    (let r := reqOf (.core 1) (farBase / 128) (.read false)
     match (calm).home (farBase / 128) with
     | some h => arrives (netOf h.slice r) h.slice r true true false
     | none => false),
    -- a chain with room and without; a bypass queue without, a bank with 16 sets blocked, and a request that waits at the crossbar
    (([0, 64] : List Nat).all fun n =>
     let r := reqOf (.core 1) 5 (.read false)
     arrives (netOf 5 r fun s => s.modSlice 5 fun sl => { sl with blocked := [stuck (List.replicate n r)] }) 5 r false true (n == 64)),
    (let r := reqOf (.core 1) 5 (.read false)
     arrives (netOf 5 r fun s => s.modSlice 5 fun sl => { sl with queues := [(0, List.replicate 16 r)] }) 5 r false true true),
    (let r := reqOf (.core 1) 5 (.read false)
     arrives (netOf 5 r fun s => s.modSlice 5 fun sl => { sl with blocked := (List.range 16).map fun k => { stuck [] with set := 4 * (k + 1) } }) 5 r
       false true true),
    (let r := reqOf (.core 1) 5 (.read false)
     arrives (netOf 5 r fun s => s.modSlice 5 fun sl => { sl with xbar := [(0, [r])] }) 5 r false true true),
    (([0, 64] : List Nat).all fun n =>
     let r := reqOf (.core 1) 5 (.read false)
     let s := slice0 fun sl => { sl with xbar := [(0, [r])], blocked := [stuck (List.replicate n r)] }
     match s.home 5 with
     | some h => (s.slice 5).xbar.getD 0 [] == [r] && Rules.bankStops (s.slice 5) h.set r == (n == 64)
     | none => false),
    -- a replica that has come; the answer to a core, in its die and in another
    (let s := slice0 (fun sl => { sl with arrivals := [(0, rline 5)] }) 71
     (s.slice 71).arrivals == [(0, rline 5)] && (s.home 5).isSome),
    (([1, 168] : List Nat).all fun c =>
     let r := reqOf (.core c) 5 (.read false)
     let s := loading .load none id
     r.src == .core c && (match s.outst.get? r.op with | some o => (o.pieces[r.piece]?).isSome | none => false)),
    (([0, 64] : List Nat).all fun n =>
     let r := reqOf (.core 1) 5 (.read false)
     let s := slice0 fun sl => { sl with queues := [(0, [r])], blocked := [stuck (List.replicate n r)] }
     match s.home 5 with
     | some h => (s.slice 5).queues.getD 0 [] == [r] && s.bankTakes h r == (n == 0)
     | none => false),
    -- a held line; a blocked set; a fault; holders; a miss; a line that is present
    (([(slice0 fun sl => { sl with held := [{ line := 5, awaiting := 1, reqs := [] }] }, 0), (slice0 fun sl => { sl with blocked := [stuck []] }, 1)
       , (calm fun s => { s with poison := [5] }, 2), (slice0 fun sl => { sl with holders := [(5, 2)] }, 3), (calm, 4), (resident 5 calm, 5)]
       : List (State × Nat)).all fun y =>
     let r := reqOf (.core 1) 5 (if y.2 = 2 then .read false else .atom 0 4 [])
     match y.1.home 5 with
     | some h =>
       let sl := y.1.slice h.slice
       (if sl.held.any fun x => x.line == 5 then 0 else if sl.blocked.any fun b => b.set == h.set then 1 else if y.1.faulty r ≠ 0 then 2
        else if r.body.writes && sl.holders.getD 5 0 != 0 then 3 else if sl.misses h.set 5 r.cls then 4 else if y.1.isWhole r.op then 6 else 5)
         == y.2
     | none => false),
    (let r := reqOf (.core 1) 5 (.read false)
     let s := slice0 fun sl => { sl with blocked := [stuck [r]] }
     ((s.slice 5).blocked.find? fun b => b.set == 0) == some (stuck [r]) && (s.home 5).isSome),
    (([true, false] : List Bool).all fun rep =>
     (([3, 1] : List Nat).all fun k =>
       let u := ({ calm with invals := [] } : State).dropReplica 5 k
       match u.home 5 with | some h => (k / 3 == h.die) == (k == 1) | none => false) &&
     let s := calm fun s => { (if rep then s.modSlice (s.placeIn 1 1 5).slice fun sl => { sl with sets := sl.sets.set (s.placeIn 1 1 5).set [rline 5] } else s) with
       invals := [(5, 3)], drops := [(5, 4)] }
     s.invals.contains (5, 3) && s.drops.contains (5, 4) && (s.replica? 1 1 5).isSome == rep &&
       !s.granting (s.placeIn 1 1 5).slice 5),
    (let s := calm fun s => { s.modSlice (s.placeIn 1 1 5).slice fun sl => { sl with arrivals := [(0, rline 5)] } with drops := [(5, 4)] }
     s.drops.contains (5, 4) && s.granting (s.placeIn 1 1 5).slice 5),
    (([0, 2] : List Nat).all fun a =>
     let x : Held := { line := 5, awaiting := BitVec.ofNat 12 a, reqs := [] }
     let s := slice0 fun sl => { sl with held := [x] }
     (s.slice 5).held == [x] && (s.home 5).isSome && x.owner.isNone && (x.awaiting == 0) == (a == 0)),
    (let m : Mon := { word := 640, opnd := 0, mode := 0, who := .group ⟨0, 0⟩ 0, deadl := some 3 }
     let s := slice0 fun sl => { sl with mons := [(2, m)], overflow := [m] }
     (s.slice 5).mons.get? 2 == some m && decide (3 ≤ s.clk / 256) && s.clk % 1024 == 0),
    (([(0, true), (9, true), (4, false)] : List (Nat × Bool)).all fun y =>
     let r := reqOf (.core 1) 5 (.waitc 0 0 0 (BitVec.ofNat 32 y.1) false 0)
     let s := slice0 fun sl => { sl with refused := [(r, 900)] }
     (s.slice 5).refused[0]? == some (r, 900) && decide (900 ≤ s.clk) && (y.1 == 0 || decide (4 < y.1)) == y.2 && (y.2 ||
       (let s1 := Rules.lineLeaves (s.modSlice 5 fun sl => { sl with refused := sl.refused.eraseIdx 0 }) r
        !s1.inShadow (128 * r.line) && !s1.homePoison r.line))),
    decide (128 * 5 < vaultEnd),
    (let f : FlyMsg := { cluster := 1, side := 0, channel := 2, at_ := 900, part := 0, msg := msgOf 1 }
     let s := calm fun s => { s with fly := [f] }
     (s.fly.find? fun f => f.cluster == 1 && f.side == 0 && f.channel == 2) == some f && decide (f.at_ ≤ s.clk))] = true := by
  decide +kernel

/-- A launch with two records at 0x2000, whose weaver 0 is in a state, with a record of two tiles in hand. -/
def rec0 (st : Nat) : Rec := { first := 0, count := 2, loc := 0x80, migt := if st = 1 then 0x80 else 0, state := BitVec.ofNat 32 st, stamp := 0, live := 0, rsvd := 0 }

def weaving (w : Weaver) (f : State → State := id) : State :=
  calm fun s => f (s.modNode 0 fun n =>
    { n with desc := { n.desc with gcnt := (0, 0, 1), regs := (0, 0, 32) }
             tensor := { n.tensor with recs := 0x2000, nrec := 2, ntiles := 4, dims := [4] }
             weavers := [(0, w)] })

def weavesB (s : State) (w : Weaver) : Bool :=
  match s.node? 0 with
  | some n => n.weavers.get? 0 == some w && n.st == .running && (s.part n.part).resident && n.id == 0
  | none => false

def inHand (st : WSt) (r : Rec) : Weaver := { st, rec_ := some r, recAt := { pa := 0x2000 } }

/-- The line of the records lies in its home slice. -/
def ready (s : State) : State := resident 0x40 s

def gotLine (x : State × Got) : Bool := match x.2 with | .line _ => true | _ => false
def gotOld (x : State × Rmw) : Option Nat := match x.2 with | .old v => some v | _ => none

theorem witness_WeaverEvents : every [
    -- the record is read; it is poisoned; its home is busy
    (([(ready, 0), (fun s => ready { s with poison := [0x40] }, 1), (id, 2)] : List ((State → State) × Nat)).all fun y =>
     let w : Weaver := {}
     let s := weaving w y.1
     weavesB s w && w.st == .read && (match s.node? 0 with
      | some n => decide (w.k < n.tensor.nrec) && (match s.reach (weaverFrom n 0) (BitVec.ofNat 56 (n.tensor.recs + 32 * w.k)) true with
        | (s1, .spot p) => (match (s1.spotLine (.weaver 0 0) p).2 with | .line _ => 0 | .kill _ => 1 | .busy => 2) == y.2
        | _ => false)
      | none => false)),
    -- records in an unknown arena, and on an absent page, of an owner and of another
    (([(10 * 2 ^ 52, 0, 0), (2 ^ 40, 1, 0), (2 ^ 40, 1, 1)] : List (Nat × Nat × Nat)).all fun y =>
     let w : Weaver := { k := y.2.2 }
     let s := resident 0 (weaving w fun s => s.modNode 0 fun n => { n with tensor := { n.tensor with recs := y.1 } })
     weavesB s w && (match s.node? 0 with
      | some n => (match (s.reach (weaverFrom n 0) (BitVec.ofNat 56 (n.tensor.recs + 32 * w.k)) true).2 with
        | .kill _ => y.2.1 == 0
        | .pause _ => y.2.1 == 1
        | _ => false)
      | none => false)),
    -- what a record in hand is
    (([(rec0 0, 0, 0), (rec0 0, 1, 1), ({ rec0 0 with first := 9 }, 0, 2)] : List (Rec × Nat × Nat)).all fun y =>
     let w : Weaver := {}
     match (weaving w fun s => s.modNode 0 fun n => { n with owners := [(0, y.2.1)] }).node? 0 with
     | some n => (if y.1.covers w.here.1 w.here.2.1 n.tensor then (if n.owners.getD w.here.1 9 = 0 then 0 else 1) else 2) == y.2.2 && !w.deferring
     | none => false),
    -- a claim whose record is to be translated again: a page that is there, and one that is absent
    (([(0x2000, true), (2 ^ 40, false)] : List (Nat × Bool)).all fun y =>
     let w := { inHand (.claim 0) (rec0 0) with recStale := true }
     let s := resident 0 (weaving w fun s => s.modNode 0 fun n => { n with tensor := { n.tensor with recs := y.1 } })
     weavesB s w && s.far.isEmpty && !w.deferring && (match s.node? 0 with
      | some n => (match (s.reach (weaverFrom n 0) (BitVec.ofNat 56 (n.tensor.recs + 32 * w.k)) true).2 with
        | .spot _ => y.2
        | .pause _ => !y.2
        | _ => false)
      | none => false)),
    -- the four steps of a claim
    (([({ rec0 0 with count := 0 }, 0), (rec0 2, 1), (rec0 1, 2), (rec0 0, 3)] : List (Rec × Nat)).all fun y =>
     let w := inHand (.claim 0) y.1
     weavesB (weaving w) w && !w.deferring && !w.recStale &&
       (if y.1.usable = false then 0 else if y.1.state.toNat % 4 = 2 then 1 else if y.1.state.toNat % 4 = 1 then 2 else 3) == y.2),
    (let w := { inHand (.claim 0) (rec0 1) with deferring := true }
     weavesB (weaving w) w && w.deferring && (rec0 1).usable),
    (([(0, 0x18, 0, 4), (1, 0x10, 21, 8), (2, 0x18, 0, 4), (3, 0x08, 12, 4)] : List (Nat × Nat × Nat × Nat)).all fun y =>
     let w := inHand (.claim y.1) (rec0 0)
     weavesB (weaving w) w &&
       (gotOld ((weaving w ready).spotRmw (.weaver 0 0) { w.recAt with pa := w.recAt.pa + y.2.1 } y.2.2.1 y.2.2.2 0)).isSome),
    -- STATE as read, and changed since
    (([(0, true), (1, false)] : List (Nat × Bool)).all fun y =>
     match gotOld ((weaving (inHand (.claim 0) (rec0 2)) ready).spotRmw (.weaver 0 0) { pa := 0x2010 } 20 4 (y.1 + 2 ^ 32 * 2)) with
     | some v => (v == y.1) == y.2
     | none => false),
    (let w := inHand (.create 0) (rec0 0)
     weavesB (weaving w) w),
    (let w := inHand (.spill 1 0 0) (rec0 0)
     weavesB (weaving w) w),
    (let w : Weaver := { st := .nonowner 900 }
     weavesB (weaving w) w && decide (900 ≤ (weaving w).clk)),
    (let w : Weaver := { st := .deferWait none, defer := [{ k := 0, tf := 0, tm := 0, w := 1 }] }
     weavesB (weaving w) w && !(weaving w).monArmed (.weaver 0 0)),
    -- the first deferred record: STATE has changed, and has not; its page is absent
    (([(1, true), (0, false)] : List (Word × Bool)).all fun y =>
     let w : Weaver := { st := .deferWait (some 900), defer := [{ k := 0, tf := 0, tm := 0, w := y.1 }] }
     let s := weaving w ready
     weavesB s w && decide (900 ≤ s.clk) && (match s.node? 0 with
      | some n => (match s.reach (weaverFrom n 0) (BitVec.ofNat 56 n.tensor.recs) true with
        | (s1, .spot p) => (match s1.spotLine (.weaver 0 0) { p with pa := p.pa + 0x10 } with
          | (_, .line x) => (BitVec.ofNat 32 (lineGet x ((p.pa + 0x10) % 128) 4) != y.1) == y.2
          | _ => false)
        | _ => false)
      | none => false)),
    (let w : Weaver := { st := .deferWait (some 900), defer := [{ k := 0, tf := 0, tm := 0, w := 1 }] }
     let s := resident 0 (weaving w fun s => s.modNode 0 fun n => { n with tensor := { n.tensor with recs := 2 ^ 40 } })
     weavesB s w && (match s.node? 0 with
      | some n => (match (s.reach (weaverFrom n 0) (BitVec.ofNat 56 n.tensor.recs) true).2 with | .pause _ => true | _ => false)
      | none => false)),
    (let w : Weaver := { st := .repair 2 none }
     weavesB (weaving w) w && !(weaving w).monArmed (.weaver 0 0)),
    (let w : Weaver := { st := .repair 2 none, recStale := true }
     let s := weaving w fun s => s.modSlice 5 fun sl =>
       { sl with mons := [(60, { word := 640, opnd := 0, mode := 0, who := .weaver 0 0, deadl := none })] }
     weavesB s w && s.monArmed (.weaver 0 0) && w.recStale),
    (([(2, true), (0, false)] : List (Word × Bool)).all fun y =>
     let w : Weaver := { st := .repair y.1 (some 900), recAt := { pa := 0x2000 } }
     let s := weaving w ready
     weavesB s w && !w.recStale && (s.part 0).posts.isEmpty && (match s.spotLine (.weaver 0 0) { w.recAt with pa := 0x2010 } with
       | (_, .line x) => (BitVec.ofNat 32 (lineGet x 0x10 4) != y.1) == y.2
       | _ => false)),
    (let w : Weaver := { st := .resume }
     weavesB (weaving w) w && !(weaving w).faultOpen 0 (.weaver 0 0)),
    -- room in no cluster, and in the first
    (((spillOrder 0).all fun c => !((weaving {}).part 0).pclus.getLsbD c) &&
     (let s := weaving {} fun s => onP (fun p => { p with pclus := 1 }) s
      match s.node? 0 with
      | some n => (spillOrder 0).head? == some 0 && (s.part n.part).pclus.getLsbD 0 && n.desc.sd == 0 &&
        decide (0 + 1 < (2 + n.desc.tpt - 1) % 2 ^ 32 / n.desc.tpt)
      | none => false))] = true := by
  decide +kernel

/-- A packet of 64 bytes: TYPE, and the words from offset 16 on. -/
def pktOf (t : Nat) (ws : List Nat) (h : Nat := 0) (csig : Nat := 0) : List Byte :=
  bytesOf (4 : Nat) (t + h) ++ bytesOf 4 0 ++ bytesOf 8 csig ++ (List.range 6).flatMap fun i => bytesOf 8 (ws.getD i 0)
where
  bytesOf (n v : Nat) : List Byte := (List.range n).map fun i => BitVec.ofNat 8 (v / 256 ^ i)

/-- Queue 2 of partition 0 at 0x4000, 16 slots, enabled, holding a packet in its first slot. -/
def queueOf (b : List Byte) (f : Queue → Queue := id) : State :=
  calm fun s => { onP (fun p => { p with queues := [(2, f { base := 0x4000, ctl := 0x84, ridx := 0, widx := 1 })] }) s with
    mem := Mem.writeBytes s.mem 0x4000 b, rdy := 0x10 }

/-- An address that ends an access with a cause, and one that pauses it, once line 0 with the root's entries lies in its slice. -/
def badVa : Nat := 10 * 2 ^ 52
def goneVa : Nat := 2 ^ 40

/-- The slot of the queue's first packet, and the root's line, lie in their slices. -/
def slots (s : State) : State := resident 0 (resident 0x80 s)

theorem witness_QueueEvents : every [
    (([(2, true), (1, false), (17, false)] : List (Nat × Bool)).all fun y =>
     let k := (queueOf (pktOf 1 [])).queue 0 2
     let w := BitVec.ofNat 32 y.1
     (decide (0 < (w - k.widx).toNat) && decide ((w - k.widx).toNat ≤ 2 ^ 31) && decide ((w - k.ridx).toNat ≤ 16)) == y.2),
    (((queueOf (pktOf 1 []) fun k => { k with ctl := 0x20084 }).queue 0 2).ctl.getLsbD 17),
    (let s := slots (queueOf (pktOf 1 []))
     decide (s.qeNext ≤ s.clk) && s.rdy.getLsbD 4 && s.busyQueues == [2] && (s.startable s.busyQueues).2 == [(2, .packet (pktOf 1 []))] &&
     !base.rdy.getLsbD 4),
    -- a head that starts, and one that pauses
    (([(pktOf 1 [], true), (pktOf 4 [goneVa, 5], false)] : List (List Byte × Bool)).all fun y =>
     let s := slots (queueOf y.1)
     s.bestHead [(2, .packet y.1)] == some (2, .packet y.1) && (s.startHead 2 (.packet y.1)).2 == y.2),
    -- a head that may start, a BARRIER without a value, a malformed one, and one whose read has not performed
    (([(pktOf 1 [], 0), (pktOf 3 [0x5000], 1), (pktOf 9 [], 0)] : List (List Byte × Nat)).all fun y =>
     let s := slots (queueOf y.1)
     (s.queue 0 2).enabled && !(s.queue 0 2).aborting && !s.barred 0 2 && !s.keeps 0 2 &&
     (match s.readHead 0 2 with
      | (s1, .packet b) => b == y.1 && (if pktMalformed b || ((Rules.field b 0 1 != 2 || decide ((s1.part 0).matcher.length < 256)) &&
          (Rules.field b 0 1 != 3 || (s1.queue 0 2).eval != none)) then 0 else 1) == y.2
      | _ => false)),
    (match (queueOf (pktOf 1 [])).readHead 0 2 with | (_, .busy) => true | _ => false),
    -- an empty queue; and one that is not enabled, aborting, or paused, with no head read, a head that may start and one that may not
    (((queueOf (pktOf 1 []) fun k => { k with widx := 0 }).queue 0 2).count == 0),
    (([(0x04, false), (0x20084, false), (0x84, true)] : List (Word × Bool)).all fun y =>
     ([none, some (pktOf 1 []), some (pktOf 3 [0x5000])] : List (Option (List Byte))).all fun got =>
     let s := queueOf (pktOf 1 []) fun k => { k with ctl := y.1, paused := y.2, got }
     let k := s.queue 0 2
     k.count != 0 && !s.barred 0 2 && (!k.enabled || k.aborting || k.paused) && k.got == got &&
       (match got with
        | some b => (Rules.field b 0 1 != 3 || k.eval != none) == (b == pktOf 1 [])
        | none => true)),
    (let k := (queueOf (pktOf 1 []) fun k => { k with since := some 0 }).queue 0 2
     k.since == some 0 && decide (0 + 65536 * (k.age + 1) ≤ 70000)),
    (let s := slots (queueOf (pktOf 1 []) fun k => { k with ctl := 0x20084 })
     !s.keeps 0 2 && match s.readHead 0 2 with | (_, .packet b) => b == pktOf 1 [] | _ => false),
    (let s := queueOf (pktOf 1 []) fun k => { k with paused := true }
     (s.queue 0 2).paused && !s.faultOpen 0 (.head 2)),
    (let pk : Pkt := { id := 7, part := 0, queue := 2, index := 0, bytes := pktOf 1 [], st := .signal, paused := true }
     let s := calm fun s => { s with pkts := [(7, pk)] }
     s.pkts.get? 7 == some pk && !s.faultOpen 0 (.packet 7))] = true := by
  decide +kernel

/-- A started packet. -/
def pktIn (b : List Byte) (st : PktSt) : State :=
  resident 0 (calm fun s => { s with pkts := [(7, { id := 7, part := 0, queue := 2, index := 0, bytes := b, st })] })

/-- A line is free at its home for an agent. -/
def freeB (s : State) (a : Agent) (line : Nat) (cls : Cls) (write : Bool) : Bool :=
  match s.home line with
  | some h => !s.farWaits line && (s.slice h.slice).freeFor h.set line cls write &&
    (s.slice h.slice).held.all (fun x => !(x.line == line && x.owner.map (·.1) == some a)) && !s.homePoison line && !s.inShadow (128 * line) &&
    !s.asked a h.slice line && (s.agentFar a h.slice).isNone
  | none => false

/-- An access of partition 0 reaches memory of this package at a free home. -/
def reachesFree (s : State) (a : Agent) (va : BitVec 56) (write : Bool) : Bool :=
  match s.reach (queueFrom 0) va write with
  | (s1, .spot x) => x.peer.isNone && !s1.inShadow x.pa && freeB s1 a (x.pa / 128) x.cls write
  | _ => false

/-- What a write ends with. -/
def wrote (r : Wrote) : Nat := match r with | .done => 0 | .pause _ _ => 1 | .kill _ => 2 | .busy => 3

theorem witness_PacketEvents : every [
    -- the start of a head: LAUNCH without and with a range block, read, pausing, unreadable and not at hand
    (pktMalformed (pktOf 9 [])),
    (([1, 3, 5] : List Nat).all fun t => !pktMalformed (pktOf t []) && Rules.field (pktOf t []) 0 1 == t),
    (!pktMalformed (pktOf 2 [0x6000]) && Rules.field (pktOf 2 [0x6000]) 24 8 == 0),
    (([(0x5000, 0), (goneVa, 1), (badVa, 2), (0x6000, 3)] : List (Nat × Nat)).all fun y =>
     let b := pktOf 2 [0x6000, y.1]
     let s := resident 0xA0 (slots (queueOf b))
     !pktMalformed b && Rules.field b 24 8 != 0 && (match (s.agentRead (.head 2) (queueFrom 0) (Rules.field b 24 8) 128).2 with
       | .bytes _ => 0 | .pause _ _ => 1 | .kill _ => 2 | .busy => 3) == y.2),
    (([some true, some false] : List (Option Bool)).all fun e =>
     ((queueOf (pktOf 3 []) fun k => { k with eval := e }).queue 0 2).eval == e),
    (([(0x5000, 0), (goneVa, 1), (badVa, 2)] : List (Nat × Nat)).all fun y =>
     let b := pktOf 4 [y.1, 5]
     let s := slots (queueOf b)
     !pktMalformed b && (match (s.reach (queueFrom 0) (BitVec.ofNat 56 (Rules.field b 16 8)) true).2 with
       | .spot _ => 0 | .pause _ => 1 | .kill _ => 2 | _ => 3) == y.2),
    (match (queueOf (pktOf 4 [goneVa, 5])).reach (queueFrom 0) (BitVec.ofNat 56 goneVa) true with | (_, .busy) => true | _ => false),
    -- the kinds of malformed packets
    (([pktOf 1 [] (2 ^ 24), pktOf 1 [] (2 ^ 10), pktOf 1 [] (2 ^ 16), pktOf 1 [] 0 4, pktOf 0 [], pktOf 6 [], pktOf 1 [1], pktOf 2 [0, 8],
       pktOf 2 [0, 0, 1], pktOf 3 [4], pktOf 4 [4], pktOf 4 [0, 0, 2], pktOf 4 [0, 0, 0, 1], pktOf 5 [0, 0, 2 ^ 40 + 1], pktOf 5 [0, 0, 0, 1]]
       : List (List Byte)).all pktMalformed && !pktMalformed (pktOf 5 [0, 0, 2 ^ 40])),
    -- a BARRIER of no signal, of one, and of two; signals in an unknown arena
    (([[], [0x5000], [0, 0x5000, 0x5008], [badVa]] : List (List Nat)).all fun ws =>
     let s := resident 0xA0 (slots (queueOf (pktOf 3 ws)))
     let k := s.queue 0 2
     let i := if ws.length = 3 then 1 else 0
     k.enabled && !k.ctl.getLsbD 17 && k.eval.isNone && k.armed.isNone && k.read.isEmpty &&
     (match ((s.withdrawMons fun w => w == .queue 0 2).modQueue 0 2 fun k => { k with armed := none }).readHead 0 2 with
      | (s1, .packet b) => !pktMalformed b && Rules.field b 0 1 == 3 && (s1.queue 0 2).read.isEmpty && (ws == [] || (Rules.field b (16 + 8 * i) 8 != 0 &&
        (List.range i).all (fun j => Rules.field b (16 + 8 * j) 8 == 0) &&
        (match s1.reach (queueFrom 0) (BitVec.ofNat 56 (Rules.field b (16 + 8 * i) 8)) false with
         | (s2, .spot x) => gotLine (s2.spotLine (.head 2) x)
         | (_, .kill _) => ws == [badVa]
         | _ => false) &&
        ((List.range 6).all fun j => decide (j ≤ i) || Rules.field b (16 + 8 * j) 8 == 0) == (ws.length == 1)))
      | _ => false)),
    ((-1 : Int) < 0 && ((0xFFFFFFFFFFFFFFFF : DWord).toInt < 0)),
    -- reads and writes at a free home
    (reachesFree (resident 0xA0 calm) (.head 2) 0x5000 false && reachesFree (resident 0xA0 calm) (.packet 7) 0x5000 true),
    -- SIGNAL: written, pausing, and with a cause
    (([(0x5000, 0), (goneVa, 1), (badVa, 2)] : List (Nat × Nat)).all fun y =>
     let s := resident 0xA0 (pktIn (pktOf 4 [y.1, 5, 1]) .signal)
     wrote (Rules.atSignal s 7 0 y.1 false 5).2 == y.2),
    -- COPY: at its end, in its middle, of a killed node
    (([(0, true), (16, false)] : List (Nat × Bool)).all fun y =>
     let s := resident 0xA0 (resident 0xC0 (pktIn (pktOf 5 [0x5000, 0x6000, 16]) (.copy y.1)))
     match s.pkts.get? 7 with
     | some p => p.st == .copy y.1 && !p.paused && !s.posterKilled p && decide (y.1 < Rules.field p.bytes 32 8) == y.2 &&
       (match s.reachOwn (queueFrom 0) (BitVec.ofNat 56 (0x5000 + y.1)) false with
        | (s1, .spot x) => match s1.reachOwn (queueFrom 0) (BitVec.ofNat 56 (0x6000 + y.1)) true with
          | (s2, .spot z) => y.1 == 16 || match s2.agentPart (.packet 7) (queueFrom 0) (BitVec.ofNat 56 (0x5000 + y.1))
              (runLength (.spot x) (.spot z) (0x5000 + y.1) (0x6000 + y.1) 16) with
            | (s3, .bytes bs) => wrote (s3.agentWrite (.packet 7) (queueFrom 0) (BitVec.ofNat 56 (0x6000 + y.1)) bs).2 == 0
            | _ => false
          | _ => false
        | _ => false)
     | none => false),
    (let s := (pktIn (pktOf 5 [0x5000, 0x6000, 16]) (.copy 0)).modPkt 7 (fun p => { p with poster := some 0 }) |>.modNode 0 fun n => { n with cause := some 0x101 }
     match s.pkts.get? 7 with | some p => s.posterKilled p && p.st == .copy 0 | none => false),
    -- completion: without a signal, with one, with one that pauses and one with a cause; then STS; then the vector
    (([(0, 3), (0x5000, 0), (goneVa, 1), (badVa, 2)] : List (Nat × Nat)).all fun y =>
     let s := resident 0xA0 (pktIn (pktOf 1 [] 0 y.1) (.completing 1 0))
     match s.pkts.get? 7 with
     | some p => !p.paused && (if Rules.field p.bytes 8 8 = 0 then 3
         else wrote (Rules.atSignal s 7 0 (Rules.field p.bytes 8 8 / 8 * 8) false (0 - (BitVec.ofNat 32 (Rules.field p.bytes 4 4)).signExtend 64)).2) == y.2
     | none => false),
    (let s := slots { (queueOf (pktOf 1 [])) with pkts := [(7, { id := 7, part := 0, queue := 2, index := 0, bytes := pktOf 1 [], st := .completing 1 1 })] }
     wrote (s.agentWrite (.packet 7) (queueFrom 0) ((s.queue 0 2).slotVa 0 + 3) [1]).2 == 0),
    (let s := slots (queueOf (pktOf 1 []) fun k => { k with base := BitVec.ofNat _ goneVa })
     wrote (s.agentWrite (.packet 7) (queueFrom 0) ((s.queue 0 2).slotVa 0 + 3) [1]).2 == 1),
    (([0, 0x200] : List Nat).all fun h => (Rules.field (pktOf 1 [] h) 0 4).testBit 9 == (h == 0x200))] = true := by
  decide +kernel

/-- A node of partition 0 beside the placed one, which is changed by `f`. -/
def nodes (f : Node → Node) (g : State → State := id) : State := calm fun s => g (s.modNode 0 f)

/-- A launch descriptor at 0x6000 for one vector group of 32 registers, and its tensor at 0x7000: one tile of 128 S8 elements. -/
def launch (m : Mem) (arsz : Nat) : Mem :=
  [(0x6000, 8, 0x1080), (0x6018, 4, 0x10000), (0x601C, 4, 0x200000), (0x6024, 4, 1), (0x602C, 4, arsz), (0x6030, 8, 0x7000),
   (0x7008, 4, 0x100), (0x7010, 4, 128), (0x7020, 4, 128), (0x7030, 8, 0x2000), (0x7038, 4, 1)].foldl
    (fun m (x : Nat × Nat × Nat) => m.writeN x.1 x.2.1 x.2.2) m

/-- The lines of the descriptors lie in their slices. -/
def descs (s : State) : State := [0, 0x20, 0xC0, 0xC1, 0xE0].foldl (fun u l => resident l u) s

theorem witness_NodeEvents : every [
    (let s := nodes (fun n => { n with st := .waiting }) fun s =>
       onP (fun p => { p with fqCtl := 0x84, pclus := 1 }) { s with rdy := 0x11, vrdy := 1 }
     match s.node? 0 with
     | some n => n.st == .waiting && s.admitsNodes n.part && (s.earlier n).all (fun e => !conflicts e n) && n.id == 0 && s.poolCause n.part == 0
     | none => false),
    (let s := nodes (fun n => { n with st := .waiting }) fun s =>
       onP (fun p => { p with fqCtl := 0x84, pclus := 1, plBase := 0x3000, plCnt := 2 }) { s with rdy := 0x11, vrdy := 1, poison := [0x60] }
     match s.node? 0 with
     | some n => n.st == .waiting && s.admitsNodes n.part && (s.earlier n).all (fun e => !conflicts e n) && s.poolCause n.part != 0
     | none => false),
    (let e : Node := { placedNode with writes := [(64, 64)] }
     conflicts e { placedNode with reads := [(100, 8)] } && overlaps (64, 64) (100, 8)),
    -- descriptors: unreadable values, good ones with and without an arena, and an absent page
    (let s := descs (nodes (fun n => { n with st := .starting, ldesc := 0x6000 }))
     match s.node? 0 with
     | some n => n.st == .starting && !n.ready && !n.paused && (match (s.readNode n).2 with | .bad => true | _ => false)
     | none => false),
    (([0, 4] : List Nat).all fun arsz =>
     let s := descs (nodes (fun n => { n with st := .starting, ldesc := 0x6000 }) fun s => { s with mem := launch s.mem arsz })
     match s.node? 0 with
     | some n => n.st == .starting && !n.ready && !n.paused && (match (s.readNode n).2 with | .ok d _ _ => d.arsz == arsz | _ => false)
     | none => false),
    (let s := descs (nodes fun n => { n with st := .starting, ldesc := goneVa })
     match s.node? 0 with | some n => (match (s.readNode n).2 with | .pause _ _ => true | _ => false) | none => false),
    -- birth: a pool too small; an index never used, and one freed
    (([(8, [0], 0), (2, [0], 1), (8, List.range 256, 2)] : List (Nat × List Nat × Nat)).all fun y =>
     let s := nodes (fun n => { n with st := .starting, ready := true, desc := { n.desc with arsz := 4 } }) fun s =>
       onP (fun p => { p with plCnt := BitVec.ofNat 32 y.1, used := y.2.1, freed := [7] }) s
     match s.node? 0 with
     | some n => n.st == .starting && n.ready && n.desc.arsz != 0 && (s.part n.part).resident &&
       (if (s.part 0).plCnt.toNat < n.desc.arsz then 1 else if (List.range 256).all (s.part 0).used.contains then 2 else 0) == y.2.2 &&
       (y.2.2 == 1 || (((List.range (s.part 0).plCnt.toNat).filter fun g => !(s.part 0).taken.any fun t => t.1 == g).take 4).length == 4)
     | none => false),
    -- the entries of the pool: read, busy, and poisoned; the map at its home, and in a shadow region
    (([(resident 0x60, 0), (id, 1), (fun s => resident 0x60 { s with poison := [0x60] }, 2)] : List ((State → State) × Nat)).all fun y =>
     let s := y.1 (onP (fun p => { p with plBase := 0x3000 }) calm)
     (match (s.readPool placedNode [0, 1]).2 with | .granules _ => 0 | .busy => 1 | .kill _ => 2) == y.2),
    (let s := resident 0x70 (onP (fun p => { p with arena := [(0, (0, 0x3800))] }) calm)
     !s.inShadow 0x3800 && (s.tryWriteN (.node 0) 0x3800 8 (mapWord [1, 2]) .other).2 &&
     (s.modCluster 0 fun c => { c with vshad := 100 }).inShadow (2 ^ 31 - 4096)),
    -- LIVE of a claim
    (gotOld ((resident 0x40 calm).spotRmw (.node 0) { pa := 0x2018 } 0 4 (2 ^ 32 - 1)) == some 0 &&
     (match (calm.spotRmw (.node 0) { pa := 0x2018 } 0 4 (2 ^ 32 - 1)).2 with | .busy => true | _ => false)),
    -- where the record of a claim lies: there, not at hand, and in an unknown arena
    (([(0x2000, 0), (2 ^ 40, 1), (10 * 2 ^ 52, 2)] : List (Nat × Nat)).all fun y =>
     let s := nodes (fun n => { n with tensor := { n.tensor with recs := y.1 } }) id
     match s.node? 0 with
     | some n => (match (s.reach (weaverFrom n 0) (BitVec.ofNat 56 (n.tensor.recs + 32 * 0)) true).2 with
        | .spot _ => y.2 == 0
        | .busy => y.2 == 1
        | .kill _ => y.2 == 2
        | _ => false)
     | none => false),
    (([none, some (0, 1, 0)] : List (Option (Nat × Nat × Nat))).all fun c =>
     let s := nodes (fun n => { n with st := .killing, weavers := match c with
       | some c => [(0, { inHand (.claim 1) (rec0 0) with claims := [c] })]
       | none => [] }) fun s => { s with teams := [] }
     match s.node? 0 with
     | some n => n.st == .killing && (s.part n.part).resident && (s.teamsOf 0).isEmpty && n.openClaim.isSome == c.isSome
     | none => false),
    (let s := nodes fun n => { n with st := .killing }
     match s.node? 0 with
     | some n =>
       let s1 := (((s.teamsOf 0).foldl (fun u t => (u.dropRefused t.id).stopAcc t) s).killSlots n).dropEntries n
       let s2 := s1.withdrawMons fun w => match w with | .weaver k _ => k == 0 | _ => false
       !((s.teamsOf 0).filter s2.teamDown).isEmpty
     | none => false),
    (let s := nodes (fun n => { n with weavers := [(0, { st := .done })] }) fun s => { s with teams := [] }
     match s.node? 0 with
     | some n => n.st == .running && (s.part n.part).resident && n.weavers.all (fun w => w.2.st == .done) && s.teams.all fun t => t.2.node != 0
     | none => false),
    -- SHAKEOUT, and one that a COPY of the node holds back
    (([.signal, .copy 0] : List PktSt).all fun st =>
     let s := nodes (fun n => { n with st := .shakeout }) fun s =>
       { s with teams := [], pkts := [(7, { id := 7, part := 0, queue := 2, index := 0, bytes := pktOf 5 [], st, poster := some 0 })] }
     match s.node? 0 with
     | some n => n.st == .shakeout && (s.part n.part).resident && s.teams.all (fun t => t.2.node != 0) &&
       (s.part n.part).queues.all (fun q => q.2.posted.all fun e => e.2 != 0) &&
       s.pkts.any (fun k => k.2.poster == some 0 && (match k.2.st with | .copy _ => true | _ => false)) == (st == .copy 0)
     | none => false),
    -- one that has posted a COPY packet that has not started, killed and not
    (([none, some 0x101] : List (Option Nat)).all fun cause =>
     let s := nodes (fun n => { n with st := .shakeout, cause }) fun s =>
       onP (fun p => { p with queues := [(2, { base := 0x4000, ctl := 0x84, ridx := 0, widx := 1, posted := [(0, 0)] })] }) { s with teams := [] }
     match s.node? 0 with
     | some n => n.st == .shakeout && (s.part n.part).resident && s.teams.isEmpty && s.pkts.isEmpty && n.cause == cause &&
       (s.part n.part).queues.any fun q => q.2.posted.any fun e => e.2 == 0
     | none => false)] = true := by
  decide +kernel

def fent (agent : FAgent) : FaultEnt :=
  { cause := 0x100, kind := 0, lid := 1, va := 0, team := 0, loc := 0, record := 0, reason := 0, frame := 0, node := 0, agent }

/-- A fault queue at 0x8000 with 16 entries. -/
def faults (f : Part → Part) (g : State → State := id) : State :=
  calm fun s => g (onP (fun p => f { p with fqBase := 0x8000, fqCtl := 0x84 }) s)

theorem witness_PartitionEvents : every [
    -- an entry for a place at a free home, and in a shadow region
    (([0x8000, 2 ^ 31 - 4096] : List Nat).all fun b =>
     let s := resident 0x100 ((faults fun p => { p with fqBase := BitVec.ofNat _ b, posts := [fent (.weaver 0 0)] }).modCluster 0 fun c => { c with vshad := 1 })
     let p := s.part 0
     (p.posts.find? s.postable) == some (fent (.weaver 0 0)) && p.fqOn && decide ((p.fqw - p.fqr).toNat < 2 ^ (p.fqCtl.toNat % 16)) &&
     (let a := p.fqBase.toNat % 2 ^ 52 + 64 * (p.fqw.toNat % 16)
      s.inShadow a == (b != 0x8000) && (s.inShadow a || (s.tryWriteN (.faults 0) a 64 (fent (.weaver 0 0)).word .other).2))),
    (let p := (faults fun p => { p with fqw := 3 }).part 0
     decide (0 < ((2 : Word) - p.fqr).toNat) && decide (((2 : Word) - p.fqr).toNat ≤ (p.fqw - p.fqr).toNat) &&
     decide ((p.fqw - p.fqr).toNat < ((4 : Word) - p.fqr).toNat)),
    -- STAT 0, 1 of a team, and of a weaver; 2 of agents; a poisoned entry; and a pending entry whose next poll has come
    (([(0, .weaver 0 0), (1, .team 0), (1, .weaver 0 0), (2, .weaver 0 0), (2, .coll 3), (2, .head 2), (2, .packet 7)] : List (Nat × FAgent)).all fun y =>
     let s := resident 0x100 (faults (fun p => { p with watch := [(0, fent y.2)], polls := if y.1 = 0 then [(0, 900)] else [] }) fun s =>
       { s with mem := s.mem.writeN 0x803C 4 y.1 })
     ((s.part 0).watch.find? fun x => x.1 == 0) == some (0, fent y.2) &&
     (match (s.part 0).polls.get? 0 with | some t => decide (t ≤ s.clk) | none => !s.monArmed (.fault 0 0)) &&
     (match s.agentLine (.faults 0) (((s.part 0).fqAddr 0 + 0x3C) / 128) .other with
      | (u, .line d) => lineGet d 0x3C 4 == y.1 &&
        (match y.2 with
         | .team t => (let s1 := u.modPart 0 fun p => { p with watch := p.watch.filter (fun x => x.1 != 0), polls := p.polls.erase 0 }
                       match s1.team? t with | some tm => !s1.faultsOpen tm | none => false)
         | _ => true)
      | _ => false)),
    (let s := resident 0x100 (faults (fun p => { p with watch := [(0, fent (.head 2))] }) fun s => { s with poison := [0x100] })
     !s.monArmed (.fault 0 0) && ((s.part 0).polls.get? 0).isNone &&
     (match s.agentLine (.faults 0) (((s.part 0).fqAddr 0 + 0x3C) / 128) .other with | (_, .kill _) => true | _ => false)),
    -- a table whose second level holds a leaf
    (let s := resident 0x200 (resident 0x400 (calm fun s => { (onP (fun p => { p with ptroot := 0x10001 }) s) with
       mem := (s.mem.writeN 0x10000 8 0x8000000000020000).writeN 0x20000 8 0x8000000000000002
       dies := [] }))
     (s.part 0).ptroot.getLsbD 0 && (tlbFind (s.die 0).tlb 0 0).isNone && (match (s.walk 0 0 0).1 with | .leaf _ => true | _ => false)),
    (let p := (calm fun s => onP (fun p => { p with sdVa := 0x20000, sdLen := 0x10000, sdOld := 0x30000, sdSig := 0x40 }) s).part 0
     !p.sdBusy && p.sdVa.toNat % 2 ^ 16 == 0 && p.sdLen.toNat % 2 ^ 16 == 0 && p.sdSig.toNat % 4 == 0),
    (let p := (calm fun s => onP (fun p => { p with sdVa := 0x20001 }) s).part 0
     !p.sdBusy && p.sdVa.toNat % 2 ^ 16 != 0),
    ((calm fun s => onP (fun p => { p with sdBusy := true }) s).part 0).sdBusy,
    -- no signal; one at a free home; one in a shadow region; an access of an old epoch
    (([0, 0x40, 2 ^ 31 - 4096] : List Nat).all fun sig =>
     let s := resident 0 ((calm fun s => onP (fun p => { p with sdBusy := true, sdSig := BitVec.ofNat 64 sig }) s).modCluster 0 fun c => { c with vshad := 1 })
     (s.part 0).sdBusy && !s.oldPending 0 && (sig == 0 || (if s.inShadow sig then sig != 0x40 else sig == 0x40 && freeB s (.shootdown 0) 0 .other true))),
    ((loading0 calm).modPart 0 fun p => { p with epoch := 1 }).oldPending 0,
    ((1 : Word).getLsbD 0 && decide (4 ≤ (5 : Word).toNat) && (5 : Word).getLsbD 0)] = true := by
  decide +kernel

/-! ### Premises of the statements: control space, heats, the package, links, remote streams and collectives -/

def answers (o : Host.Outcome State Fault Refusal) : Bool := match o with | .next _ => true | _ => false

def semOwner (s : State) (port : Port) : Bool :=
  (port == .host0 && s.csem == 1) || (port == .host1 && s.csem == 2) || port == .firmware

theorem witness_ControlEvents : every [
    (([(.host0, 1, 1), (.host0, 1, 0), (.host1, 2, 2), (.host1, 2, 1)] : List (Port × Nat × Nat)).all fun y =>
     let s : State := { base with csem := y.2.2 }
     ((y.1 == .host0 && y.2.1 == 1) || (y.1 == .host1 && y.2.1 == 2)) && ((s.csem == y.2.1) == decide (0 < y.2.2 ∧ y.2.2 = y.2.1))),
    (([(.host0, 64), (.host1, 7), (.firmware, 65)] : List (Port × Nat)).all fun y =>
     let s : State := { base with csem := if y.1 = .host1 then 2 else 1, fuse := 7 }
     semOwner s y.1 && (decide (s.fuse < y.2 ∧ y.2 ≤ 64) == (y.2 == 64))),
    (!semOwner { base with csem := 2 } .host0 && !semOwner base .host1),
    -- port 1 with port 0 to come in the cycle, and without
    (({ base with agenda := [.queueHeadStart, .csemWrite .host0 1] } : State).agenda.contains (.csemWrite .host0 1) && base.agenda.isEmpty),
    (decide (0x20 % 2 ^ 16 ≠ 0x58) && !inMailbox 0x80 [7] && answers (Machine.exec (.registerWrite .host0 0x80 [7]) base) && decide ((0x80 + 1) % 2 ^ 16 ≠ 0x58)),
    (([(0x200000 + 0x10000, [1]), (0x58, [1, 0, 0])] : List (Nat × List Byte)).all fun y =>
     (decide (y.1 % 2 ^ 16 ≠ 0x58) || y.2.length != 4) && !inMailbox y.1 y.2),
    -- a byte of the mailbox; what the mailbox then asks for is a free value (log 32)
    (decide ((0xFFF : Nat) < 0x1000) && inMailbox (0x200000 + 0xFFF) [7] && semOwner { base with csem := 1 } .host0 && !semOwner base .host0),
    (decide (4 ≤ ((0 : Byte) ++ (0 : Byte) ++ (0 : Byte) ++ (5 : Byte)).toNat) && (5 : Byte).getLsbD 0 && !(base.part 7).sdBusy),
    (decide ((7 : Nat) < 8) && !semOwner base .host0 && decide (base.csem < 4))] = true := by
  decide +kernel

/-- Partition 0 on cluster 0 and partition 1 on cluster 1, one after the other in periods of 1,000 ns. -/
def heated (t : Nat) (f : State → State := id) : State :=
  calm fun s =>
    let s := onP (fun p => { p with pclus := 1 }) s
    let s := s.modPart 1 fun p => { p with pclus := 2 }
    f { s with csem := 1, ptp := t, heats := some { period := 1000, nent := 2, ents := [(0, (0, 1)), (1, (500, 2))] } }

theorem witness_HeatEvents : every [
    (([(2, 500, true), (65, 500, false), (2, 0, false), (2, 1000, false)] : List (Nat × Nat × Bool)).all fun y =>
     let s := heated 0 fun s => { s with staged := { period := 1000, ents := [(0, (0, 1)), (1, (BitVec.ofNat 64 y.2.1, 2))] } }
     semOwner s .host0 && s.heatOk { s.staged with nent := y.1 } (BitVec.ofNat 32 y.1).toNat == y.2.2),
    -- due and switched, due and not, teams there, none there
    (let s := heated 0 fun s => s.modCluster 0 fun c => { c with part := some 0 }
     (s.cluster 0).switching.isNone && s.due 0 == (s.cluster 0).part),
    (let s := heated 600 fun s => s.modCluster 0 fun c => { c with part := some 0 }
     (s.cluster 0).switching.isNone && decide (s.due 0 ≠ (s.cluster 0).part)),
    (let s := heated 600 fun s => s.modCluster 0 fun c => { c with part := some 0, switching := some none }
     (s.cluster 0).switching == some none && !(s.onCluster 0).isEmpty),
    (let s := heated 600 fun s => s.modCluster 1 fun c => { c with part := some 0, switching := some (some 1) }
     (s.cluster 1).switching == some (some 1) && (s.onCluster 1).isEmpty && (s.cluster 1).part == some 0 && s.nowResident 0 == false),
    decide ((7 : Nat) < 8)] = true := by
  decide +kernel

/-- An image that no key of the device signs. -/
def image : FwImage := { modulus := 1, exponent := 3, signature := 0, svn := 5, header := [], body := [1], stages := [[2], [3]] }

theorem witness_PackageEvents : every [
    (([.die 3, .vault 83, .far 47, .queueEngine, .fabric] : List ReadyUnit).all fun u =>
     (Rules.readied calm u).isSome &&
       ((List.range 4).all fun d => u != .die d || (!calm.refused.contains d && (List.range 3).all fun sec => mapOk (calm.die d) sec))),
    (({ calm with refused := [3] } : State).refused.contains 3),
    (mapOk ({} : Die) 0 && mapOk ({} : Die) 2 && !mapOk { ({} : Die) with secdiv := 0 } 0),
    (((calm).fwSvn.get? 3).isNone && !(calm).refused.contains 3 && decide ((3 : Nat) < 4) && image.stages.length == 2),
    (let s : State := { calm with fwSvn := [(2, 5)] }
     s.fwSvn.get? 2 == some 5),
    decide ((calm).clearSince + 1000000 ≤ ({ calm with ptp := 1000000 } : State).ptp),
    ((calm).team? 0).isSome,
    (homeSector 5).isSome,
    -- a launch with a message on the link, and one without
    (([[], [msgOf 1]] : List (List LinkMsg)).all fun q =>
     let s := linked 0 q
     match s.node? 0 with
     | some n => n.st == .running && (s.lidsOnLink 0 1).contains n.lid == !q.isEmpty
     | none => false),
    ((posting 0 [(2, slot_ .posted)]).slot 0 2).st != .free,
    (!((calm).ucieAt { edge := 3, module := 15, down := true }).dead),
    (decide (20 + 4 * 235 ≤ 1024 * (8 - ((calm).port 15).badBanks)) && !(calm).portUp 15)] = true := by
  decide +kernel

/-- A payload flit with a header and a good CRC. -/
def flitOf (header : List Nat) : List Byte :=
  let f := (header.map (BitVec.ofNat 8)) ++ List.replicate (248 - header.length) 9
  f ++ (List.range 8).map fun i => BitVec.ofNat 8 ((crc64 f).toNat / 256 ^ i)

def goodB (f : List Byte) : Bool :=
  f.length == 256 && BitVec.ofNat 64 (leNat (f.drop 248)) == crc64 (f.take 248) && decide (leNat (f.take 1) % 16 ≤ 2)

def trained (f : Ucie → Ucie) : State := { calm with ptp := 9000, ucie := (calm.modUcie { edge := 1, module := 2, down := false } f).ucie }

def link0 : UcieRef := { edge := 1, module := 2, down := false }

/-- A request of core 1 that crosses to the die at the far end of a direction of a module. -/
def across (m : UcieRef) : Crossing :=
  { from_ := 0, to_ := Rules.beyond m, pair := (0, 1), msg := .req 5 (reqOf (.core 1) 5 (.read false)) }

/-- Port 15 is up and trained. -/
def portOf (f : FabPort → FabPort) : State := calm fun s => { s.modPort 15 f with fabev := 0x8000, ptp := 9000 }

theorem witness_LinkEvents : every [
    -- a flit that is as expected, with its message, ahead, and behind; a bad one
    (let f := flitOf [0x01, 7, 0, 0]
     goodB f && leNat (f.take 1) % 16 == 1 && !goodB (f.set 9 8) &&
     (([7, 6, 8] : List Byte).all fun e =>
       let s := trained fun u => { u with exp := e, replay := [(7, [across link0])] }
       let x := (s.ucieAt link0)
       (f.getD 1 0 == x.exp) == (e == 7) && decide (0 ≤ (f.getD 1 0 - x.exp).toInt) == (e != 8) &&
       (match x.replay.lookup (f.getD 1 0) with
        | some (x :: _) => Rules.beyond link0 == x.to_ && (match x.msg with | .req _ r => !r.body.isWb | _ => false)
        | _ => false))),
    -- messages that wait, with room
    (let s := trained fun u => { u with waiting := [across link0, across link0], lanes := 64 }
     let u := s.ucieAt link0
     !u.waiting.isEmpty && decide (u.replay.length < 64) && u.lanes != 0),
    -- acknowledgements of some, and of none; room, and none
    (let s := trained fun u => { u with replay := [(3, [across link0]), (4, [across link0])] }
     (s.ucieAt link0).waiting.isEmpty && decide (0 < ((4 : Byte) - 3).toInt) && !decide (0 < ((3 : Byte) - 3).toInt)),
    (([(0, 64), (64, 64), (3, 0)] : List (Nat × Nat)).all fun y =>
     let s := trained fun u => { u with lanes := y.2, replay := List.replicate y.1 (0, [across link0]) }
     let u := s.ucieAt link0
     decide (u.replay.length ≤ 64) && (u.waiting.isEmpty && decide (u.replay.length < 64) && decide (u.lanes ≠ 0)) == (y.1 == 0)),
    (let s := trained fun u => { u with replay := [(3, [across link0])], progressAt := 7000 }
     let u := s.ucieAt link0
     !u.replay.isEmpty && decide (u.progressAt + 2000 ≤ s.ptp)),
    -- a module of 64 and of 32 lanes, alone and beside another
    (([(64, 0), (32, 0), (32, 64)] : List (Nat × Nat)).all fun y =>
     let s := (trained fun u => { u with lanes := y.1 }).modUcie { link0 with module := 5 } fun u => { u with lanes := y.2 }
     let u := s.ucieAt link0
     !u.dead && decide (u.lanes ≠ 0) && (decide (64 ≤ u.lanes) == (y.1 == 64)) &&
       ((List.range 16).all fun k => k == 2 || (s.ucieAt { link0 with module := k }).lanes == 0) == (y.2 == 0) &&
       !(s.ucieAt { link0 with module := 5 }).dead),
    -- the last module that is left
    (let s := (List.range 16).foldl (fun u k => if k = 2 then u else u.modUcie { link0 with module := k } fun u => { u with dead := true })
       (trained fun u => { u with lanes := 32 })
     (s.ucieAt link0).lanes == 32 && !link0.down && (List.range 16).all fun k => k == 2 || (s.ucieAt { link0 with module := k }).dead),
    -- KIND 1, VC 2, 5 credits of channel 1, SEQ 7: as expected, not, and without room
    (let f := flitOf [0x61, 5, 0x70, 0]
     goodB f && leNat (f.take 1) % 16 == 1 &&
     (([(7, 0), (8, 0), (7, 8)] : List (BitVec 12 × Nat)).all fun y =>
       let s := calm fun s => s.modPort 15 fun p => { p with exp := y.1, badBanks := y.2 }
       let k := s.port 15
       (BitVec.ofNat 12 (leNat (f.take 8) / 2 ^ 20) == k.exp) == (y.1 == 7) && decide (k.buf.length < 1024 * (8 - k.badBanks)) == (y.2 == 0) &&
         k.waiting.isEmpty)),
    -- a flit that may go: up, with credit and room; not up; no credit; no room
    (([(portOf id, true), (calm, false), (portOf fun p => { p with used := [(2, 9000)] }, false),
       (portOf fun p => { p with replay := List.replicate 1024 (0, 2, 0) }, false)] : List (State × Bool)).all fun y =>
     let k := y.1.port 15
     k.waiting.isEmpty && (y.1.portUp 15 && decide (k.replay.length < 1024) && k.credit 2) == y.2),
    (([(portOf id, true), (calm, false)] : List (State × Bool)).all fun y => y.1.portUp 15 == y.2),
    (let s := portOf fun p => { p with replay := [(3, 1, 5)], progressAt := 4000 }
     !(s.port 15).replay.isEmpty && decide ((s.port 15).progressAt + 5000 ≤ s.ptp) && s.portUp 15),
    (let s := calm fun s => { s with fabev := 0x8000 }
     s.fabev.getLsbD 15 && decide ((s.port 15).lanes < 4))] = true := by
  decide +kernel

def rst : StreamId := { peer := 3, ch := .req }
def rpkt (seq : Word) (op : RemOp) (ch : Chan := .req) : RemPkt := { st := { rst with ch }, seq, line := 5, cls := 0, op }
def unackedOf (seq : Word) (op : RemOp := .load) : Unacked := { pkt := rpkt seq op, op := 9, piece := 0, firstAt := 0, sentAt := 0, plane := 1 }
def heldOf (seq : Word) : HeldPkt := { pkt := rpkt seq .load, op := 9, piece := 0, order := 3, since := 0 }

/-- An operation of the group with a piece in the line of the packets above. -/
def outOf (k : OutKind) : Outst :=
  { id := 9, g := ⟨0, 0⟩, core := 1, kind := k, sb := some 2, dst := .v 9, regs := 1, size := 2, sx := false, lanes := 1
    from_ := none, pieces := [{ line := 5, accs := [], remote := true }], part := 0, epoch := 0, l1pos := none, cls := .other }

def remote (f : State → State := id) : State := calm fun s => f { s with ptp := 3000000, pmask := [(3, 6)] }
def waitsOut (k : OutKind) : State := remote fun s => (s.addOut (outOf k)).modOutStream rst fun o => { o with unacked := [unackedOf 4] }

theorem witness_RemoteEvents : every [
    (([some 1, none] : List (Option Nat)).all fun pl => (remote fun s => if pl.isSome then s else { s with pmask := [] }).nextPlane 3 == pl),
    -- held packets that may go, and that may not
    (([(.req, true), (.atom, false)] : List (Chan × Bool)).all fun y =>
     let s := (waitsOut .load).modOutStream { rst with ch := y.1 } fun o => { o with waiting := [heldOf 5] }
     rst.ch != .coll && ((s.outStream { rst with ch := y.1 }).waiting.find? (s.mayGo { rst with ch := y.1 })).isSome == y.2 &&
       (s.outStream { rst with ch := y.1 }).waiting.all (fun w => !s.mayGo { rst with ch := y.1 } w) == !y.2),
    (let p := rpkt 0 .load
     let s := resident 5 remote
     p.seq == (s.inStream p.st).applied && (s.applyRemote p).2.isSome),
    (let s := remote fun s => s.modIn rst fun i => { i with applied := 5 }
     serialLt 4 (s.inStream rst).applied && !serialLt 517 (s.inStream rst).applied && !serialLt 518 (s.inStream rst).applied &&
     decide (((517 : Word) - (s.inStream rst).applied).toNat = 512) && (s.inStream rst).early.isEmpty),
    (let s := resident 5 remote
     freeB s (streamAgent rst) 5 (remClsOf 0) false && freeB s (streamAgent rst) 5 (remClsOf 0) true &&
     (remote fun s => s.modCluster 0 fun c => { c with vshad := 127 }).inShadow (2 ^ 31 - 128)),
    (let s := resident 5 (remote fun s => { s with poison := [5] })
     !s.inShadow 640 && (match s.seize (streamAgent rst) false 5 (remClsOf 0) with | (s1, true) => s1.homePoison 5 | _ => false)),
    (let s := waitsOut .load
     let r := emptyRsp (rpkt 4 .load) 0
     ((s.outStream r.st).unacked.find? fun u => u.pkt.seq == r.seq) == some (unackedOf 4) && !r.bare && r.st.ch.other == some .atom),
    (let s := remote fun s => s.modOutStream { rst with ch := .coll } fun o => { o with unacked := [{ unackedOf 4 with pkt := rpkt 4 (.message .heartbeat) .coll }] }
     let r := { emptyRsp (rpkt 4 .load .coll) 0 with bare := true }
     (match (s.outStream r.st).unacked.find? fun u => u.pkt.seq == r.seq with | some u => !s.needsData u | none => false) && r.st.ch == .coll),
    (([.load, .effect] : List OutKind).all fun k =>
     let s := waitsOut k
     (s.outst.get? (unackedOf 4).op).isSome && (emptyRsp (rpkt 4 .load) 0).cause == 0 && (unackedOf 4).pkt.op == .load && (base.outst.get? 9).isNone),
    (let s := waitsOut .load
     s.nextPlane rst.peer == some 1 && decide ((unackedOf 4).sentAt + 20000 ≤ s.ptp)),
    (let s := waitsOut .load
     s.lost rst && (s.outStream rst).unacked.contains (unackedOf 4) && decide ((unackedOf 4).firstAt + 2000000 ≤ s.ptp) && !remote.lost rst)] = true := by
  decide +kernel

def sum2 : CollKey := { op := 1, dt := 2, cnt := 2, root := 0 }

/-- A slot of communicator 3, whose two members are packages 0 and 1. -/
def member (st : SlotState) (f : PostSlot → PostSlot := id) : State :=
  calm fun s =>
    { onP (fun p => { p with slots := [(2, f { st, comm := 3, tag := 9, tap := some 77, key := sum2, sbuf := 0x100, dbuf := 0x200 })] }) s with
      podcfg := 0x200, comms := [(3, (0x8000000000000002, 0x8000))], mem := Mem.writeBytes s.mem 0x8000 [0, 0, 1, 0] }

theorem witness_MemberEvents : every [
    (([.posted, .numbered, .started] : List SlotState).all fun st =>
     ((member st).slotsBy fun sl => sl.st == st && sl.comm == 3 && sl.tag == 9 && sl.tap == some 77).head? == some (0, 2)),
    (let s := resident 2 (member .started)
     let sl := s.slot 0 2
     let n := (bufElems sl.key (s.commSize sl.comm)).1 * dtBytes sl.key.dt
     s.mayRun 0 2 && !sl.paused && sl.src.isNone && s.rankCause sl.comm == 0 && (match partsOf (sl.sbuf + sl.part.length) (n - sl.part.length) with
      | [x] => (match (s.agentPart (.coll 0 2) (s.collFrom 0 sl) (BitVec.ofNat 56 x.1) x.2).2 with | .bytes bs => bs.length == 8 | _ => false)
      | _ => false)),
    (let s := member .posted
     Rules.epoch s != 1),
    -- the rank table in a poisoned line; a failure that another member has told of before the tap number, and data
    (let s := member .started fun sl => sl
     let s : State := { s with poison := [0x100] }
     s.mayRun 0 2 && !(s.slot 0 2).paused && (s.slot 0 2).src.isNone && s.rankCause (s.slot 0 2).comm == 0x0C1),
    (([true, false] : List Bool).all fun told =>
     let s : State := { member .posted with collFailed := if told then [(3, 77)] else [] }
     (s.slotsBy fun sl => sl.st == .posted && sl.comm == 3 && sl.tag == 9).head? == some (0, 2) && s.collFailed.contains (3, 77) == told &&
       (s.slotsBy fun sl => (sl.st == .numbered || sl.st == .started) && sl.comm == 3 && sl.tap == some 77).isEmpty &&
       (s.slotsBy fun sl => sl.comm == 3 && (sl.st == .posted || ((sl.st == .numbered || sl.st == .started) && sl.tap == some 77))).head?
         == some (0, 2)),
    -- the result is written; its buffer pauses it; it lies in an arena that does not exist
    (([(0x200, 0), (goneVa, 1), (badVa, 2)] : List (Nat × Nat)).all fun y =>
     let src : List Byte := [1, 0, 0, 0, 2, 0, 0, 0]
     let s := resident 0 (resident 4 (member .started fun sl => { sl with src := some src, dbuf := y.1 }))
     let sl := s.slot 0 2
     let bs := collResult sl.key [src, src] (s.commRank 3)
     !sl.paused && s.commSize 3 == 2 && s.commRank 3 == 0 && (bufElems sl.key 2).1 * dtBytes sl.key.dt == src.length &&
     wrote (s.collWrite 0 2 (s.collFrom 0 sl) sl.dbuf bs (partsOf sl.dbuf bs.length)).2 == y.2),
    (([true, false] : List Bool).all fun paused =>
     let s := member .started fun sl => { sl with paused }
     !(s.slot 0 2).paused || !s.faultOpen 0 (.coll 2)),
    (let w : Machine.Wait := { on := .collc 3 9, ipc := 0, dst := .zero, wide := false, pd := some 1, lanes := 1 }
     let s := onG (fun g => { g with splits := [(0, { st := .waiting, wait := some w })] }) (member .posted)
     (s.cancelSleepers fun a b => a == 3 && b == 9).head? == some (⟨0, 0⟩, 0, 3, 9))] = true := by
  decide +kernel

/-- The primary, package 0, and the standby named beside it. -/
def primary (pairs : List Pair) (f : State → State := id) (podcfg : DWord := 0x2000000200) : State :=
  f { member .free with ptp := 200000, podcfg, seq := { ({} : TapSeq) with pairs } }

def isPrim (s : State) : Bool := s.inPod && s.podcfg.toNat / 2 ^ 19 % 2 ^ 9 == s.pkg && s.seq.recovering.isNone

theorem witness_SequencerEvents : every [
    (([([{ comm := 3, tag := 9, tap := 0 - 5 }], true, true), ([], false, true),
       ([{ comm := 3, tag := 9, tap := 0 - 2 ^ 20, posted := [(1, sum2)] }], false, false)] : List (List Pair × Bool × Bool)).all fun y =>
     let s := primary y.1
     isPrim s && (s.seq.pairs.find? fun x => x.comm == 3 && x.tag == 9 && !x.joined 1).isSome == y.2.1 &&
     (s.nextTap 3).isSome == y.2.2),
    ((primary [] fun s => { s with seq := { s.seq with recovering := some [1] } }).seq.recovering != none),
    (let s := primary [{ comm := 3, tag := 9, tap := 77, posted := [(0, sum2)] }]
     match s.seq.pairs.find? fun x => x.comm == 3 && x.tag == 9 && !x.joined 1 with | some p => !p.cancelled | none => false),
    (([(true, false), (false, true), (false, false)] : List (Bool × Bool)).all fun y =>
     let s := primary [{ comm := 3, tag := 9, tap := 77, posted := [(1, sum2)], started := y.1, failed := y.2 }]
     (s.seq.pairs.find? fun x => x.comm == 3 && x.tag == 9 && !x.joined 1).isNone &&
     (match s.seq.pairs.find? fun x => x.comm == 3 && x.tag == 9 && (x.posted.any (fun y => y.1 == 1) && !x.complete (s.members 3)) with
      | some p => p.started == y.1 && p.failed == y.2 && !p.cancelled
      | none => false)),
    (let s := primary [{ comm := 3, tag := 8, tap := 0 - 2 ^ 20 }]
     isPrim s && (s.nextTap 3).isNone && (s.seq.pairs.find? fun x => x.comm == 3 && x.tag == 9).isNone && !s.podMembers.isEmpty),
    (([(sum2, true), ({ sum2 with cnt := 3 }, false)] : List (CollKey × Bool)).all fun y =>
     let s := primary [{ comm := 3, tag := 9, tap := 77, posted := [(0, sum2), (1, y.1)] }]
     isPrim s && (match s.settleSeq.startable1 3 with
       | some p => (p.posted.all fun a => p.posted.all fun b => a.2 == b.2) == y.2
       | none => false)),
    (let s := primary []
     isPrim s && s.podcfg.getLsbD 37 && decide (s.seq.lastBeat + 10000 ≤ s.ptp)),
    (let s := primary [] id 0x2000080200
     s.inPod && s.podcfg.getLsbD 37 && s.podcfg.toNat / 2 ^ 28 % 2 ^ 9 == s.pkg && s.seq.recovering.isNone &&
     decide (s.seq.lastHeard + 100000 ≤ s.ptp)),
    (let s := primary []
     s.inPod && decide (0 ≤ ((0x7F : Byte) - Rules.epoch s).toInt) && decide (((0x80 : Byte) - Rules.epoch s).toInt < 0)),
    (([([0, 1], true), ([1], false)] : List (List Nat × Bool)).all fun y =>
     let s := primary [] fun s => { s with seq := { s.seq with recovering := some y.1 } }
     s.seq.recovering == some y.1 && y.1.contains 1 && (y.1.any fun k => k != 1) == y.2),
    (let s := primary [] fun s => { s with seq := { s.seq with reports := [(0, [{ comm := 3, tag := 9, tap := some 77, state := .numbered, key := sum2, order := 0 }])] } }
     let rs := s.seq.reportsOf 3
     !rs.isEmpty && rs.all (fun r => r.2.tap != none || r.2.state != .posted) && highest (tapsUp (rs.filterMap fun r => r.2.tap)) == some 77),
    (let s := primary [] id 0x200
     s.inPod && !s.podcfg.getLsbD 37)] = true := by
  decide +kernel

theorem witness_PortFrame :
    (([(.iadd xb), (.shfl (x2 0 5)), (.prmt xa)] : List Instr).all fun i =>
      seen i base (fun _ _ _ => answers (Machine.exec i base)) &&
      (match opOf i with | some op => decide (op ≤ 0x8A) || (decide (0xA0 ≤ op) && decide (op ≤ 0xA5)) | none => false)) = true := by
  decide +kernel

/-! ### Words written out from the encodings of the spec (R46 to R56, R61): one of every opcode and form -/

def B (dst a b : Operand) : Base := { dst, a, b, y := false, stall := 2 }

def A (dst a b c : Operand) (mod spec mod2 : Nat) : ExtA :=
  { form := .ext, h := hx mod mod2, dst, a, b, c, spec := BitVec.ofNat 23 spec, lit := 0 }

def M (dst a b : Operand) (mmod off mod mod2 : Nat) : ExtM :=
  { h := hx mod mod2, dst, a, b, offset := BitVec.ofNat 24 off, mmod := BitVec.ofNat 8 mmod }

/-- Every word decodes to the instruction beside it, with the length of its form. -/
def decodes (l : List (List Word × Instr)) : Bool := l.all fun x => decode (x.1 ++ [0xFFFFFFFF]) == .instr x.2 x.1.length

theorem test_decode_integer : decodes [
    ([0x28610800], .iadd (B (.v 4) (.v 6) (.v 10))),
    ([0x003DC802, 0x00280C04, 0x00000154], .iaddExt (A (.v 4) (.v 6) (.v 10) .zero 0 0 0)),
    ([0x28610804], .isub (B (.v 4) (.v 6) (.v 10))),
    ([0x003DC806, 0x00280C04, 0x00000154], .isubExt (A (.v 4) (.v 6) (.v 10) .zero 0 0 0)),
    ([0x28610808], .imul (B (.v 4) (.v 6) (.v 10))),
    ([0x003DC80A, 0x00280C04, 0x00000154], .imulExt (A (.v 4) (.v 6) (.v 10) .zero 0 0 0)),
    ([0x2861080C], .imulhi (B (.v 4) (.v 6) (.v 10))),
    ([0x003DC80E, 0x00280C04, 0x00000154], .imulhiExt (A (.v 4) (.v 6) (.v 10) .zero 0 0 0)),
    ([0x2861081C], .imin (B (.v 4) (.v 6) (.v 10))),
    ([0x003DC81E, 0x00280C04, 0x00000154], .iminExt (A (.v 4) (.v 6) (.v 10) .zero 0 0 0)),
    ([0x28610820], .imax (B (.v 4) (.v 6) (.v 10))),
    ([0x003DC822, 0x00280C04, 0x00000154], .imaxExt (A (.v 4) (.v 6) (.v 10) .zero 0 0 0)),
    ([0x28610824], .shl (B (.v 4) (.v 6) (.v 10))),
    ([0x003DC826, 0x00280C04, 0x00000154], .shlExt (A (.v 4) (.v 6) (.v 10) .zero 0 0 0)),
    ([0x28610828], .shr (B (.v 4) (.v 6) (.v 10))),
    ([0x003DC82A, 0x00280C04, 0x00000154], .shrExt (A (.v 4) (.v 6) (.v 10) .zero 0 0 0)),
    ([0x2861082C], .sar (B (.v 4) (.v 6) (.v 10))),
    ([0x003DC82E, 0x00280C04, 0x00000154], .sarExt (A (.v 4) (.v 6) (.v 10) .zero 0 0 0)),
    ([0x28610830], .rol (B (.v 4) (.v 6) (.v 10))),
    ([0x003DC832, 0x00280C04, 0x00000154], .rolExt (A (.v 4) (.v 6) (.v 10) .zero 0 0 0)),
    ([0xE8610818], .iabs (B (.v 4) (.v 6) .zero)),
    ([0x003DC81A, 0x05500C04, 0x00000154], .iabsExt (A (.v 4) (.v 6) .zero .zero 0 0 0)),
    ([0xE8610838], .popc (B (.v 4) (.v 6) .zero)),
    ([0x003DC83A, 0x05500C04, 0x00000154], .popcExt (A (.v 4) (.v 6) .zero .zero 0 0 0)),
    ([0xE861083C], .clz (B (.v 4) (.v 6) .zero)),
    ([0x003DC83E, 0x05500C04, 0x00000154], .clzExt (A (.v 4) (.v 6) .zero .zero 0 0 0)),
    ([0xE8610840], .ctz (B (.v 4) (.v 6) .zero)),
    ([0x003DC842, 0x05500C04, 0x00000154], .ctzExt (A (.v 4) (.v 6) .zero .zero 0 0 0)),
    ([0xE8610844], .brev (B (.v 4) (.v 6) .zero)),
    ([0x003DC846, 0x05500C04, 0x00000154], .brevExt (A (.v 4) (.v 6) .zero .zero 0 0 0)),
    ([0x003DC812, 0x00280C04, 0x0000000E], .imad (A (.v 4) (.v 6) (.v 10) (.v 14) 0 0 0)),
    ([0x003DC816, 0x00280C04, 0x0000000E], .imadw (A (.v 4) (.v 6) (.v 10) (.v 14) 0 0 0)),
    ([0x003DC836, 0x00280C04, 0x0001D00E], .logic (A (.v 4) (.v 6) (.v 10) (.v 14) 0 232 0)),
    ([0x103DC84A, 0x00280C04, 0x00000154], .bfx (A (.v 4) (.v 6) (.v 10) .zero 1 0 0)),
    ([0x003DC84E, 0x00280C04, 0x0000000E], .bfi (A (.v 4) (.v 6) (.v 10) (.v 14) 0 0 0)),
    ([0x003DC852, 0x00280C04, 0x00000354], .sel (A (.v 4) (.v 6) (.v 10) .zero 0 1 0)),
    ([0x003DC856, 0x00280C04, 0x00000154], .aadd (A (.v 4) (.v 6) (.v 10) .zero 0 0 0)),
    ([0x703DC85A, 0x00280C04, 0x0000000E], .idot4 (A (.v 4) (.v 6) (.v 10) (.v 14) 7 0 0))] = true := by decide +kernel

theorem test_decode_float : decodes [
    ([0x28610900], .fadd (B (.v 4) (.v 6) (.v 10))),
    ([0x003DC902, 0x00280C04, 0x00000154], .faddExt (A (.v 4) (.v 6) (.v 10) .zero 0 0 0)),
    ([0x28610904], .fmul (B (.v 4) (.v 6) (.v 10))),
    ([0x003DC906, 0x00280C04, 0x00000154], .fmulExt (A (.v 4) (.v 6) (.v 10) .zero 0 0 0)),
    ([0x2861090C], .fmin (B (.v 4) (.v 6) (.v 10))),
    ([0x003DC90E, 0x00280C04, 0x00000154], .fminExt (A (.v 4) (.v 6) (.v 10) .zero 0 0 0)),
    ([0x28610910], .fmax (B (.v 4) (.v 6) (.v 10))),
    ([0x003DC912, 0x00280C04, 0x00000154], .fmaxExt (A (.v 4) (.v 6) (.v 10) .zero 0 0 0)),
    ([0xE8610920], .frcp (B (.v 4) (.v 6) .zero)),
    ([0x003DC922, 0x05500C04, 0x00000154], .frcpExt (A (.v 4) (.v 6) .zero .zero 0 0 0)),
    ([0xE8610924], .frsq (B (.v 4) (.v 6) .zero)),
    ([0x003DC926, 0x05500C04, 0x00000154], .frsqExt (A (.v 4) (.v 6) .zero .zero 0 0 0)),
    ([0xE8610928], .fsqrt (B (.v 4) (.v 6) .zero)),
    ([0x003DC92A, 0x05500C04, 0x00000154], .fsqrtExt (A (.v 4) (.v 6) .zero .zero 0 0 0)),
    ([0xE861092C], .fexp2 (B (.v 4) (.v 6) .zero)),
    ([0x003DC92E, 0x05500C04, 0x00000154], .fexp2Ext (A (.v 4) (.v 6) .zero .zero 0 0 0)),
    ([0xE8610930], .flog2 (B (.v 4) (.v 6) .zero)),
    ([0x003DC932, 0x05500C04, 0x00000154], .flog2Ext (A (.v 4) (.v 6) .zero .zero 0 0 0)),
    ([0xE8610934], .fsin (B (.v 4) (.v 6) .zero)),
    ([0x003DC936, 0x05500C04, 0x00000154], .fsinExt (A (.v 4) (.v 6) .zero .zero 0 0 0)),
    ([0xE8610938], .fcos (B (.v 4) (.v 6) .zero)),
    ([0x003DC93A, 0x05500C04, 0x00000154], .fcosExt (A (.v 4) (.v 6) .zero .zero 0 0 0)),
    ([0xE861093C], .ftanh (B (.v 4) (.v 6) .zero)),
    ([0x003DC93E, 0x05500C04, 0x00000154], .ftanhExt (A (.v 4) (.v 6) .zero .zero 0 0 0)),
    ([0x003DC90A, 0x00280C04, 0x0000000E], .ffma (A (.v 4) (.v 6) (.v 10) (.v 14) 0 0 0)),
    ([0x003DC916, 0x00280C04, 0x00000154], .fcls (A (.v 4) (.v 6) (.v 10) .zero 0 0 0)),
    ([0x003DC942, 0x00280C04, 0x00000154], .hadd2 (A (.v 4) (.v 6) (.v 10) .zero 0 0 0)),
    ([0x003DC946, 0x00280C04, 0x00000154], .hmul2 (A (.v 4) (.v 6) (.v 10) .zero 0 0 0)),
    ([0x003DC94E, 0x00280C04, 0x00000154], .hmin2 (A (.v 4) (.v 6) (.v 10) .zero 0 0 0)),
    ([0x003DC952, 0x00280C04, 0x00000154], .hmax2 (A (.v 4) (.v 6) (.v 10) .zero 0 0 0)),
    ([0x003DC94A, 0x00280C04, 0x0000000E], .hfma2 (A (.v 4) (.v 6) (.v 10) (.v 14) 0 0 0)),
    ([0x103DC962, 0x00280C04, 0x0000000E], .fdot2 (A (.v 4) (.v 6) (.v 10) (.v 14) 1 0 0)),
    ([0x803DC9C2, 0x05500C04, 0x00024154], .cvt (A (.v 4) (.v 6) .zero .zero 8 288 0)),
    ([0x003DC9C6, 0x00280C04, 0x0000120E], .pack (A (.v 4) (.v 6) (.v 10) (.v 14) 0 9 0)),
    ([0x003DC9CA, 0x05500C04, 0x00001354], .unpack (A (.v 4) (.v 6) .zero .zero 0 9 0)),
    ([0x003DC9CE, 0x05500C04, 0x00002154], .mxscale (A (.v 4) (.v 6) .zero .zero 0 16 0)),
    ([0x003DC9D2, 0x00280C04, 0x0000200E], .qnt (A (.v 4) (.v 6) (.v 10) (.v 14) 0 16 0))] = true := by decide +kernel

theorem test_decode_compare : decodes [
    ([0x203DCA02, 0x00280D54, 0x00000354], .icmp (A .zero (.v 6) (.v 10) .zero 2 1 0)),
    ([0x203DCA06, 0x00280D54, 0x00000354], .fcmp (A .zero (.v 6) (.v 10) .zero 2 1 0)),
    ([0x003DCA0A, 0x0552A954, 0x00000154], .plogic (A .zero .zero .zero .zero 0 0 0)),
    ([0x003DCA0E, 0x0552A804, 0x00000154], .pmovGet (A (.v 4) .zero .zero .zero 0 0 0)),
    ([0x103DCA0E, 0x05500D54, 0x00000154], .pmovPut (A .zero (.v 6) .zero .zero 1 0 0)),
    ([0xE8610A20], .mov (B (.v 4) (.v 6) .zero)),
    ([0x003DCA22, 0x05500C04, 0x00000154], .movExt (A (.v 4) (.v 6) .zero .zero 0 0 0)),
    ([0x03A10A25, 0x12345678, 0x00000000], .movl { form := .baseLit, dst := .v 4, a := .zero, b := .lit, c := .zero, spec := 0, lit := 0x12345678, h := .base false 2 }),
    ([0x003DCA2A, 0x0552A804, 0x00001954], .movs (A (.v 4) .zero .zero .zero 0 12 0))] = true := by decide +kernel

theorem test_decode_control : decodes [
    ([0x003DCA42, 0x0552A954, 0x00004154], .bra (A .zero .zero .zero .zero 0 32 0)),
    ([0x003DCA46, 0x05500D54, 0x00000154], .brx (A .zero (.v 6) .zero .zero 0 0 0)),
    ([0x003DCA4A, 0x05522004, 0x00000154], .call (A (.v 4) (.s 6) .zero .zero 0 0 0)),
    ([0x003DCA4E, 0x05500D54, 0x00000154], .ret (A .zero (.v 6) .zero .zero 0 0 0)),
    ([0xEBAE8A50], .exit (B .zero .zero .zero)),
    ([0x003DCA52, 0x0552A954, 0x00000154], .exitExt (A .zero .zero .zero .zero 0 0 0)),
    ([0xEBAE8A54], .nop (B .zero .zero .zero)),
    ([0x003DCA56, 0x0552A954, 0x00000154], .nopExt (A .zero .zero .zero .zero 0 0 0)),
    ([0xEBAE8A58], .yield (B .zero .zero .zero)),
    ([0x003DCA5A, 0x0552A954, 0x00000154], .yieldExt (A .zero .zero .zero .zero 0 0 0)),
    ([0xEBAE8A60], .eret (B .zero .zero .zero)),
    ([0x003DCA62, 0x0552A954, 0x00000154], .eretExt (A .zero .zero .zero .zero 0 0 0)),
    ([0x003DCA5E, 0x0552A954, 0x00000B54], .trap (A .zero .zero .zero .zero 0 5 0)),
    ([0x003DCA66, 0x0552A804, 0x00000754], .rdsys (A (.v 4) .zero .zero .zero 0 3 0)),
    ([0x003DCA6A, 0x05500D54, 0x00000754], .wrsys (A .zero (.v 6) .zero .zero 0 3 0)),
    ([0x003DCA82, 0x00280C04, 0x00000154], .shfl (A (.v 4) (.v 6) (.v 10) .zero 0 0 0)),
    ([0x203DCA86, 0x0552A804, 0x00000154], .vote (A (.v 4) .zero .zero .zero 2 0 0)),
    ([0x003DCA8A, 0x05500C04, 0x00000154], .matchLanes (A (.v 4) (.v 6) .zero .zero 0 0 0)),
    ([0x003DCA8E, 0x05500C04, 0x00000154], .redg (A (.v 4) (.v 6) .zero .zero 0 0 0)),
    ([0x003DCA92, 0x0552A804, 0x00000154], .elect (A (.v 4) .zero .zero .zero 0 0 0)),
    ([0x003DCA96, 0x00280C04, 0x0000000E], .prmt (A (.v 4) (.v 6) (.v 10) (.v 14) 0 0 0))] = true := by decide +kernel

theorem test_decode_memory : decodes [
    ([0x003DCAC2, 0x05500C04, 0x00004002], .ld (M (.v 4) (.v 6) .zero 2 64 0 0)),
    ([0x003DCAC6, 0x00280D54, 0x00004002], .st (M .zero (.v 6) (.v 10) 2 64 0 0)),
    ([0x003DCACA, 0x05500C04, 0x00004002], .ldl (M (.v 4) (.v 6) .zero 2 64 0 0)),
    ([0x003DCACE, 0x00280D54, 0x00004002], .stl (M .zero (.v 6) (.v 10) 2 64 0 0)),
    ([0x003DCAD2, 0x05500C04, 0x00004002], .ldc (M (.v 4) (.v 6) .zero 2 64 0 0)),
    ([0x003DCAD6, 0x05500D54, 0x00004000], .pref (M .zero (.v 6) .zero 0 64 0 0)),
    ([0x003DCB02, 0x45522404, 0x00004002], .lds (M (.v 4) (.s 8) .zero 2 64 0 1)),
    ([0x003DCB06, 0x40280D54, 0x00004002], .sts (M .zero (.v 6) (.v 10) 2 64 0 1)),
    ([0x203DCB0A, 0x40280C04, 0x00004002], .atoms (M (.v 4) (.v 6) (.v 10) 2 64 2 1)),
    ([0x003DCBA2, 0x00280C04, 0x00004002], .atom (M (.v 4) (.v 6) (.v 10) 2 64 0 0)),
    ([0x003DCBA6, 0x00280D54, 0x00004002], .red (M .zero (.v 6) (.v 10) 2 64 0 0)),
    ([0x003DCBAA, 0x05500C04, 0x00004002], .lr (M (.v 4) (.v 6) .zero 2 64 0 0)),
    ([0x003DCBAE, 0x00280C04, 0x00004002], .sc (M (.v 4) (.v 6) (.v 10) 2 64 0 0)),
    ([0x003DCBB2, 0x00280C04, 0x00004002], .waitc (M (.v 4) (.v 6) (.v 10) 2 64 0 0)),
    ([0x003DCBBA, 0x05500D54, 0x00004000], .disc (M .zero (.v 6) .zero 0 64 0 0)),
    ([0x003DCBBE, 0x05500D54, 0x00004000], .cwb (M .zero (.v 6) .zero 0 64 0 0)),
    ([0x103DCBBE, 0x05500D54, 0x00004000], .cinv (M .zero (.v 6) .zero 0 64 1 0))] = true := by decide +kernel

theorem test_decode_team : decodes [
    ([0x003DCB0E, 0x0552A804, 0x00001554], .hoopAcq (A (.v 4) .zero .zero .zero 0 10 0)),
    ([0x003DCB12, 0x0552A804, 0x00000554], .hoopWait (A (.v 4) .zero .zero .zero 0 2 0)),
    ([0x003DCB16, 0x0552A954, 0x00000554], .hoopRel (A .zero .zero .zero .zero 0 2 0)),
    ([0x003DCB1A, 0x04421D54, 0x0000110C], .cp (A .zero (.s 4) (.s 6) (.s 2) 0 8 0)),
    ([0x003DCB1E, 0x05522154, 0x00001154], .cp2d (A .zero (.s 6) .zero .zero 0 8 0)),
    ([0x003DCB22, 0x05522154, 0x00001154], .cpg (A .zero (.s 6) .zero .zero 0 8 0)),
    ([0x003DCB26, 0x05522154, 0x00001154], .cps (A .zero (.s 6) .zero .zero 0 8 0)),
    ([0x003DCB2A, 0x0552A804, 0x00000154], .cpq (A (.v 4) .zero .zero .zero 0 0 0)),
    ([0x003DCB2E, 0x0552A954, 0x00000154], .bart (A .zero .zero .zero .zero 0 0 0)),
    ([0x003DCB32, 0x0552A954, 0x00000154], .barrArv (A .zero .zero .zero .zero 0 0 0)),
    ([0x003DCB36, 0x0552A954, 0x00000154], .barrWt (A .zero .zero .zero .zero 0 0 0)),
    ([0x003DCB3A, 0x0552A954, 0x00000154], .fences (A .zero .zero .zero .zero 0 0 0)),
    ([0x003DCB3E, 0x05500C04, 0x00000154], .waym (A (.v 4) (.v 6) .zero .zero 0 0 0))] = true := by decide +kernel

theorem test_decode_matrix : decodes [
    ([0x003DCB42, 0x044A2154, 0x00000114], .wbld (A .zero (.s 6) (.s 8) (.s 10) 0 0 0)),
    ([0x103DCB46, 0x070E3554, 0x14801154], .mloop (A .zero (.s 16) (.imm 3) .zero 1 671752 0)),
    ([0x003DCB4A, 0x05523554, 0x148011C3], .mstep (A .zero (.s 16) .zero (.imm 3) 0 671752 0)),
    ([0x003DCB4E, 0x0552A804, 0x00000154], .mwait (A (.v 4) .zero .zero .zero 0 0 0)),
    ([0x003DCB52, 0x05522004, 0x00000154], .accrd (A (.v 4) (.s 6) .zero .zero 0 0 0)),
    ([0x003DCB56, 0x002A2154, 0x00000154], .accwr (A .zero (.s 6) (.v 10) .zero 0 0 0)),
    ([0x003DCB5A, 0x05522154, 0x00000154], .accclr (A .zero (.s 6) .zero .zero 0 0 0)),
    ([0x003DCB5E, 0x05522154, 0x00000154], .ohnd (A .zero (.s 6) .zero .zero 0 0 0)),
    ([0x103DCB5E, 0x0552A954, 0x00000154], .ohndClr (A .zero .zero .zero .zero 1 0 0))] = true := by decide +kernel

theorem test_decode_cluster : decodes [
    ([0x003DCB82, 0x002AA954, 0x00000154], .nsend (A .zero .zero (.v 10) .zero 0 0 0)),
    ([0x003DCB86, 0x0552A804, 0x00000154], .nrecv (A (.v 4) .zero .zero .zero 0 0 0)),
    ([0x003DCB8A, 0x0552A804, 0x00000154], .npoll (A (.v 4) .zero .zero .zero 0 0 0)),
    ([0x003DCB8E, 0x0552A954, 0x00000154], .barc (A .zero .zero .zero .zero 0 0 0)),
    ([0x103DCBB6, 0x0552A954, 0x00000154], .phase (A .zero .zero .zero .zero 1 0 0)),
    ([0x003DCBC2, 0x07162D54, 0x00001154], .qpost (A .zero (.s 12) (.imm 5) .zero 0 8 0)),
    ([0x003DCBC6, 0x044A2004, 0x00001154], .coll (A (.v 4) (.s 6) (.s 8) .zero 0 8 0)),
    ([0x003DCBCA, 0x05522004, 0x00000154], .collw (A (.v 4) (.s 6) .zero .zero 0 0 0)),
    ([0x003DCBCE, 0x044A2154, 0x00001154], .collc (A .zero (.s 6) (.s 8) .zero 0 8 0))] = true := by decide +kernel

/-! ### Words of the spec's worked examples -/

theorem test_decode_worked_examples : decodes [
    -- ICMP.lt p1, v3, 10, st=1 (R100)
    ([0x203DC202, 0x07280754, 0x00000354], .icmp
      { form := .ext, h := { Head.base false 0 with mod := 2 }, dst := .zero, a := .v 3, b := .imm 10, c := .zero, spec := 1, lit := 0 }),
    -- CVT.e4m3.f32.sr.sat v9, v2, st=1 (R104)
    ([0xC03DC1C2, 0x05500409, 0x0002D154], .cvt
      { form := .ext, h := { Head.base false 0 with mod := 12 }, dst := .v 9, a := .v 2, b := .zero, c := .zero, spec := 0x168, lit := 0 }),
    -- p1? BRA L1, join=L2 (R112)
    ([0x003C4242, 0x07C2A954, 0x00004154], .bra
      { form := .ext, h := { Head.base false 0 with guard := 1 }, dst := .zero, a := .zero, b := .imm 48, c := .zero, spec := 0x20, lit := 0 }),
    -- LDS.b32 v5, [scr:s8+0x40] with slot 2 (R156)
    ([0x0009C302, 0x45522405, 0x00004002], .lds
      { h := { Head.base false 0 with sbset := 2, mod2 := 1 }, dst := .v 5, a := .s 8, b := .zero, offset := 0x40, mmod := 2 }),
    -- HOOP.ACQ p1, v4, 2 (R151)
    ([0x003DC30E, 0x0552A804, 0x00001554], .hoopAcq
      { form := .ext, h := Head.base false 0, dst := .v 4, a := .zero, b := .zero, c := .zero, spec := 10, lit := 0 }),
    -- MLOOP.z p1, 5, 0, 1, s16, 3 (R185)
    ([0x103DC346, 0x070E3554, 0x14801154], .mloop
      { form := .ext, h := { Head.base false 0 with mod := 1 }, dst := .zero, a := .s 16, b := .imm 3, c := .zero, spec := 0xA4008, lit := 0 }),
    -- RED.bitset [s4:s5+0x80], v3 (R241)
    ([0xC03DC3A6, 0x000E1D54, 0x00008012], .red
      { h := { Head.base false 0 with mod := 12 }, dst := .zero, a := .s 4, b := .v 3, offset := 0x80, mmod := 0x12 }),
    -- QPOST p1, s12, 5 (R301)
    ([0x003DC3C2, 0x07162D54, 0x00001154], .qpost
      { form := .ext, h := Head.base false 0, dst := .zero, a := .s 12, b := .imm 5, c := .zero, spec := 8, lit := 0 })] = true := by
  decide +kernel

/-! ### What the decoder and the checks of well-formedness refuse -/

/-- An unassigned opcode; an extended word at the end of its line; a form that FFMA does not have; 0xEF with MOD 2; a base word's reserved
compact code. -/
theorem test_decode_refuses :
    decode [0x5C, 0, 0] = .cause 0x001 0 ∧ decode [0x003DC002, 0] = .cause 0x001 0 ∧ decode [0x42 * 4, 0, 0] = .cause 0x00B 0 ∧
    decode [0x203DC3BE, 0x05500D54, 0x00000000] = .cause 0x002 0 ∧ decode [0xFC610800] = .cause 0x003 2 := by
  decide +kernel

/-- One term for each check: a base word cannot hold v40; one with a literal holds no guard; an extended one without a literal holds none;
events have no words. -/
theorem test_wf_canonical :
    (([.iadd { xb with a := .v 40 }, .iaddExt { x2 with form := .baseLit, b := .lit, h := { hx with guard := 1 } },
       .iaddExt { x2 with lit := 1 }, .queueHeadStart] : List Instr).all fun i => !i.canonical && !i.wf) = true ∧
    (Instr.iaddExt { x2 with form := .baseLit, b := .lit, lit := 1 }).wf = true := by
  decide +kernel

/-- FFMA has no base form with a literal; a literal that no operand names. -/
theorem test_wf_form :
    (([.ffma { xa with form := .baseLit, b := .lit, c := .zero }, .iaddExt { x2 with form := .extLit, lit := 1 }] : List Instr).all
      fun i => !i.formOk && !i.wf) = true := by
  decide +kernel

/-- A guard on BART; a slot on IADD; an operand that POPC does not use; a dead bit on an s register; a reserved MOD. -/
theorem test_wf_reserved :
    (([.bart { xz with h := { hx with guard := 1 } }, .iaddExt { x2 with h := { hx with sbset := 1 } }, .popcExt x2,
       .iaddExt { x2 with a := .s 3, h := { hx with deadA := true } }, .iaddExt (x2 9)] : List Instr).all
      fun i => i.canonical && i.formOk && !i.reservedOk && !i.wf) = true := by
  decide +kernel

/-- A reserved code; a pair beyond the last s register; a literal code without a literal; a scratch address without its kind; a loop block at a
register that is no multiple of 8. -/
theorem test_wf_operands :
    (([.iaddExt { x2 with a := .bad 343 }, .st (xm .zero (.s 63) (.v 8)), .iaddExt { x2 with b := .lit }, .lds (xm (.v 9) (.v 4) .zero),
       .mloop { mxLoop 1 with a := .s 9 }] : List Instr).all
      fun i => i.canonical && i.formOk && i.reservedOk && !i.operandsOk && !i.wf) = true := by
  decide +kernel

/-! ### Single steps worked out by hand -/

/-- What an instruction sends to v9 in a lane. -/
def result (i : Instr) (s : State) (lane : Nat) : Option Word :=
  match Machine.exec i s with
  | .next t => match t.group? ⟨0, 0⟩ with
    | some g => (g.pend.find? fun w => w.loc == .v 9).map fun w => LVec.at w.val lane
    | none => none
  | _ => none

/-- v1 holds the lane's number and one, v2 holds 3, v3 holds 0x202: sums wrap, shifts move by the low five bits. -/
theorem test_integer_results :
    [result (.iadd xb) base 4, result (.isub xb) base 0, result (.shl xb) base 2, result (.bfx (x2 0)) base 31,
     result (.popc b1) base 6, result (.clz b1) base 0, result (.imad xa) base 1, result (.logic (xa 0 0x96)) base 0]
      = [some 8, some 0xFFFFFFFE, some 24, some 0, some 3, some 31, some 0x208, some 0x200] := by
  decide +kernel

/-- 1.5 + 2.0, 1.5 × 2.0, 1.5 × 2.0 + 1.0, and an infinity less an infinity. -/
theorem test_float_results :
    let s (a b c : Word) : State := onG (fun g => { g with v := [(1, LVec.splat a), (2, LVec.splat b), (3, LVec.splat c)] }) base
    [result (.fadd xb) (s 0x3FC00000 0x40000000 0) 9, result (.fmul xb) (s 0x3FC00000 0x40000000 0) 9,
     result (.ffma xa) (s 0x3FC00000 0x40000000 0x3F800000) 9, result (.fadd xb) (s 0x7F800000 0xFF800000 0) 9]
      = [some 0x40600000, some 0x40400000, some 0x40800000, some 0x7FC00000] := by
  decide +kernel

/-- RED.bitset of 33 and 6 on a word that holds 1 leaves 0x43 (the worked example of R241). -/
theorem test_atomic_example :
    (lineGet (atomLanes 28 4 [{ lane := 0, off := 0, b := 33 }, { lane := 5, off := 0, b := 6 }] 1).1 0 4) = 0x43 := by
  decide +kernel

/-- The reset state has nothing to issue, and a step is one cycle. -/
theorem test_idle_step : (match Machine.step State.reset with | .next t => t.clk | _ => 0) = 1 := by decide +kernel
end Sys2Proof.Tests
end

section
/-!
SUPPORT. Access to groups, splits and nodes after an update of the state: what `modGroup`, `modSplit`, a change of every entry
of a table and a run end leave, so that no later proof unfolds them.
-/

namespace Sys2Proof.Machine

/-! ### Tables whose entries all change -/

theorem NMap.get?_map_entries {α : Type} (f : Nat → α → α) (m : NMap α) (k : Nat) :
    NMap.get? (m.map fun e => (e.1, f e.1 e.2)) k = (NMap.get? m k).map (f k) := by
  induction m with
  | nil => rfl
  | cons e r ih =>
    obtain ⟨i, y⟩ := e
    simp only [NMap.get?, List.map_cons, List.lookup_cons] at ih ⊢
    by_cases h : k = i
    · subst h; simp
    · simp [beq_false_of_ne h, ih]

/-- Where the change keeps the default, it can be read through it. -/
theorem NMap.getD_map_entries {α : Type} (f : Nat → α → α) (m : NMap α) {k : Nat} {d : α} (hd : f k d = d) :
    NMap.getD (m.map fun e => (e.1, f e.1 e.2)) k d = f k (NMap.getD m k d) := by
  rw [NMap.getD_eq, NMap.getD_eq, NMap.get?_map_entries]
  cases NMap.get? m k <;> simp [hd]

/-! ### Groups, teams and nodes -/

theorem State.team?_modGroup_self (s : State) (ref : GRef) (f : Group → Group) :
    (s.modGroup ref f).team? ref.team = (s.team? ref.team).map fun t => t.modGroup ref.grp f := by
  simp [State.team?]

theorem State.group?_modGroup_self (s : State) (ref : GRef) (f : Group → Group) :
    (s.modGroup ref f).group? ref = (s.group? ref).map f := by
  unfold State.group?
  rw [State.team?_modGroup_self]
  cases s.team? ref.team <;> simp [Team.group?, Team.modGroup]

@[simp] theorem State.node?_modGroup (s : State) (ref : GRef) (f : Group → Group) (n : Nat) :
    (s.modGroup ref f).node? n = s.node? n := rfl

@[simp] theorem State.node?_modNode_self (s : State) (n : Nat) (f : Node → Node) :
    (s.modNode n f).node? n = (s.node? n).map f := NMap.get?_modify_self ..

/-- A kill of a node that runs or starts (R5, R303): the node takes the cause itself as its code (log 16) and STS 3. -/
theorem State.node?_killNode {s : State} {n code : Nat} {nd : Node} (h : s.node? n = some nd)
    (hst : nd.st = .running ∨ nd.st = .starting) :
    (s.killNode n code).node? n = some { nd with st := .killing, cause := some code, sts := 3 } := by
  rw [State.killNode, State.node?_modNode_self, h]
  obtain hst | hst := hst <;> simp [hst]

/-! ### Splits -/

@[simp] theorem Group.split_modSplit_self (g : Group) (slot : Nat) (f : Split → Split) :
    (g.modSplit slot f).split slot = f (g.split slot) := NMap.getD_update_self ..

theorem Group.split_modSplit_ne (g : Group) {slot i : Nat} (f : Split → Split) (h : i ≠ slot) :
    (g.modSplit slot f).split i = g.split i := NMap.getD_update_ne _ _ _ h

/-- A split that is not FREE stands in the table. -/
theorem Group.get?_split_of_ne_free {g : Group} {i : Nat} (h : (g.split i).st ≠ .free) : g.splits.get? i = some (g.split i) := by
  have hsp : g.split i = (g.splits.get? i).getD {} := rfl
  cases e : g.splits.get? i with
  | none => rw [hsp, e] at h; exact absurd rfl h
  | some sp => rw [hsp, e]; rfl

@[simp] theorem Group.endRun_splits (g : Group) : g.endRun.splits = g.splits := rfl

@[simp] theorem Group.endRun_trap (g : Group) : g.endRun.trap = g.trap := rfl

end Sys2Proof.Machine
end

section
/-!
SUPPORT. The issue of an instruction that does not issue yet, and of one that kills its node (see Laws/Issue.lean for the other
ways in which a meaning ends).
-/

namespace Sys2Proof.Machine

open Safety

theorem runGroup_retry {i : Instr} {s s' t : State} {x : Ctx} {nf : Info} {body : Ctx → State → Res} (h : Issues i s x s')
    (hn : nf = infoOf i) (hb : body x s' = .retry t) : runGroup i nf body s = .next (Rules.waits x t) := by
  obtain ⟨s0, x0, hi, hc⟩ := issues_from h
  obtain ⟨d, rfl⟩ := clear_ctx hc
  subst hn
  have hchk : x0.checked (infoOf i) (specOf i).1 (deadGone x0 s0) body = .retry t := (checked_of_clear body hc).trans hb
  simp only [deadGone] at hchk
  simp only [runGroup, hi, issueAs, hchk]
  rfl

theorem runGroup_kill {i : Instr} {s s0 s' : State} {x : Ctx} {nf : Info} {body : Ctx → State → Res} {code : Nat}
    (h : IssuesFrom i s s0 x s') (hn : nf = infoOf i) (hb : body x s' = .kill code) :
    runGroup i nf body s = .next (Rules.killed x code s0) := by
  obtain ⟨x0, hi, hc⟩ := h
  obtain ⟨d, rfl⟩ := clear_ctx hc
  subst hn
  have hchk : x0.checked (infoOf i) (specOf i).1 (deadGone x0 s0) body = .kill code := (checked_of_clear body hc).trans hb
  simp only [deadGone] at hchk
  simp only [runGroup, hi, issueAs, hchk]
  rfl

end Sys2Proof.Machine
end

section
/-!
SUPPORT. Nibbles of a line of 128 bytes: what `lineByte`, `mergeNibbles`, `nibbles` and `atByte` are, nibble by nibble.
-/

namespace Sys2Proof.Machine

/-- Nibble `n` of a line. -/
def lineNibble (d : BitVec 1024) (n : Nat) : Nat := d.toNat / 16 ^ n % 16

theorem lineByte_toNat (d : BitVec 1024) (off : Nat) :
    (lineByte d off).toNat = lineNibble d (2 * off) + 16 * lineNibble d (2 * off + 1) := by
  have hpow : 16 ^ (2 * off) = 2 ^ (8 * off) := by rw [show 16 = 2 ^ 4 from rfl, ← Nat.pow_mul]; congr 1; omega
  simp only [lineByte, lineNibble, BitVec.extractLsb'_toNat, Nat.shiftRight_eq_div_pow, Nat.pow_succ, ← Nat.div_div_eq_div_mul, hpow]
  omega

theorem lineNibble_testBit (d : BitVec 1024) (n k : Nat) :
    (lineNibble d n).testBit k = (decide (k < 4) && d.getLsbD (4 * n + k)) := by
  rw [lineNibble, show 16 ^ n = 2 ^ (4 * n) by rw [Nat.pow_mul], show 16 = 2 ^ 4 from rfl, Nat.testBit_mod_two_pow,
    Nat.testBit_div_two_pow]
  rw [BitVec.getLsbD, Nat.add_comm]

theorem lineNibble_eq_iff {d e : BitVec 1024} {n m : Nat} :
    lineNibble d n = lineNibble e m ↔ ∀ k < 4, d.getLsbD (4 * n + k) = e.getLsbD (4 * m + k) := by
  constructor
  · intro h k hk
    simpa [lineNibble_testBit, hk] using congrArg (·.testBit k) h
  · intro h
    refine Nat.eq_of_testBit_eq fun k => ?_
    rw [lineNibble_testBit, lineNibble_testBit]
    by_cases hk : k < 4
    · simp [h k hk]
    · simp [hk]

/-- A bit of a spread mask is the mask's bit of its nibble. -/
theorem spreadMask_testBit (mask : BitVec 256) (n : Nat) : ∀ acc j,
    (spreadMask mask n acc).testBit j = if j < 4 * n then mask.getLsbD (j / 4) else acc.testBit (j - 4 * n) := by
  induction n with
  | zero => intro acc j; simp [spreadMask]
  | succ n ih =>
    intro acc j
    have hnib : (if mask.getLsbD n then 15 else 0) < 2 ^ 4 := by split <;> omega
    rw [spreadMask, ih, show acc * 16 = 2 ^ 4 * acc by omega, Nat.testBit_two_pow_mul_add _ hnib]
    by_cases hlow : j < 4 * n
    · rw [if_pos hlow, if_pos (show j < 4 * (n + 1) by omega)]
    · rw [if_neg hlow]
      by_cases hin : j - 4 * n < 4
      · have hones : (15 : Nat).testBit (j - 4 * n) = true := by
          rw [show 15 = 2 ^ 4 - 1 from rfl, Nat.testBit_two_pow_sub_one]; simpa using hin
        rw [if_pos hin, if_pos (show j < 4 * (n + 1) by omega), show j / 4 = n by omega]
        cases mask.getLsbD n <;> simp [hones]
      · rw [if_neg hin, if_neg (show ¬ j < 4 * (n + 1) by omega), show j - 4 * n - 4 = j - 4 * (n + 1) by omega]

theorem lineNibble_mergeNibbles (old new : BitVec 1024) (mask : BitVec 256) {n : Nat} (hn : n < 256) :
    lineNibble (mergeNibbles old new mask) n = if mask.getLsbD n then lineNibble new n else lineNibble old n := by
  rw [← apply_ite (lineNibble · n), lineNibble_eq_iff]
  intro k hk
  unfold mergeNibbles
  split
  · rename_i h0; simp [h0]
  · have hm : (spreadMask mask 256 0).testBit (4 * n + k) = mask.getLsbD n := by
      rw [spreadMask_testBit, if_pos (by omega), show (4 * n + k) / 4 = n by omega]
    have hlt : 4 * n + k < 1024 := by omega
    simp only [BitVec.getLsbD_or, BitVec.getLsbD_and, BitVec.getLsbD_not, BitVec.getLsbD_ofNat, hm, hlt, decide_true, Bool.true_and]
    cases mask.getLsbD n <;> simp

theorem nibbles_getLsbD {off len : Nat} (h : off + len ≤ 128) (n : Nat) :
    (nibbles off len).getLsbD n = (decide (off ≤ n / 2) && decide (n / 2 < off + len)) := by
  rw [nibbles, BitVec.getLsbD_ofNat, Nat.testBit_mul_two_pow, Nat.testBit_two_pow_sub_one, Bool.eq_iff_iff]
  simp only [Bool.and_eq_true, decide_eq_true_eq]
  omega

theorem lineByte_atByte {off i : Nat} (x : Nat) (hlo : off ≤ i) (hi : i < 128) :
    (lineByte (atByte off x) i).toNat = x / 256 ^ (i - off) % 256 := by
  refine Nat.eq_of_testBit_eq fun k => ?_
  rw [BitVec.testBit_toNat, lineByte, BitVec.getLsbD_extractLsb', atByte, BitVec.getLsbD_ofNat, Nat.testBit_mul_two_pow,
    show 256 = 2 ^ 8 from rfl, Nat.testBit_mod_two_pow, ← Nat.pow_mul, Nat.testBit_div_two_pow]
  by_cases hk : k < 8
  · have hin : 8 * i + k < 1024 := by omega
    have hfrom : 8 * off ≤ 8 * i + k := by omega
    rw [show k + 8 * (i - off) = 8 * i + k - 8 * off by omega]
    simp [hk, hin, hfrom]
  · simp [hk]

/-- One byte placed in a line, by nibbles. -/
theorem lineNibble_atByte {off x : Nat} (h : off < 128) (hx : x < 256) :
    lineNibble (atByte off x) (2 * off) = x % 16 ∧ lineNibble (atByte off x) (2 * off + 1) = x / 16 := by
  have hbyte := lineByte_atByte x (Nat.le_refl off) h
  rw [lineByte_toNat, Nat.sub_self, Nat.pow_zero, Nat.div_one, Nat.mod_eq_of_lt hx] at hbyte
  have hlo : lineNibble (atByte off x) (2 * off) < 16 := Nat.mod_lt _ (by omega)
  omega

end Sys2Proof.Machine
end

section
/-!
SUPPORT. O23 (R5, R28, R29, R116 to R118): the entry into the trap handler, its end, and the instructions TRAP and ERET.
-/

namespace Sys2Proof.Machine

open Safety

/-! ### The entry into the handler -/

/-- A split when another one enters the handler (R28): RUNNABLE or WAITING, it becomes HELD. -/
def Split.hold (sp : Split) : Split :=
  if sp.st = .runnable ∨ sp.st = .waiting then { sp with st := .held, pre := sp.st } else sp

theorem Group.enterTrap_splits (g : Group) (code : Nat) (einfo : DWord) :
    (g.enterTrap code einfo).splits =
      NMap.modify (g.splits.map fun e => (e.1, if e.1 = g.cur then e.2 else e.2.hold)) g.cur
        fun sp => { sp with pc := (g.trap.tvec &&& ~~~3#64).setWidth 56 } := by
  simp only [Group.enterTrap, Group.endRun_splits, Group.endRun_trap]
  congr 1
  refine List.map_congr_left fun e _ => ?_
  obtain ⟨i, sp⟩ := e
  by_cases hi : i = g.cur
  · simp [hi]
  · cases hst : sp.st <;> simp [hi, hst, Split.hold]

theorem Group.enterTrap_split_ne (g : Group) (code : Nat) (einfo : DWord) {i : Nat} (h : i ≠ g.cur) :
    (g.enterTrap code einfo).split i = (g.split i).hold := by
  rw [Group.split, Group.enterTrap_splits, NMap.getD_eq, NMap.get?_modify_ne _ _ h, ← NMap.getD_eq,
    NMap.getD_map_entries (fun k (sp : Split) => if k = g.cur then sp else sp.hold) _ (by simp [Split.hold]), if_neg h]
  rfl

/-- The split that raises the cause keeps its mask and goes on at TVEC (R117), whose two low bits are left out (log 17). -/
theorem Group.enterTrap_split_cur {g : Group} (code : Nat) (einfo : DWord) (h : (g.split g.cur).st = .runnable) :
    (g.enterTrap code einfo).split g.cur = { g.split g.cur with pc := (g.trap.tvec &&& ~~~3#64).setWidth 56 } := by
  rw [Group.split, Group.enterTrap_splits, NMap.getD_eq, NMap.get?_modify_self,
    NMap.get?_map_entries fun k (sp : Split) => if k = g.cur then sp else sp.hold,
    Group.get?_split_of_ne_free (by simp [h] : (g.split g.cur).st ≠ .free)]
  simp

/-! ### Where an H cause goes -/

/-- An H cause with a handler in place and none running is delivered to it (R28). -/
theorem State.raise_eq_enterTrap {s : State} {ref : GRef} {g : Group} {code : Nat} (einfo : DWord) (hg : s.group? ref = some g)
    (hk : causeIsK code = false) (hvec : g.trap.tvec ≠ 0) (hfree : g.trap.handling = none) :
    s.raise ref code einfo = s.modGroup ref fun gr => gr.enterTrap code einfo := by
  have htaken : (g.trap.tvec = 0 || g.trap.handling.isSome) = false := by simpa [hfree] using hvec
  simp only [State.raise, State.raiseH, hk, hg, htaken, Bool.false_eq_true, if_false]

/-- An H cause that no handler can take ends the group's run and kills its node (R28). -/
theorem State.raise_eq_killNode {s : State} {ref : GRef} {t : Team} {g : Group} {code : Nat} (einfo : DWord)
    (ht : s.team? ref.team = some t) (hg : s.group? ref = some g) (hk : causeIsK code = false)
    (hno : g.trap.tvec = 0 ∨ g.trap.handling ≠ none) :
    s.raise ref code einfo = (s.modGroup ref fun gr => { gr.endRun with cur := gr.cur }).killNode t.node code := by
  have hkill : (g.trap.tvec = 0 || g.trap.handling.isSome) = true := by simpa [Option.isSome_iff_ne_none] using hno
  simp only [State.raise, State.raiseH, hk, hg, hkill, if_true, State.team?_modGroup_self, ht, Option.map_some, Team.modGroup,
    Bool.false_eq_true, if_false]

theorem trapEntry : Rules.TrapEntry := by
  intro s ref t g code einfo ht hg hk _ _ hrun
  constructor
  · intro hvec hfree
    rw [State.raise_eq_enterTrap einfo hg hk hvec hfree]
    refine ⟨g.enterTrap code einfo, by rw [State.group?_modGroup_self, hg]; rfl, rfl, rfl, rfl, rfl, rfl, rfl, rfl, rfl, rfl,
      Group.enterTrap_split_cur code einfo hrun, fun i hi => Group.enterTrap_split_ne g code einfo hi, ?_⟩
    exact ⟨rfl, rfl, rfl, rfl, rfl, rfl, rfl, rfl, rfl, rfl⟩
  · intro hno n hn hst
    rw [State.raise_eq_killNode einfo ht hg hk hno]
    exact State.node?_killNode (by simpa using hn) hst

/-! ### Complete join entries and recorded outcomes -/

/-- No join entry merges that is not complete (R20). -/
theorem Group.merge1_of_incomplete {g : Group} {e : Nat} (h : ∀ j, g.joins.get? e = some j → j.a ≠ j.m) : g.merge1 e = g := by
  unfold Group.merge1
  cases hj : g.joins.get? e with
  | none => rfl
  | some j => simp [h j hj]

theorem Group.mergeAll_of_incomplete {g : Group} (h : ∀ e j, g.joins.get? e = some j → j.a ≠ j.m) : g.mergeAll = g := by
  have hm : ∀ e, g.merge1 e = g := fun e => Group.merge1_of_incomplete (h e)
  simp [Group.mergeAll, hm]

/-- A split without a recorded outcome stays as it is (R22). -/
theorem Group.applyOut_of_out_none {g : Group} {slot : Nat} (h : (g.split slot).out = none) : g.applyOut slot = g := by
  simp [Group.applyOut, h]

/-! ### The end of the handler -/

/-- The handling split when its handler ends (R118): it goes on at EPC with EMASK less the exited lanes, or with what its stack holds
where none is left. -/
def Group.returned (g : Group) (sp : Split) : Split :=
  let stack := sp.stack.drop (sp.stack.length - g.trap.depth)
  let sp := { sp with pc := g.trap.epc.setWidth 56 &&& ~~~3#56, mask := g.trap.emask &&& g.live, stack }
  if g.trap.emask &&& g.live = 0 then refill sp stack else sp

/-- A split when the handler ends (R22): HELD, it takes its state of before. -/
def Split.release (sp : Split) : Split := if sp.st = .held then { sp with st := sp.pre, pre := .free } else sp

/-- The group when a handler has ended, before the recorded outcomes of its splits take effect and complete join entries merge. -/
def Group.handlerLeft (g : Group) (slot : Nat) : Group :=
  { g with trap := { g.trap with handling := none }
           splits := (g.modSplit slot g.returned).splits.map fun e => (e.1, e.2.release) }

theorem Group.endHandler_eq (g : Group) (slot : Nat) :
    g.endHandler slot = ([0, 1, 2, 3].foldl Group.applyOut (g.handlerLeft slot)).mergeAll := by
  have hentry : (fun e : Nat × Split => if e.2.st = .held then (e.1, { e.2 with st := e.2.pre, pre := .free }) else e)
      = fun e => (e.1, e.2.release) := by
    funext e
    by_cases h : e.2.st = .held <;> simp [h, Split.release]
  simp only [Group.endHandler, Group.handlerLeft, ← hentry]
  rfl

theorem Group.handlerLeft_split (g : Group) (slot i : Nat) :
    (g.handlerLeft slot).split i = ((g.modSplit slot g.returned).split i).release :=
  NMap.getD_map_entries (fun _ (sp : Split) => sp.release) _ rfl

/-- With no outcome recorded and no join entry complete, the end of a handler is the return alone. -/
theorem Group.endHandler_eq_handlerLeft {g : Group} {slot : Nat} (hout : ∀ i, ((g.handlerLeft slot).split i).out = none)
    (hjoin : ∀ e j, g.joins.get? e = some j → j.a ≠ j.m) : g.endHandler slot = g.handlerLeft slot := by
  have happly : ∀ i, (g.handlerLeft slot).applyOut i = g.handlerLeft slot := fun i => Group.applyOut_of_out_none (hout i)
  rw [Group.endHandler_eq]
  simp only [List.foldl_cons, List.foldl_nil, happly]
  exact Group.mergeAll_of_incomplete hjoin

theorem Split.release_out (sp : Split) : sp.release.out = sp.out := by
  unfold Split.release
  split <;> rfl

/-- With lanes left to return to, the handling split goes on at EPC, aligned to words (log 17). -/
theorem Group.returned_of_lanes {g : Group} (h : g.trap.emask &&& g.live ≠ 0) (sp : Split) :
    g.returned sp = { sp with pc := g.trap.epc.setWidth 56 &&& ~~~3#56, mask := g.trap.emask &&& g.live
                              stack := sp.stack.drop (sp.stack.length - g.trap.depth) } := if_neg h

theorem Group.handlerLeft_split_ne (g : Group) {slot i : Nat} (h : i ≠ slot) :
    (g.handlerLeft slot).split i = (g.split i).release := by
  rw [Group.handlerLeft_split, Group.split_modSplit_ne g _ h]

/-- Where lanes are left and the handling split runs, ending the handler gives it its PC, mask and stack of before (R118). -/
theorem Group.handlerLeft_split_self {g : Group} {slot : Nat} (hrun : (g.split slot).st = .runnable)
    (hlanes : g.trap.emask &&& g.live ≠ 0) : (g.handlerLeft slot).split slot = g.returned (g.split slot) := by
  rw [Group.handlerLeft_split, Group.split_modSplit_self, Group.returned_of_lanes hlanes, Split.release, if_neg (by simp [hrun])]

/-- The end of a handler with lanes left and no outcome recorded leaves none recorded. -/
theorem Group.handlerLeft_out {g : Group} (slot : Nat) (hlanes : g.trap.emask &&& g.live ≠ 0) (hout : ∀ i, (g.split i).out = none)
    (i : Nat) : ((g.handlerLeft slot).split i).out = none := by
  rw [Group.handlerLeft_split, Split.release_out]
  by_cases h : i = slot
  · rw [h, Group.split_modSplit_self, Group.returned_of_lanes hlanes]
    exact hout slot
  · rw [Group.split_modSplit_ne g _ h]
    exact hout i

/-! ### TRAP and ERET -/

theorem exec_trap (w : ExtA) (s : State) : exec (.trap w) s = execTrap w s := rfl

theorem exec_eret (w : Base) (s : State) : exec (.eret w) s = execEret w s := rfl

theorem exec_eretExt (w : ExtA) (s : State) : exec (.eretExt w) s = execEretExt w s := rfl

/-- ERET in either form (R118): outside the handling split, or with no executing lane, it only ends the run. -/
theorem runGroup_eretBody {i : Instr} {s s' : State} {x : Ctx} (h : Issues i s x s') (hn : { ends := true } = infoOf i) :
    runGroup i { ends := true } eretBody s
      = .next (if x.ex = 0 ∨ x.g.trap.handling ≠ some x.slot then passed i x s'
               else jumped x true (s'.modGroup x.ref fun g => g.endHandler x.slot)) := by
  by_cases hoff : x.ex = 0 ∨ x.g.trap.handling ≠ some x.slot
  · rw [if_pos hoff]
    exact runGroup_done h hn (by rw [eretBody, if_pos hoff])
  · rw [if_neg hoff]
    exact runGroup_jump h hn (by rw [eretBody, if_neg hoff])

theorem trapAndReturn : Rules.TrapAndReturn := by
  refine ⟨?trap, ?eret, ?eretExt, ?handlerEnd⟩
  case trap =>
    intro w s s0 x s' h
    rw [exec_trap, execTrap]
    by_cases hex : x.ex = 0
    · rw [if_pos hex]
      exact runGroup_done (issuesFrom_issues h) rfl (if_pos hex)
    · rw [if_neg hex]
      exact runGroup_cause h rfl (if_neg hex)
  case eret =>
    intro w s x s' h
    rw [exec_eret, execEret, runGroup_eretBody h rfl]
  case eretExt =>
    intro w s x s' h
    rw [exec_eretExt, execEretExt, runGroup_eretBody h rfl]
  case handlerEnd =>
    intro g slot _ hrun hlanes _ hjoin hout
    rw [Group.endHandler_eq_handlerLeft (Group.handlerLeft_out slot hlanes hout) hjoin]
    exact ⟨(Group.handlerLeft_split_self hrun hlanes).trans (Group.returned_of_lanes hlanes _),
      fun i hi => Group.handlerLeft_split_ne g hi, rfl, rfl, rfl, rfl, rfl⟩

/-- Settles O23: an H cause is either the entry into the handler, whose writes are read field by field (the PC cut to words, log 17),
or the kill of the node with the cause's own code (log 16); the end of a handler reduces to the return alone where no outcome is
recorded and no join entry is complete. -/
theorem traps : Obligations.Traps := ⟨trapEntry, trapAndReturn⟩

end Sys2Proof.Machine
end

section
/-!
SUPPORT. O26 (R127 to R130): how ST and STL complete, and the bytes of a line that a store takes from its lanes.
-/

namespace Sys2Proof.Machine

open Safety

/-! ### The bytes of a line -/

/-- What one access brings to its line: the bytes placed in the line, and the nibbles that they fill. -/
def Ctx.share (x : Ctx) (d : StoreSrc) (a : Acc) : BitVec 1024 × BitVec 256 :=
  storeAcc d.n4 d.hi a.off a.len (x.srcData d.b a.lane d.regs / 256 ^ a.pos)

/-- Accesses are applied one after another (R127). -/
theorem Ctx.lineData_concat (x : Ctx) (d : StoreSrc) (accs : List Acc) (a : Acc) :
    x.lineData d (accs ++ [a]) =
      (mergeNibbles (x.lineData d accs).1 (x.share d a).1 (x.share d a).2, (x.lineData d accs).2 ||| (x.share d a).2) := by
  simp [Ctx.lineData, Ctx.share, List.foldl_append]

/-- A nibble that `p` says which accesses fill (R127): it is marked where there is one, and then holds what the last of them, in lane
order, brings. -/
theorem Ctx.lineData_nibble (x : Ctx) (d : StoreSrc) {n : Nat} (hn : n < 256) (p : Acc → Bool) (accs : List Acc)
    (hp : ∀ a ∈ accs, (x.share d a).2.getLsbD n = p a) :
    (accs.filter p = [] → (x.lineData d accs).2.getLsbD n = false) ∧
    ∀ a, (accs.filter p).getLast? = some a →
      (x.lineData d accs).2.getLsbD n = true ∧ lineNibble (x.lineData d accs).1 n = lineNibble (x.share d a).1 n := by
  obtain ⟨raccs, rfl⟩ : ∃ raccs, accs = raccs.reverse := ⟨accs.reverse, accs.reverse_reverse.symm⟩
  induction raccs with
  | nil => simp [Ctx.lineData]
  | cons b raccs ih =>
    rw [List.reverse_cons] at hp ⊢
    obtain ⟨ihnone, ihsome⟩ := ih fun a ha => hp a (List.mem_append_left _ ha)
    have hb := hp b (List.mem_append_right _ List.mem_cons_self)
    rw [Ctx.lineData_concat, lineNibble_mergeNibbles _ _ _ hn, BitVec.getLsbD_or, hb, List.filter_append]
    cases hpb : p b
    · simp only [List.filter_cons, hpb, Bool.false_eq_true, if_false, List.filter_nil, List.append_nil, Bool.or_false]
      exact ⟨ihnone, ihsome⟩
    · simp [hpb]

/-- Whole bytes: an access fills both nibbles of each byte that it covers. -/
theorem Ctx.share_marked (x : Ctx) (b : Operand) (regs : Nat) {a : Acc} (h : a.off + a.len ≤ 128) (n : Nat) :
    (x.share { b, regs, n4 := false, hi := false } a).2.getLsbD n = (decide (a.off ≤ n / 2) && decide (n / 2 < a.off + a.len)) :=
  nibbles_getLsbD h n

/-- Whole bytes: what an access brings to a byte that it covers. -/
theorem Ctx.share_byte (x : Ctx) (b : Operand) (regs : Nat) {a : Acc} {off : Nat} (h : a.off + a.len ≤ 128) (hlo : a.off ≤ off)
    (hhi : off < a.off + a.len) :
    (lineByte (x.share { b, regs, n4 := false, hi := false } a).1 off).toNat
      = x.srcData b a.lane regs / 256 ^ (a.pos + (off - a.off)) % 256 := by
  have hdvd : 256 ∣ 256 ^ (a.len - (off - a.off)) := Nat.dvd_of_pow_dvd (Nat.le_refl 1) (Nat.pow_dvd_pow 256 (by omega))
  have hsplit : 256 ^ a.len = 256 ^ (off - a.off) * 256 ^ (a.len - (off - a.off)) := by
    rw [← Nat.pow_add]; congr 1; omega
  calc (lineByte (x.share { b, regs, n4 := false, hi := false } a).1 off).toNat
      = x.srcData b a.lane regs / 256 ^ a.pos % 256 ^ a.len / 256 ^ (off - a.off) % 256 :=
        lineByte_atByte _ hlo (by omega)
    _ = x.srcData b a.lane regs / 256 ^ a.pos / 256 ^ (off - a.off) % 256 := by
        rw [hsplit, Nat.mod_mul_right_div_self, Nat.mod_mod_of_dvd _ hdvd]
    _ = _ := by rw [Nat.div_div_eq_div_mul, ← Nat.pow_add]

/-- `n4`: an access fills one nibble of its byte. -/
theorem Ctx.share_n4_marked (x : Ctx) (b : Operand) (regs : Nat) (hi : Bool) {a : Acc} (h : a.off < 128) (n : Nat) :
    (x.share { b, regs, n4 := true, hi } a).2.getLsbD n = decide (n = 2 * a.off + if hi then 1 else 0) := by
  have hbit : ∀ m, m < 256 → (BitVec.ofNat 256 (2 ^ m)).getLsbD n = decide (n = m) := by
    intro m hm
    rw [BitVec.getLsbD_ofNat, Nat.testBit_two_pow, Bool.eq_iff_iff]
    simp only [Bool.and_eq_true, decide_eq_true_eq]
    omega
  cases hi
  · exact hbit (2 * a.off) (by omega)
  · exact hbit (2 * a.off + 1) (by omega)

/-- `n4`: what an access brings to its nibble. -/
theorem Ctx.share_n4_nibble (x : Ctx) (b : Operand) (regs : Nat) (hi : Bool) {a : Acc} (h : a.off < 128) (hpos : a.pos = 0) :
    lineNibble (x.share { b, regs, n4 := true, hi } a).1 (2 * a.off + if hi then 1 else 0) = x.srcData b a.lane regs % 16 := by
  have hlt : x.srcData b a.lane regs % 16 < 16 := Nat.mod_lt _ (by omega)
  cases hi
  · simpa [Ctx.share, storeAcc, hpos] using (lineNibble_atByte h (by omega : x.srcData b a.lane regs % 16 < 256)).1
  · simpa [Ctx.share, storeAcc, hpos] using (lineNibble_atByte h (by omega : x.srcData b a.lane regs % 16 * 16 < 256)).2

/-- One nibble of a byte of a line. -/
theorem lineByte_half (d : BitVec 1024) (off : Nat) (hi : Bool) :
    (lineByte d off).toNat / (if hi then 16 else 1) % 16 = lineNibble d (2 * off + if hi then 1 else 0) := by
  have hlo : lineNibble d (2 * off) < 16 := Nat.mod_lt _ (by omega)
  have hhi : lineNibble d (2 * off + 1) < 16 := Nat.mod_lt _ (by omega)
  rw [lineByte_toNat]
  cases hi
  · simp only [Bool.false_eq_true, if_false, Nat.add_zero]; omega
  · simp only [if_true]; omega

theorem storedBytes : Rules.StoredBytes := by
  intro x b regs accs hin
  constructor
  · intro off hoff
    have hnib : ∀ n, n / 2 = off → ∀ a ∈ accs, (x.share { b, regs, n4 := false, hi := false } a).2.getLsbD n
        = (decide (a.off ≤ off) && decide (off < a.off + a.len)) := by
      rintro n rfl a ha
      exact Ctx.share_marked x b regs (hin a ha).1 n
    obtain ⟨hnone₀, hlast₀⟩ := Ctx.lineData_nibble x _ (by omega) _ accs (hnib (2 * off) (by omega))
    obtain ⟨hnone₁, hlast₁⟩ := Ctx.lineData_nibble x _ (by omega) _ accs (hnib (2 * off + 1) (by omega))
    refine ⟨fun h => ⟨hnone₀ h, hnone₁ h⟩, fun a ha => ?_⟩
    obtain ⟨hmark₀, hval₀⟩ := hlast₀ a ha
    obtain ⟨hmark₁, hval₁⟩ := hlast₁ a ha
    obtain ⟨hmem, hcover⟩ := List.mem_filter.1 (List.mem_of_getLast? ha)
    simp only [Bool.and_eq_true, decide_eq_true_eq] at hcover
    refine ⟨hmark₀, hmark₁, ?_⟩
    rw [lineByte_toNat, hval₀, hval₁, ← lineByte_toNat]
    exact Ctx.share_byte x b regs (hin a hmem).1 hcover.1 hcover.2
  · intro off hi hoff hone
    have hlow : ∀ a ∈ accs, a.off < 128 := fun a ha => by have := hin a ha; omega
    have hother : ∀ a ∈ accs, (x.share { b, regs, n4 := true, hi } a).2.getLsbD (2 * off + if hi then 0 else 1) = false := by
      intro a ha
      rw [Ctx.share_n4_marked x b regs hi (hlow a ha)]
      cases hi <;> simp <;> omega
    have hhalf : ∀ a ∈ accs, (x.share { b, regs, n4 := true, hi } a).2.getLsbD (2 * off + if hi then 1 else 0) = (a.off == off) := by
      intro a ha
      rw [Ctx.share_n4_marked x b regs hi (hlow a ha), Bool.eq_iff_iff]
      simp only [decide_eq_true_eq, beq_iff_eq]
      omega
    obtain ⟨hnone, hlast⟩ := Ctx.lineData_nibble x _ (by split <;> omega) _ accs hhalf
    refine ⟨(Ctx.lineData_nibble x _ (by split <;> omega) (fun _ => false) accs hother).1 (by simp), hnone, fun a ha => ?_⟩
    obtain ⟨hmark, hval⟩ := hlast a ha
    obtain ⟨hmem, hat⟩ := List.mem_filter.1 (List.mem_of_getLast? ha)
    rw [beq_iff_eq] at hat
    refine ⟨hmark, ?_⟩
    rw [lineByte_half, hval, ← hat]
    exact Ctx.share_n4_nibble x b regs hi (hlow a hmem) (hone a hmem).1

/-! ### Reaching the lines of a store -/

/-- Accesses that all reach something are translated one after another, and the meaning goes on with what they reach (R127). -/
theorem Ctx.translateAll_of_reached (x : Ctx) (write : Bool) (kind : Nat) (k : State → List (VAcc × Tgt) → Res)
    (accs : List VAcc) : ∀ (acc : List (VAcc × Tgt)) (s s1 : State) (ts : List (VAcc × Tgt)),
    Rules.reached x write accs s = some (s1, ts) → x.translateAll write kind k accs acc s = k s1 (acc ++ ts) := by
  induction accs with
  | nil =>
    intro acc s s1 ts h
    simp only [Rules.reached, Option.some.injEq, Prod.mk.injEq] at h
    obtain ⟨rfl, rfl⟩ := h
    simp [Ctx.translateAll]
  | cons a r ih =>
    intro acc s s1 ts h
    rw [Rules.reached] at h
    rw [Ctx.translateAll]
    by_cases hpod : (isPeer a.va && !s.inPod) = true
    · rw [if_pos hpod] at h; cases h
    rw [if_neg hpod] at h ⊢
    have hgo : ∀ (s2 : State) (t : Tgt), (Rules.reached x write r s2).map (fun p => (p.1, (a, t) :: p.2)) = some (s1, ts) →
        x.translateAll write kind k r (acc ++ [(a, t)]) s2 = k s1 (acc ++ ts) := by
      intro s2 t h2
      obtain ⟨p, hr, hts⟩ := Option.map_eq_some_iff.1 h2
      cases hts
      rw [ih _ _ _ _ hr, List.append_assoc, List.singleton_append]
    generalize s.translateLane x.from x.ref a.lane a.va write = reply at h ⊢
    obtain ⟨s2, out⟩ := reply
    cases out with
    | ok pa e => exact hgo _ _ h
    | discarded e => exact hgo _ _ h
    | scratch off =>
      dsimp only at h ⊢
      by_cases hscr : x.team.scr < off + a.len
      · rw [if_pos hscr] at h; cases h
      · rw [if_neg hscr] at h ⊢; exact hgo _ _ h
    | err c => cases h
    | busy => cases h

/-- Aligned accesses that all reach something: the store of their lines waits for a load of the group, or is refused in a shadow region
(log 75), or takes place. -/
theorem Ctx.store_of_reached {x : Ctx} {accs : List VAcc} {s s1 : State} {ts : List (VAcc × Tgt)} (cls : Nat) (d : StoreSrc)
    (halign : ∀ a ∈ accs, a.va.toNat % a.len = 0) (hr : Rules.reached x true accs s = some (s1, ts)) :
    x.store cls d accs s =
      if (linesOf ts).any fun l => s1.unread x.ref l fun _ => true then .retry s1
      else if (linesOf ts).any fun l => s1.inShadow (128 * l) then .kill 0x0C2
      else .done (x.startStore cls d s1 ts) := by
  have hmis : misaligned accs = none := by simpa [misaligned] using halign
  rw [Ctx.store, hmis]
  exact x.translateAll_of_reached true kindWrite _ accs [] s s1 ts hr

theorem Ctx.privArea_eq (x : Ctx) (s : State) : x.privArea s = Rules.ownArea x s := by
  unfold Ctx.privArea Rules.ownArea
  cases s.node? x.team.node <;> rfl

/-- Lanes whose addresses in their own memory all pass have the accesses of R15. -/
theorem Ctx.privates_of_passing {x : Ctx} {s : State} {w : ExtM} {ls : List Nat} (h : ∀ l ∈ ls, Rules.ownFails x s w l = false) :
    x.privates s w ls = .ok (Rules.ownAccesses x s w ls) := by
  have hfind : (ls.find? fun l => privBad (x.privAddr w l) (sizeBytes w.size) (Rules.ownArea x s).2) = none := by
    rw [List.find?_eq_none]
    intro l hl
    exact Bool.eq_false_iff.1 (h l hl)
  simp only [Ctx.privates, Ctx.privArea_eq, hfind]
  rfl

/-! ### ST and STL -/

theorem exec_st (w : ExtM) (s : State) : exec (.st w) s = execSt w s := rfl

theorem exec_stl (w : ExtM) (s : State) : exec (.stl w) s = execStl w s := rfl

theorem Ctx.vaccs_aligned {x : Ctx} {w : ExtM} {ls : List Nat}
    (h : ∀ a ∈ Rules.accesses x w ls, a.va.toNat % sizeBytes w.size = 0) : ∀ a ∈ x.vaccs w ls, a.va.toNat % a.len = 0 := by
  intro a ha
  obtain ⟨l, _, rfl⟩ := List.mem_map.1 ha
  exact h _ ha

theorem storeResults : Rules.StoreResults := by
  refine ⟨?st, ?stl, ?shadow⟩
  case st =>
    intro w s x s' h accs halign s1 ts hr
    rw [exec_st, execSt]
    have hstore := Ctx.store_of_reached w.cls { b := w.b, regs := sizeRegs w.size, n4 := w.size == 5, hi := w.mod % 2 == 1 }
      (Ctx.vaccs_aligned halign) hr
    constructor
    · intro hloads hplain
      refine runGroup_done h rfl (hstore.trans ?_)
      rw [if_neg (by simpa using hloads), if_neg (by simpa using hplain)]
    · intro hload
      refine runGroup_retry h rfl (hstore.trans ?_)
      rw [if_pos (by simpa using hload)]
  case stl =>
    intro w s x s' h accs hpass halign s1 ts hr hloads hplain
    rw [exec_stl, execStl]
    refine runGroup_done h rfl ?_
    rw [Ctx.privates_of_passing hpass]
    refine (Ctx.store_of_reached w.cls { b := w.b, regs := sizeRegs w.size, n4 := false, hi := false } halign hr).trans ?_
    rw [if_neg (by simpa using hloads), if_neg (by simpa using hplain)]
  case shadow =>
    intro w s s0 x s' h halign s1 ts hr hloads hshadow
    rw [exec_st, execSt]
    refine runGroup_kill h rfl ((Ctx.store_of_reached w.cls _ (Ctx.vaccs_aligned halign) hr).trans ?_)
    rw [if_neg (by simpa using hloads), if_pos (by simpa using hshadow)]

/-- Settles O26: a store whose accesses are aligned and translated ends in one of three ways, by the loads and the shadow regions of its
lines; and of the lanes' accesses, folded in lane order into a line, each nibble keeps the last that fills it. -/
theorem stores : Obligations.Stores := ⟨storeResults, storedBytes⟩

end Sys2Proof.Machine
end

section
/-!
SUPPORT. The fields of instruction words (R46 to R56): the code of an operand and the operand of a code, the fields of a word that is put
together from them, and a word put together from its own fields.
-/

namespace Sys2Proof

open Machine

/-! ### Operand codes -/

/-- The operand is none of the reserved codes. -/
def Operand.defined (o : Operand) : Bool := match o with | .bad _ => false | _ => true

theorem Operand.code9_lt (o : Operand) : o.code9 < 512 := by
  cases o <;> simp only [Operand.code9]
  case imm k =>
    have := BitVec.toInt_lt (x := k)
    omega
  all_goals omega

theorem operand9_code9 {o : Operand} (h : o.defined = true) : operand9 o.code9 = o := by
  cases o
  case v n =>
    change operand9 n.toNat = _
    rw [operand9, if_pos (by omega)]
    simp
  case oc n =>
    change operand9 (256 + n.toNat) = _
    rw [operand9, if_neg (by omega), if_pos (by omega)]
    simp
  case s n =>
    change operand9 (266 + n.toNat) = _
    rw [operand9, if_neg (by omega), if_neg (by omega), if_neg (by omega), if_neg (by omega), if_pos (by omega)]
    simp
  case imm k =>
    have hlo := BitVec.le_toInt (x := k)
    have hhi := BitVec.toInt_lt (x := k)
    obtain ⟨c, hc⟩ : ∃ c : Nat, (c : Int) = 448 + k.toInt := ⟨_, Int.toNat_of_nonneg (by omega)⟩
    have hcode : (Operand.imm k).code9 = c := by rw [Operand.code9, ← hc, Int.toNat_natCast]
    rw [hcode, operand9, if_neg (by omega), if_neg (by omega), if_neg (by omega), if_neg (by omega), if_neg (by omega),
      if_neg (by omega), if_neg (by omega), if_neg (by omega), if_pos (by omega), show (c : Int) - 448 = k.toInt by omega,
      BitVec.ofInt_toInt]
  case bad c => cases h
  all_goals rfl

theorem code9_operand9 {c : Nat} (h : c < 512) : (operand9 c).code9 = c := by
  unfold operand9
  repeat' split
  all_goals simp only [Operand.code9, BitVec.toNat_ofNat, BitVec.toInt_ofInt, Int.bmod_def]
  all_goals omega

theorem Operand.code6_lt {o : Operand} (h : o.compact = true) : o.code6 < 64 := by
  cases o <;> simp [Operand.compact, Operand.code6] at h ⊢ <;> omega

theorem operand6_code6 {o : Operand} (h : o.compact = true) : operand6 o.code6 = o := by
  cases o
  case v n =>
    change operand6 n.toNat = _
    rw [operand6, if_pos (by simpa [Operand.compact] using h)]
    simp
  case oc n =>
    change operand6 (40 + n.toNat) = _
    rw [operand6, if_neg (by omega), if_pos (by omega)]
    simp
  case s n =>
    have hn : n.toNat < 8 := by simpa [Operand.compact] using h
    change operand6 (50 + n.toNat) = _
    rw [operand6, if_neg (by omega), if_neg (by omega), if_neg (by omega), if_neg (by omega), if_pos (by omega)]
    simp
  case lit | cwin | imm | bad => cases h
  all_goals rfl

theorem code6_operand6 {c : Nat} (h : c < 64) : (operand6 c).code6 = c := by
  unfold operand6
  repeat' split
  all_goals simp only [Operand.code6, BitVec.toNat_ofNat]
  all_goals omega

/-- A compact code that is not reserved names an operand that has a compact code (R51). -/
theorem compact_operand6 {c : Nat} (h : (operand6 c).defined = true) : (operand6 c).compact = true := by
  revert h
  unfold operand6
  repeat' split
  all_goals
    simp only [Operand.compact, Operand.defined, BitVec.toNat_ofNat, decide_eq_true_eq, Bool.false_eq_true, forall_const,
      false_implies]
  all_goals omega

/-! ### Bits of a word -/

theorem bitsOf_ofNat {hi lo : Nat} (n : Nat) (hhi : hi < 32) (hlo : lo ≤ hi) :
    bitsOf (BitVec.ofNat 32 n) hi lo = n / 2 ^ lo % 2 ^ (hi + 1 - lo) := by
  have hw : (32 : Nat) = lo + (hi + 1 - lo) + (31 - hi) := by omega
  rw [bitsOf, BitVec.toNat_ofNat, hw, Nat.pow_add, Nat.pow_add, Nat.mul_assoc, Nat.mod_mul_right_div_self,
    Nat.mod_mul_right_mod]

theorem bitsOf_lt (w : Word) (hi lo : Nat) : bitsOf w hi lo < 2 ^ (hi + 1 - lo) := Nat.mod_lt _ (Nat.two_pow_pos _)

theorem getLsbD_ofNat_eq {k : Nat} (n : Nat) (hk : k < 32) : (BitVec.ofNat 32 n).getLsbD k = decide (n / 2 ^ k % 2 = 1) := by
  rw [BitVec.getLsbD_ofNat, Nat.testBit_eq_decide_div_mod_eq]
  simp [hk]

/-- A flag at bit `k` of a word that is put together as a sum. -/
theorem flag_eq (b : Bool) (k : Nat) : (if b = true then 2 ^ k else 0) = b.toNat * 2 ^ k := by cases b <;> simp

theorem toNat_getLsbD_eq (w : Word) (k : Nat) : (w.getLsbD k).toNat = w.toNat / 2 ^ k % 2 := by
  rw [BitVec.getLsbD, Nat.testBit_eq_decide_div_mod_eq]
  rcases Nat.mod_two_eq_zero_or_one (w.toNat / 2 ^ k) with h | h <;> simp [h]

end Sys2Proof
end

section
/-!
SUPPORT. The words of the forms (R46, R50, R52, R54, R55): the decoder's fields of the words that the encoder makes, and the encoder's words
of the fields that the decoder reads.
-/

namespace Sys2Proof

open Machine

/-! ### A field of a word that is given as a number -/

theorem field_ofNat {m hi lo n : Nat} {x : BitVec m} (hhi : hi < 32) (hlo : lo ≤ hi) (h : n / 2 ^ lo % 2 ^ (hi + 1 - lo) = x.toNat) :
    BitVec.ofNat m (bitsOf (BitVec.ofNat 32 n) hi lo) = x := by
  rw [bitsOf_ofNat n hhi hlo, h, BitVec.ofNat_toNat, BitVec.setWidth_eq]

theorem flag_ofNat {k n : Nat} {b : Bool} (hk : k < 32) (h : n / 2 ^ k % 2 = b.toNat) : (BitVec.ofNat 32 n).getLsbD k = b := by
  rw [getLsbD_ofNat_eq n hk, h]
  cases b <;> rfl

theorem operand9_field {n hi lo : Nat} {o : Operand} (ho : o.defined = true) (hhi : hi < 32) (hlo : lo ≤ hi)
    (h : n / 2 ^ lo % 2 ^ (hi + 1 - lo) = o.code9) : operand9 (bitsOf (BitVec.ofNat 32 n) hi lo) = o := by
  rw [bitsOf_ofNat n hhi hlo, h, operand9_code9 ho]

theorem operand6_field {n hi lo : Nat} {o : Operand} (ho : o.compact = true) (hhi : hi < 32) (hlo : lo ≤ hi)
    (h : n / 2 ^ lo % 2 ^ (hi + 1 - lo) = o.code6) : operand6 (bitsOf (BitVec.ofNat 32 n) hi lo) = o := by
  rw [bitsOf_ofNat n hhi hlo, h, operand6_code6 ho]

/-! ### The fields of the encoder's words -/

theorem commonWord_eq (op len : Nat) (y : Bool) (stall : BitVec 3) :
    commonWord op len y stall = len + op * 2 ^ 2 + stall.toNat * 2 ^ 10 + y.toNat * 2 ^ 13 := by
  rw [commonWord, flag_eq]

/-- Opcode and LEN stand in the first ten bits of every first word (R49). -/
theorem first_of_commonWord {op len n : Nat} (hop : op < 256) (hlen : len < 4) (y : Bool) (stall : BitVec 3) :
    bitsOf (BitVec.ofNat 32 (commonWord op len y stall + n * 2 ^ 14)) 9 2 = op ∧
    bitsOf (BitVec.ofNat 32 (commonWord op len y stall + n * 2 ^ 14)) 1 0 = len := by
  simp (disch := decide) only [commonWord_eq, bitsOf_ofNat]
  omega

theorem baseWord_eq (op len : Nat) (y : Bool) (stall : BitVec 3) (dst a : Operand) (b : Nat) :
    baseWord op len y stall dst a b
      = BitVec.ofNat 32 (commonWord op len y stall + (dst.code6 + a.code6 * 2 ^ 6 + b * 2 ^ 12) * 2 ^ 14) := by
  rw [baseWord]
  congr 1
  omega

theorem word0Of_eq (op len : Nat) (h : Head) :
    word0Of op len h = BitVec.ofNat 32 (commonWord op len h.y h.stall
      + (h.guard.toNat + h.gneg.toNat * 2 ^ 3 + h.sbset.toNat * 2 ^ 4 + h.wait.toNat * 2 ^ 8 + h.mod.toNat * 2 ^ 14) * 2 ^ 14) := by
  rw [word0Of, flag_eq]
  congr 1
  omega

theorem word1Of_eq (h : Head) (dst a b : Operand) :
    word1Of h dst a b = BitVec.ofNat 32 (dst.code9 + a.code9 * 2 ^ 9 + b.code9 * 2 ^ 18 + h.deadA.toNat * 2 ^ 27
      + h.deadB.toNat * 2 ^ 28 + h.deadC.toNat * 2 ^ 29 + h.mod2.toNat * 2 ^ 30) := by
  simp only [word1Of, flag_eq]

section

variable {op len : Nat} (hop : op < 256) (hlen : len < 4)
include hop hlen

theorem first_of_baseWord (y : Bool) (stall : BitVec 3) (dst a : Operand) (b : Nat) :
    bitsOf (baseWord op len y stall dst a b) 9 2 = op ∧ bitsOf (baseWord op len y stall dst a b) 1 0 = len := by
  rw [baseWord_eq]
  exact first_of_commonWord hop hlen y stall

theorem first_of_word0Of (h : Head) : bitsOf (word0Of op len h) 9 2 = op ∧ bitsOf (word0Of op len h) 1 0 = len := by
  rw [word0Of_eq]
  exact first_of_commonWord hop hlen h.y h.stall

/-- The fields of a base word but its B operand, which a base word with a literal leaves zero (R48, R50). -/
theorem fields_of_baseWord (y : Bool) (stall : BitVec 3) {dst a : Operand} {b : Nat} (hdst : dst.compact = true) (ha : a.compact = true)
    (hb : b < 64) :
    let w := baseWord op len y stall dst a b
    operand6 (bitsOf w 19 14) = dst ∧ operand6 (bitsOf w 25 20) = a ∧ bitsOf w 31 26 = b ∧ w.getLsbD 13 = y ∧
    BitVec.ofNat 3 (bitsOf w 12 10) = stall := by
  have hy := y.toNat_lt
  have hs := stall.isLt
  have hdst' := Operand.code6_lt hdst
  have ha' := Operand.code6_lt ha
  simp only [baseWord_eq, commonWord_eq]
  refine ⟨operand6_field hdst (by decide) (by decide) ?_, operand6_field ha (by decide) (by decide) ?_,
    (bitsOf_ofNat _ (by decide) (by decide)).trans ?_, flag_ofNat (by decide) ?_, field_ofNat (by decide) (by decide) ?_⟩ <;> omega

theorem headOf_words (h : Head) (dst a b : Operand) : headOf (word0Of op len h) (word1Of h dst a b) = h := by
  obtain ⟨y, stall, guard, gneg, sbset, wait, mod, mod2, deadA, deadB, deadC⟩ := h
  have hy := y.toNat_lt
  have hgneg := gneg.toNat_lt
  have hA := deadA.toNat_lt
  have hB := deadB.toNat_lt
  have hC := deadC.toNat_lt
  have hdst := dst.code9_lt
  have ha := a.code9_lt
  have hb := b.code9_lt
  simp only [headOf, word0Of_eq, word1Of_eq, commonWord_eq, Head.mk.injEq]
  refine ⟨flag_ofNat (by decide) ?_, field_ofNat (by decide) (by decide) ?_, field_ofNat (by decide) (by decide) ?_,
    flag_ofNat (by decide) ?_, field_ofNat (by decide) (by decide) ?_, field_ofNat (by decide) (by decide) ?_,
    field_ofNat (by decide) (by decide) ?_, field_ofNat (by decide) (by decide) ?_, flag_ofNat (by decide) ?_,
    flag_ofNat (by decide) ?_, flag_ofNat (by decide) ?_⟩ <;> omega

end

theorem operands_of_word1Of (h : Head) {dst a b : Operand} (hdst : dst.defined = true) (ha : a.defined = true) (hb : b.defined = true) :
    operand9 (bitsOf (word1Of h dst a b) 8 0) = dst ∧ operand9 (bitsOf (word1Of h dst a b) 17 9) = a ∧
    operand9 (bitsOf (word1Of h dst a b) 26 18) = b := by
  have hdst' := dst.code9_lt
  have ha' := a.code9_lt
  have hb' := b.code9_lt
  rw [word1Of_eq]
  refine ⟨operand9_field hdst (by decide) (by decide) ?_, operand9_field ha (by decide) (by decide) ?_,
    operand9_field hb (by decide) (by decide) ?_⟩ <;> omega

/-- Word 2 of the arithmetic layout (R55). -/
theorem fields_of_arithWord {c : Operand} (spec : BitVec 23) (hc : c.defined = true) :
    operand9 (bitsOf (BitVec.ofNat 32 (c.code9 + spec.toNat * 2 ^ 9)) 8 0) = c ∧
    BitVec.ofNat 23 (bitsOf (BitVec.ofNat 32 (c.code9 + spec.toNat * 2 ^ 9)) 31 9) = spec := by
  have hc' := c.code9_lt
  refine ⟨operand9_field hc (by decide) (by decide) ?_, field_ofNat (by decide) (by decide) ?_⟩ <;> omega

/-- Word 2 of the memory layout (R55). -/
theorem fields_of_memWord (mmod : Byte) (offset : BitVec 24) :
    BitVec.ofNat 24 (bitsOf (BitVec.ofNat 32 (mmod.toNat + offset.toNat * 2 ^ 8)) 31 8) = offset ∧
    BitVec.ofNat 8 (bitsOf (BitVec.ofNat 32 (mmod.toNat + offset.toNat * 2 ^ 8)) 7 0) = mmod := by
  refine ⟨field_ofNat (by decide) (by decide) ?_, field_ofNat (by decide) (by decide) ?_⟩ <;> omega

theorem litOf_litWords (lit : DWord) : litOf (BitVec.ofNat 32 lit.toNat) (BitVec.ofNat 32 (lit.toNat / 2 ^ 32)) = lit := by
  apply BitVec.eq_of_toNat_eq
  simp only [litOf, BitVec.toNat_ofNat]
  omega

/-! ### The encoder's words of the decoder's fields -/

theorem baseWord_of_fields (w : Word) :
    baseWord (bitsOf w 9 2) (bitsOf w 1 0) (w.getLsbD 13) (BitVec.ofNat 3 (bitsOf w 12 10)) (operand6 (bitsOf w 19 14))
      (operand6 (bitsOf w 25 20)) (bitsOf w 31 26) = w := by
  apply BitVec.eq_of_toNat_eq
  rw [baseWord_eq, code6_operand6 (bitsOf_lt w 19 14), code6_operand6 (bitsOf_lt w 25 20)]
  simp only [commonWord_eq, toNat_getLsbD_eq, bitsOf, BitVec.toNat_ofNat]
  omega

theorem word0Of_headOf (w0 w1 : Word) : word0Of (bitsOf w0 9 2) (bitsOf w0 1 0) (headOf w0 w1) = w0 := by
  apply BitVec.eq_of_toNat_eq
  simp only [word0Of_eq, headOf, commonWord_eq, toNat_getLsbD_eq, bitsOf, BitVec.toNat_ofNat]
  omega

theorem word1Of_headOf (w0 w1 : Word) :
    word1Of (headOf w0 w1) (operand9 (bitsOf w1 8 0)) (operand9 (bitsOf w1 17 9)) (operand9 (bitsOf w1 26 18)) = w1 := by
  apply BitVec.eq_of_toNat_eq
  rw [word1Of_eq, code9_operand9 (bitsOf_lt w1 8 0), code9_operand9 (bitsOf_lt w1 17 9), code9_operand9 (bitsOf_lt w1 26 18)]
  simp only [headOf, toNat_getLsbD_eq, bitsOf, BitVec.toNat_ofNat]
  omega

theorem arithWord_of_fields (w : Word) :
    BitVec.ofNat 32 ((operand9 (bitsOf w 8 0)).code9 + (BitVec.ofNat 23 (bitsOf w 31 9)).toNat * 2 ^ 9) = w := by
  apply BitVec.eq_of_toNat_eq
  rw [code9_operand9 (bitsOf_lt w 8 0)]
  simp only [bitsOf, BitVec.toNat_ofNat]
  omega

theorem memWord_of_fields (w : Word) :
    BitVec.ofNat 32 ((BitVec.ofNat 8 (bitsOf w 7 0)).toNat + (BitVec.ofNat 24 (bitsOf w 31 8)).toNat * 2 ^ 8) = w := by
  apply BitVec.eq_of_toNat_eq
  simp only [bitsOf, BitVec.toNat_ofNat]
  omega

theorem litWords_litOf (lo hi : Word) : litWords (litOf lo hi) = [lo, hi] := by
  have hlo : BitVec.ofNat 32 (litOf lo hi).toNat = lo := by
    apply BitVec.eq_of_toNat_eq
    simp only [litOf, BitVec.toNat_ofNat]
    omega
  have hhi : BitVec.ofNat 32 ((litOf lo hi).toNat / 2 ^ 32) = hi := by
    apply BitVec.eq_of_toNat_eq
    simp only [litOf, BitVec.toNat_ofNat]
    omega
  rw [litWords, hlo, hhi]

end Sys2Proof
end

section
/-!
SUPPORT. The rows of the opcode map (R61): what the tables say of an instruction that is built from an opcode and its fields, and that every
encoded instruction is built so.
-/

namespace Sys2Proof

open Machine

/-- What the tables say of a base row: opcode, fields and word. -/
structure BaseRow (op : Nat) (w : Base) (i : Instr) : Prop where
  opcode : opOf i = some op
  fields : fieldsOf i = some (Fields.ofA none w.toExt)
  spec : specOf i = (0, 0)
  words : encode i = some [baseWord op 0 w.y w.stall w.dst w.a w.b.code6]

/-- What the tables say of a row of the arithmetic layout. -/
structure ArithRow (op : Nat) (w : ExtA) (i : Instr) : Prop where
  opcode : opOf i = some op
  fields : fieldsOf i = some (Fields.ofA (some w.form) w)
  spec : specOf i = (w.spec, w.lit)
  words : encode i = some (encodeA op w)
  layout : (opRow op).map OpRow.layout = some .arith

/-- What the tables say of a row of the memory layout. -/
structure MemRow (op : Nat) (w : ExtM) (i : Instr) : Prop where
  opcode : opOf i = some op
  fields : fieldsOf i = some (Fields.ofM w)
  spec : specOf i = (0, 0)
  words : encode i = some (encodeM op w)
  row : opRow op = some { op, forms := [2], layout := .mem }

theorem buildBase_row {op : Nat} {w : Base} {i : Instr} (h : buildBase op w = some i) : BaseRow op w i := by
  unfold buildBase at h
  split at h <;> cases h <;> exact ⟨rfl, rfl, rfl, rfl⟩

/-- The opcodes whose MOD tells two instructions apart split once more (R102, R181). -/
theorem buildA_row {op : Nat} {w : ExtA} {i : Instr} (h : buildA op w = some i) : ArithRow op w i := by
  unfold buildA at h
  split at h <;> (try split at h) <;> cases h <;> exact ⟨rfl, rfl, rfl, rfl, rfl⟩

theorem buildM_row {op : Nat} {w : ExtM} {i : Instr} (h : buildM op w = some i) : MemRow op w i := by
  unfold buildM at h
  split at h <;> (try split at h) <;> cases h <;> exact ⟨rfl, rfl, rfl, rfl, rfl⟩

/-- What the shape asks of MOD, MOD2, MMOD and SPEC holds where no check raises 0x002 (R62). -/
theorem shape_ok_of_reservedOk {i : Instr} {sh : Shape} (hsh : shapeOf i = some sh) (h : i.reservedOk = true) : sh.ok = true := by
  unfold Instr.reservedOk at h
  rw [hsh] at h
  split at h
  next f hs _ =>
    cases hs
    simp only [Machine.reservedOk, Bool.and_eq_true, and_assoc] at h
    exact h.1
  next => cases h

theorem mod_ne_one {m : BitVec 4} (h : m.toNat = 0) : m ≠ 1 := by
  rintro rfl
  cases h

theorem mod_eq_one {m : BitVec 4} (h : m.toNat = 1) : m = 1 := BitVec.eq_of_toNat_eq h

/-- Every encoded instruction whose fields pass the checks is the one that its opcode and fields build; MOD tells the instructions of one
opcode apart (R102, R181, R247). -/
theorem built_of_opcode {i : Instr} {op : Nat} (h : opOf i = some op) (hr : i.reservedOk = true) :
    (∃ w, buildBase op w = some i) ∨ (∃ w, buildA op w = some i) ∨ (∃ w, buildM op w = some i) := by
  cases i <;> cases h
  case pmovGet w =>
    have hok : w.plain 0 = true := shape_ok_of_reservedOk rfl hr
    simp only [ExtA.plain, ExtA.mod, Bool.and_eq_true, decide_eq_true_eq, Nat.le_zero, and_assoc] at hok
    obtain ⟨hmod, -⟩ := hok
    exact .inr (.inl ⟨w, congrArg some (if_neg (mod_ne_one hmod))⟩)
  case pmovPut w =>
    have hok : (w.mod == 1 && w.mod2 == 0 && w.upTo 15) = true := shape_ok_of_reservedOk rfl hr
    simp only [ExtA.mod, Bool.and_eq_true, beq_iff_eq, and_assoc] at hok
    obtain ⟨hmod, -⟩ := hok
    exact .inr (.inl ⟨w, congrArg some (if_pos (mod_eq_one hmod))⟩)
  case ohnd w =>
    have hok : (w.mod == 0 && w.mod2 == 0 && w.upTo 11) = true := shape_ok_of_reservedOk rfl hr
    simp only [ExtA.mod, Bool.and_eq_true, beq_iff_eq, and_assoc] at hok
    obtain ⟨hmod, -⟩ := hok
    exact .inr (.inl ⟨w, congrArg some (if_neg (mod_ne_one hmod))⟩)
  case ohndClr w =>
    have hok : (w.mod == 1 && w.mod2 == 0 && w.upTo 11) = true := shape_ok_of_reservedOk rfl hr
    simp only [ExtA.mod, Bool.and_eq_true, beq_iff_eq, and_assoc] at hok
    obtain ⟨hmod, -⟩ := hok
    exact .inr (.inl ⟨w, congrArg some (if_pos (mod_eq_one hmod))⟩)
  case cwb w =>
    have hok : (dieOk w && w.fld == 0 && w.mod == 0 && w.size == 0) = true := shape_ok_of_reservedOk rfl hr
    simp only [ExtM.mod, Bool.and_eq_true, beq_iff_eq, and_assoc] at hok
    obtain ⟨-, -, hmod, -⟩ := hok
    exact .inr (.inr ⟨w, congrArg some (if_neg (mod_ne_one hmod))⟩)
  case cinv w =>
    have hok : (dieOk w && w.fld == 0 && w.mod == 1 && w.size == 0) = true := shape_ok_of_reservedOk rfl hr
    simp only [ExtM.mod, Bool.and_eq_true, beq_iff_eq, and_assoc] at hok
    obtain ⟨-, -, hmod, -⟩ := hok
    exact .inr (.inr ⟨w, congrArg some (if_pos (mod_eq_one hmod))⟩)
  case iadd | isub | imul | imulhi | iabs | imin | imax | shl | shr | sar | rol | popc | clz | ctz | brev | fadd | fmul | fmin | fmax | frcp
    | frsq | fsqrt | fexp2 | flog2 | fsin | fcos | ftanh | mov | exit | nop | yield | eret => exact .inl ⟨_, rfl⟩
  case ld | st | ldl | stl | ldc | pref | lds | sts | atoms | atom | red | lr | sc | waitc | disc => exact .inr (.inr ⟨_, rfl⟩)
  all_goals exact .inr (.inl ⟨_, rfl⟩)

end Sys2Proof
end

section
/-!
SUPPORT. O12 and O13 (R46 to R62): what the decoder accepts, and that the encoder and the decoder are inverse to each other on it.
-/

namespace Sys2Proof

open Machine

/-! ### What the decoder accepts -/

/-- The static checks of R62 pass, and LEN 01 leaves word 0 [31:26] zero (R48). -/
theorem staticCheck_eq_instr_iff {i j : Instr} {f : Fields} {b len n : Nat} (hf : fieldsOf i = some f) :
    staticCheck i b len = .instr j n ↔
      (literalNamed f = true ∧ b = 0 ∧ i.reservedOk = true ∧ i.operandsOk = true) ∧ i = j ∧ len = n := by
  unfold staticCheck Instr.reservedOk Instr.operandsOk
  rw [hf]
  cases hsh : shapeOf i with
  | none => simp
  | some sh =>
    by_cases hl : literalNamed f = true
    · by_cases hb : b = 0
      · by_cases hr : Machine.reservedOk sh f = true
        · cases hill : illegalOperand i sh f <;> simp [hl, hb, hr, hill]
        · simp [hl, hb, hr]
      · simp [hl, hb]
    · simp [hl]

/-- The decoder accepts words whose opcode is assigned and permits the form, which are all there, and which build an instruction that
passes the static checks. -/
theorem decode_eq_instr_iff {ws : List Word} {i : Instr} {n : Nat} :
    decode ws = .instr i n ↔ ∃ r j, opRow (bitsOf (ws.getD 0 0) 9 2) = some r ∧ formWords (bitsOf (ws.getD 0 0) 1 0) ≤ ws.length ∧
      r.forms.contains (bitsOf (ws.getD 0 0) 1 0) = true ∧
      buildWords (bitsOf (ws.getD 0 0) 9 2) (bitsOf (ws.getD 0 0) 1 0) r.layout (ws.getD 0 0) (ws.getD 1 0) (ws.getD 2 0) (ws.getD 3 0)
        (ws.getD 4 0) = some j ∧
      staticCheck j (if bitsOf (ws.getD 0 0) 1 0 = 1 then bitsOf (ws.getD 0 0) 31 26 else 0) (formWords (bitsOf (ws.getD 0 0) 1 0))
        = .instr i n := by
  unfold decode
  dsimp only
  generalize bitsOf (ws.getD 0 0) 9 2 = op
  generalize bitsOf (ws.getD 0 0) 1 0 = len
  cases hrow : opRow op with
  | none => simp
  | some r =>
    by_cases hlen : ws.length < formWords len
    · simp [hlen, Nat.not_le.2 hlen]
    by_cases hform : r.forms.contains len = true
    · cases hb : buildWords op len r.layout (ws.getD 0 0) (ws.getD 1 0) (ws.getD 2 0) (ws.getD 3 0) (ws.getD 4 0) <;>
        simp only [hb, hlen, hform, Nat.not_lt.1 hlen, Bool.not_true, Bool.false_eq_true, if_false, Option.some.injEq, exists_eq_left',
          exists_and_left, true_and, reduceCtorEq, false_and, exists_false, and_false]
    · simp only [hlen, hform, Bool.not_false, if_true, if_false, Option.some.injEq, exists_eq_left', exists_and_left, reduceCtorEq,
        false_and, and_false]

theorem defined_of_source {hasLit : Bool} {u : Option SrcUse} {o : Operand} (hu : unusedOk u o = true) (ho : srcOk hasLit u o = true) :
    o.defined = true := by
  cases o
  case bad c => cases u <;> simp [unusedOk, srcOk] at hu ho
  all_goals rfl

theorem defined_of_destination {u : Option DstUse} {o : Operand} (hu : unusedOk u o = true) (ho : dstOk u o = true) :
    o.defined = true := by
  cases o
  case bad c => cases u <;> simp [unusedOk, dstOk] at hu ho
  all_goals rfl

theorem if_some_eq_none {α : Type} {p : Prop} [Decidable p] {x : α} {y : Option α} :
    (if p then some x else y) = none ↔ ¬p ∧ y = none := by
  by_cases h : p
  · rw [if_pos h]
    exact ⟨nofun, fun hn => absurd h hn.1⟩
  · rw [if_neg h]
    exact ⟨fun hy => ⟨h, hy⟩, And.right⟩

theorem illegalOperand_eq_none {i : Instr} {sh : Shape} {f : Fields} (h : illegalOperand i sh f = none) :
    dstOk sh.dst f.dst = true ∧ srcOk f.hasLit sh.a f.a = true ∧ srcOk f.hasLit sh.b f.b = true ∧ srcOk f.hasLit sh.c f.c = true := by
  simp only [illegalOperand, if_some_eq_none, Bool.not_eq_true', Bool.not_eq_false] at h
  obtain ⟨hd, ha, hb, hc, -⟩ := h
  exact ⟨hd, ha, hb, hc⟩

/-- No operand of an instruction that passes the checks is a reserved code (R51, R56). -/
theorem operands_defined {i : Instr} {f : Fields} (hf : fieldsOf i = some f) (hr : i.reservedOk = true) (ho : i.operandsOk = true) :
    f.dst.defined = true ∧ f.a.defined = true ∧ f.b.defined = true ∧ f.c.defined = true := by
  unfold Instr.reservedOk at hr
  unfold Instr.operandsOk at ho
  rw [hf] at hr ho
  cases hsh : shapeOf i with
  | none => rw [hsh] at hr; cases hr
  | some sh =>
    rw [hsh] at hr ho
    simp only [Machine.reservedOk, Bool.and_eq_true, and_assoc, Option.isNone_iff_eq_none] at hr ho
    obtain ⟨_, _, _, hd, ha, hb, hc, _⟩ := hr
    obtain ⟨hd', ha', hb', hc'⟩ := illegalOperand_eq_none ho
    exact ⟨defined_of_destination hd hd', defined_of_source ha ha', defined_of_source hb hb', defined_of_source hc hc'⟩

/-! ### Words that build an instruction -/

theorem op_lt_of_opRow {op : Nat} {r : OpRow} (h : opRow op = some r) : op < 256 := by
  have hall : ∀ r ∈ opTable, r.op < 256 := by decide
  have hop : r.op = op := by simpa using List.find?_some h
  exact hop ▸ hall r (List.mem_of_find?_eq_some h)

/-- A well-formed instruction has a row, whose forms name its form, and passes the checks of R62. -/
theorem wf_iff {i : Instr} {op : Nat} {f : Fields} {spec : BitVec 23} {lit : DWord} (hop : opOf i = some op) (hf : fieldsOf i = some f)
    (hs : specOf i = (spec, lit)) :
    i.wf = true ↔ f.canonical spec lit = true ∧ (∃ r, opRow op = some r ∧ r.forms.contains (lenOf f.form) = true) ∧
      literalNamed f = true ∧ i.reservedOk = true ∧ i.operandsOk = true := by
  unfold Instr.wf Instr.canonical Instr.formOk
  rw [hop, hf, hs]
  cases hrow : opRow op <;> simp [hrow, and_assoc, and_left_comm]

/-- Words are decoded to the instruction that they build when that passes the checks. -/
theorem decode_of_built {w0 : Word} {ws : List Word} {i : Instr} {op len : Nat} {r : OpRow} {f : Fields}
    (hfirst : bitsOf w0 9 2 = op ∧ bitsOf w0 1 0 = len) (hrow : opRow op = some r) (hform : r.forms.contains len = true)
    (hbuild : buildWords op len r.layout w0 (ws.getD 0 0) (ws.getD 1 0) (ws.getD 2 0) (ws.getD 3 0) = some i)
    (hzero : len = 1 → bitsOf w0 31 26 = 0) (hf : fieldsOf i = some f)
    (hok : literalNamed f = true ∧ i.reservedOk = true ∧ i.operandsOk = true) (hn : formWords len ≤ ws.length + 1) :
    decode (w0 :: ws) = .instr i (formWords len) := by
  obtain ⟨rfl, rfl⟩ := hfirst
  obtain ⟨hnamed, hr, ho⟩ := hok
  refine decode_eq_instr_iff.2 ⟨r, i, hrow, hn, hform, hbuild, (staticCheck_eq_instr_iff hf).2 ⟨⟨hnamed, ?_, hr, ho⟩, rfl, rfl⟩⟩
  split
  next h => exact hzero h
  next => rfl

theorem baseOf_baseWord {op len : Nat} (hop : op < 256) (hlen : len < 4) {w : Base} (hdst : w.dst.compact = true)
    (ha : w.a.compact = true) (hb : w.b.compact = true) : baseOf (baseWord op len w.y w.stall w.dst w.a w.b.code6) = w := by
  obtain ⟨hd, hA, hB, hy, hst⟩ := fields_of_baseWord hop hlen w.y w.stall hdst ha (Operand.code6_lt hb)
  simp only [baseOf, hd, hA, hB, hy, hst, operand6_code6 hb]

theorem extAOf_words {op len : Nat} (hop : op < 256) (hlen : len < 4) {w : ExtA} (hdst : w.dst.defined = true) (ha : w.a.defined = true)
    (hb : w.b.defined = true) (hc : w.c.defined = true) :
    extAOf w.form (word0Of op len w.h) (word1Of w.h w.dst w.a w.b) (BitVec.ofNat 32 (w.c.code9 + w.spec.toNat * 2 ^ 9)) w.lit = w := by
  obtain ⟨hd, hA, hB⟩ := operands_of_word1Of w.h hdst ha hb
  obtain ⟨hC, hS⟩ := fields_of_arithWord w.spec hc
  simp only [extAOf, headOf_words hop hlen, hd, hA, hB, hC, hS]

theorem extMOf_words {op len : Nat} (hop : op < 256) (hlen : len < 4) {w : ExtM} (hdst : w.dst.defined = true) (ha : w.a.defined = true)
    (hb : w.b.defined = true) :
    extMOf (word0Of op len w.h) (word1Of w.h w.dst w.a w.b) (BitVec.ofNat 32 (w.mmod.toNat + w.offset.toNat * 2 ^ 8)) = w := by
  obtain ⟨hd, hA, hB⟩ := operands_of_word1Of w.h hdst ha hb
  obtain ⟨hO, hM⟩ := fields_of_memWord w.mmod w.offset
  simp only [extMOf, headOf_words hop hlen, hd, hA, hB, hO, hM]

/-- A base word with a literal holds the operands alone; the extended form as which it executes has the other fields (R48). -/
theorem baseLitOf_words {op len : Nat} (hop : op < 256) (hlen : len < 4) {w : ExtA} (hform : w.form = .baseLit)
    (hcanon : (Fields.ofA (some w.form) w).canonical w.spec w.lit = true) :
    baseLitOf (baseWord op len w.h.y w.h.stall w.dst w.a 0) w.lit = w ∧ bitsOf (baseWord op len w.h.y w.h.stall w.dst w.a 0) 31 26 = 0 := by
  obtain ⟨form, h, dst, a, b, c, spec, lit⟩ := w
  cases hform
  simp only [Fields.canonical, Fields.ofA, Bool.and_eq_true, and_assoc, beq_iff_eq] at hcanon
  obtain ⟨hh, hdst, ha, rfl, rfl, rfl⟩ := hcanon
  obtain ⟨hd, hA, hB, hy, hst⟩ := fields_of_baseWord hop hlen h.y h.stall hdst ha (show 0 < 64 by decide)
  refine ⟨?_, hB⟩
  simp only [baseLitOf, baseOf, hd, hA, hy, hst, ← hh]

/-! ### From an instruction to its words -/

theorem decode_base {i : Instr} {op : Nat} {w : Base} (hb : buildBase op w = some i) (hwf : i.wf = true) :
    ∃ ws, encode i = some ws ∧ ∀ rest, decode (ws ++ rest) = .instr i ws.length := by
  have row := buildBase_row hb
  obtain ⟨hcanon, ⟨r, hrow, hform⟩, hok⟩ := (wf_iff row.opcode row.fields row.spec).1 hwf
  have hop := op_lt_of_opRow hrow
  simp only [Fields.canonical, Fields.ofA, Base.toExt, Bool.and_eq_true, and_assoc] at hcanon
  obtain ⟨hdst, ha, hbc⟩ := hcanon
  refine ⟨_, row.words, fun rest => decode_of_built (len := 0) (first_of_baseWord hop (by decide) _ _ _ _ _) hrow hform ?_ (by simp)
    row.fields hok (by simp [formWords])⟩
  simpa only [buildWords, baseOf_baseWord hop (show 0 < 4 by decide) hdst ha hbc] using hb

theorem decode_arith {i : Instr} {op : Nat} {w : ExtA} (hb : buildA op w = some i) (hwf : i.wf = true) :
    ∃ ws, encode i = some ws ∧ ∀ rest, decode (ws ++ rest) = .instr i ws.length := by
  have row := buildA_row hb
  obtain ⟨hcanon, ⟨r, hrow, hform⟩, hok⟩ := (wf_iff row.opcode row.fields row.spec).1 hwf
  have hop := op_lt_of_opRow hrow
  have hlayout : r.layout = .arith := by simpa [hrow] using row.layout
  have ⟨_, hr, ho⟩ := hok
  obtain ⟨hd, hA, hB, hC⟩ := operands_defined row.fields hr ho
  refine ⟨_, row.words, fun rest => ?_⟩
  change r.forms.contains (lenOf (some w.form)) = true at hform
  cases hw : w.form <;> rw [hw] at hform <;> simp only [encodeA, hw, litWords, List.cons_append, List.nil_append]
  case baseLit =>
    obtain ⟨hwords, hzero⟩ := baseLitOf_words hop (show 1 < 4 by decide) hw hcanon
    refine decode_of_built (len := 1) (first_of_baseWord hop (by decide) _ _ _ _ _) hrow hform ?_ (fun _ => hzero) row.fields hok
      (by simp [formWords])
    simpa only [buildWords, List.getD_cons_zero, List.getD_cons_succ, litOf_litWords, hwords] using hb
  case ext =>
    have hlit : w.lit = 0 := by simpa [Fields.canonical, Fields.ofA, hw] using hcanon
    have hwords := extAOf_words hop (show 2 < 4 by decide) hd hA hB hC
    rw [hw, hlit] at hwords
    refine decode_of_built (len := 2) (first_of_word0Of hop (by decide) _) hrow hform ?_ (by simp) row.fields hok (by simp [formWords])
    simpa only [hlayout, buildWords, List.getD_cons_zero, List.getD_cons_succ, hwords] using hb
  case extLit =>
    have hwords := extAOf_words hop (show 3 < 4 by decide) hd hA hB hC
    rw [hw] at hwords
    refine decode_of_built (len := 3) (first_of_word0Of hop (by decide) _) hrow hform ?_ (by simp) row.fields hok (by simp [formWords])
    simpa only [hlayout, buildWords, List.getD_cons_zero, List.getD_cons_succ, litOf_litWords, hwords] using hb

theorem decode_mem {i : Instr} {op : Nat} {w : ExtM} (hb : buildM op w = some i) (hwf : i.wf = true) :
    ∃ ws, encode i = some ws ∧ ∀ rest, decode (ws ++ rest) = .instr i ws.length := by
  have row := buildM_row hb
  obtain ⟨-, -, hok⟩ := (wf_iff row.opcode row.fields row.spec).1 hwf
  have hop := op_lt_of_opRow row.row
  have ⟨_, hr, ho⟩ := hok
  obtain ⟨hd, hA, hB, -⟩ := operands_defined row.fields hr ho
  have hwords := extMOf_words hop (show 2 < 4 by decide) hd hA hB
  refine ⟨_, row.words, fun rest => ?_⟩
  simp only [encodeM, List.cons_append, List.nil_append]
  refine decode_of_built (len := 2) (first_of_word0Of hop (by decide) _) row.row rfl ?_ (by simp) row.fields hok (by simp [formWords])
  simpa only [buildWords, List.getD_cons_zero, List.getD_cons_succ, hwords] using hb

/-- Settles O12: an encoded instruction is built from an opcode and fields in one of three ways, and in each the decoder reads the fields
of the words that the encoder makes. -/
theorem encodeDecode : Obligations.EncodeDecode := by
  intro i hwf
  have hwf' := hwf
  simp only [Instr.wf, Bool.and_eq_true, and_assoc] at hwf'
  obtain ⟨-, hform, hr, -⟩ := hwf'
  cases hop : opOf i with
  | none => simp [Instr.formOk, hop] at hform
  | some op =>
    obtain ⟨w, hb⟩ | ⟨w, hb⟩ | ⟨w, hb⟩ := built_of_opcode hop hr
    · exact decode_base hb hwf
    · exact decode_arith hb hwf
    · exact decode_mem hb hwf

/-! ### From words to the instruction -/

/-- An instruction that passes the checks of R62 fits its words, and the encoder gives `ws`. -/
def Encodes (i : Instr) (ws : List Word) : Prop := i.reservedOk = true → i.operandsOk = true → i.canonical = true ∧ encode i = some ws

theorem canonical_eq {i : Instr} {f : Fields} {spec : BitVec 23} {lit : DWord} (hf : fieldsOf i = some f) (hs : specOf i = (spec, lit)) :
    i.canonical = f.canonical spec lit := by
  rw [Instr.canonical, hf, hs]

theorem encode_base {w0 : Word} {i : Instr} (hlen : bitsOf w0 1 0 = 0) (hb : buildBase (bitsOf w0 9 2) (baseOf w0) = some i) :
    Encodes i [w0] := by
  intro hr ho
  have row := buildBase_row hb
  obtain ⟨hd, hA, hB, -⟩ := operands_defined row.fields hr ho
  refine ⟨?_, ?_⟩
  · rw [canonical_eq row.fields row.spec]
    simp only [Fields.canonical, Fields.ofA, Bool.and_eq_true]
    exact ⟨⟨compact_operand6 hd, compact_operand6 hA⟩, compact_operand6 hB⟩
  · have hw := baseWord_of_fields w0
    rw [hlen] at hw
    rw [row.words]
    simp only [baseOf, code6_operand6 (bitsOf_lt w0 31 26), hw]

theorem encode_baseLit {w0 w1 w2 : Word} {i : Instr} (hlen : bitsOf w0 1 0 = 1) (hzero : bitsOf w0 31 26 = 0)
    (hb : buildA (bitsOf w0 9 2) (baseLitOf w0 (litOf w1 w2)) = some i) : Encodes i [w0, w1, w2] := by
  intro hr ho
  have row := buildA_row hb
  obtain ⟨hd, hA, -, -⟩ := operands_defined row.fields hr ho
  refine ⟨?_, ?_⟩
  · rw [canonical_eq row.fields row.spec]
    simp only [Fields.canonical, Fields.ofA, baseLitOf, Head.base, Bool.and_eq_true, beq_self_eq_true, and_true, true_and]
    exact ⟨compact_operand6 hd, compact_operand6 hA⟩
  · have hw := baseWord_of_fields w0
    rw [hlen, hzero] at hw
    rw [row.words]
    simp only [encodeA, baseLitOf, baseOf, Head.base, litWords_litOf, hw]

theorem encode_ext {w0 w1 w2 : Word} {i : Instr} (hlen : bitsOf w0 1 0 = 2) (hb : buildA (bitsOf w0 9 2) (extAOf .ext w0 w1 w2 0) = some i) :
    Encodes i [w0, w1, w2] := by
  intro _ _
  have row := buildA_row hb
  refine ⟨canonical_eq row.fields row.spec, ?_⟩
  have hw := word0Of_headOf w0 w1
  rw [hlen] at hw
  rw [row.words]
  simp only [encodeA, extAOf, hw, word1Of_headOf, arithWord_of_fields]

theorem encode_extLit {w0 w1 w2 w3 w4 : Word} {i : Instr} (hlen : bitsOf w0 1 0 = 3)
    (hb : buildA (bitsOf w0 9 2) (extAOf .extLit w0 w1 w2 (litOf w3 w4)) = some i) : Encodes i [w0, w1, w2, w3, w4] := by
  intro _ _
  have row := buildA_row hb
  refine ⟨canonical_eq row.fields row.spec, ?_⟩
  have hw := word0Of_headOf w0 w1
  rw [hlen] at hw
  rw [row.words]
  simp only [encodeA, extAOf, hw, word1Of_headOf, arithWord_of_fields, litWords_litOf, List.cons_append, List.nil_append]

theorem encode_mem {w0 w1 w2 : Word} {i : Instr} (hlen : bitsOf w0 1 0 = 2) (hb : buildM (bitsOf w0 9 2) (extMOf w0 w1 w2) = some i) :
    Encodes i [w0, w1, w2] := by
  intro _ _
  have row := buildM_row hb
  refine ⟨canonical_eq row.fields row.spec, ?_⟩
  have hw := word0Of_headOf w0 w1
  rw [hlen] at hw
  rw [row.words]
  simp only [encodeM, extMOf, hw, word1Of_headOf, memWord_of_fields]

theorem getElem_eq_getD {ws : List Word} {k : Nat} (h : k < ws.length) : ws[k] = ws.getD k 0 := by
  rw [List.getD_eq_getElem?_getD, List.getElem?_eq_getElem h, Option.getD_some]

/-- The words that the decoder looks at are the first ones of a list that is long enough. -/
theorem take_words {ws : List Word} {n : Nat} (h : n ≤ ws.length) (h5 : n ≤ 5) :
    [ws.getD 0 0, ws.getD 1 0, ws.getD 2 0, ws.getD 3 0, ws.getD 4 0].take n = ws.take n := by
  have hget : ∀ k (hk : k < 5), [ws.getD 0 0, ws.getD 1 0, ws.getD 2 0, ws.getD 3 0, ws.getD 4 0][k]'hk = ws.getD k 0 := by
    intro k hk
    match k, hk with
    | 0, _ | 1, _ | 2, _ | 3, _ | 4, _ => rfl
  refine List.ext_getElem ?_ fun k hk hk' => ?_
  · rw [List.length_take, List.length_take, Nat.min_eq_left h]
    exact Nat.min_eq_left h5
  · rw [List.length_take] at hk hk'
    rw [List.getElem_take, List.getElem_take]
    exact (hget k (by omega)).trans (getElem_eq_getD (by omega)).symm

theorem formWords_le (len : Nat) : formWords len ≤ 5 := by
  match len with
  | 0 | 1 | 2 | 3 => decide
  | _ + 4 => exact (by decide : 1 ≤ 5)

/-- An instruction that words build has their opcode and the form of their LEN, and the encoder gives these words. -/
theorem encodes_of_buildWords {w0 w1 w2 w3 w4 : Word} {i : Instr} {r : OpRow} (hrow : opRow (bitsOf w0 9 2) = some r)
    (hform : r.forms.contains (bitsOf w0 1 0) = true)
    (hb : buildWords (bitsOf w0 9 2) (bitsOf w0 1 0) r.layout w0 w1 w2 w3 w4 = some i) :
    (∃ f, opOf i = some (bitsOf w0 9 2) ∧ fieldsOf i = some f ∧ lenOf f.form = bitsOf w0 1 0) ∧
      ((bitsOf w0 1 0 = 1 → bitsOf w0 31 26 = 0) → Encodes i ([w0, w1, w2, w3, w4].take (formWords (bitsOf w0 1 0)))) := by
  have hlt : bitsOf w0 1 0 < 4 := bitsOf_lt w0 1 0
  generalize hlen : bitsOf w0 1 0 = len at *
  unfold buildWords at hb
  split at hb
  next =>
    have row := buildBase_row hb
    exact ⟨⟨_, row.opcode, row.fields, rfl⟩, fun _ => encode_base hlen hb⟩
  next =>
    have row := buildA_row hb
    exact ⟨⟨_, row.opcode, row.fields, rfl⟩, fun hzero => encode_baseLit hlen (hzero rfl) hb⟩
  next =>
    have row := buildA_row hb
    exact ⟨⟨_, row.opcode, row.fields, rfl⟩, fun _ => encode_ext hlen hb⟩
  next len _ _ h0 h1 h2 _ =>
    have row := buildA_row hb
    obtain rfl : len = 3 := by
      have hne : len ≠ 0 ∧ len ≠ 1 ∧ len ≠ 2 := ⟨h0, h1, h2⟩
      omega
    exact ⟨⟨_, row.opcode, row.fields, rfl⟩, fun _ => encode_extLit hlen hb⟩
  next len _ _ _ _ _ =>
    have row := buildM_row hb
    obtain rfl : len = 2 := by
      rw [row.row] at hrow
      cases hrow
      simpa using hform
    exact ⟨⟨_, row.opcode, row.fields, rfl⟩, fun _ => encode_mem hlen hb⟩

/-- Settles O13: the words that build an accepted instruction are those that the encoder makes of its fields. -/
theorem decodeEncode : Obligations.DecodeEncode := by
  intro ws i n h
  obtain ⟨r, j, hrow, hn, hform, hb, hstatic⟩ := decode_eq_instr_iff.1 h
  obtain ⟨⟨f, hop, hf, hlen⟩, henc⟩ := encodes_of_buildWords hrow hform hb
  obtain ⟨⟨hnamed, hzero, hr, ho⟩, rfl, rfl⟩ := (staticCheck_eq_instr_iff hf).1 hstatic
  obtain ⟨hcanon, hwords⟩ := henc (fun h1 => by rwa [if_pos h1] at hzero) hr ho
  refine ⟨?_, hwords.trans (congrArg some (take_words hn (formWords_le _))), hn⟩
  have hformOk : j.formOk = true := by
    rw [Instr.formOk, hop, hf]
    simp only [hrow, hlen, hform, hnamed, Bool.and_self]
  simp [Instr.wf, hcanon, hformOk, hr, ho]

end Sys2Proof
end

section
/-!
SUPPORT. O11 (R46 to R56): the words that the spec works through.
-/

namespace Sys2Proof

/-- Settles O11: the decoder is run on the words of the five examples. -/
theorem decodeSamples : Obligations.DecodeSamples := by
  refine ⟨?fmul, ?ffma, ?st, ?iadd, ?nop⟩ <;> decide +kernel

end Sys2Proof
end

section
/-!
SUPPORT. O9 (R47, R62; log 2): the step of a picked group, of an event, and of a cycle that begins with nothing that waits for it.
-/

namespace Sys2Proof.Machine

/-! ### One step -/

theorem step_of_fetched {s s1 : State} {ref : GRef} {i : Instr} (hfatal : s.fatal = false) (hcur : s.cur = some ref)
    (hfetch : s.fetchNext ref = (s1, some i)) : step s = exec i s1 := by
  simp only [step, hfatal, hcur, hfetch, Bool.false_eq_true, if_false]

theorem step_of_event {s : State} {e : Instr} {r : List Instr} (hfatal : s.fatal = false) (hcur : s.cur = none) (hag : s.agenda = e :: r) :
    step s = exec e { s with agenda := r } := by
  simp only [step, hfatal, hcur, hag, Bool.false_eq_true, if_false]

theorem step_of_idle {s : State} (hfatal : s.fatal = false) (hcur : s.cur = none) (hag : s.agenda = []) : step s = .next s.tick := by
  simp only [step, hfatal, hcur, hag, Bool.false_eq_true, if_false]

/-- A fetch whose line is at hand and whose words decode to an instruction gives that instruction (R47, R62). -/
theorem State.fetchNext_of_instr {s s1 : State} {ref : GRef} {t : Team} {g : Group} {c : Nat} {ws : List Word} {i : Instr} {n : Nat}
    (ht : s.team? ref.team = some t) (hg : s.group? ref = some g) (hc : t.core? = some c) (hrun : g.runLen < 256)
    (hline : s.codeLine { core := some c, cluster := clusterOf c, part := t.part, lid := t.lid } (g.split g.cur).pc = (s1, .words ws))
    (hd : decode (ws.drop ((g.split g.cur).pc.toNat % 128 / 4)) = .instr i n) : s.fetchNext ref = (s1, some i) := by
  simp only [State.fetchNext, ht, hg, hc, hline, if_neg (Nat.not_le.2 hrun), hd]

/-! ### A cycle that begins with nothing that waits for it -/

theorem State.reap_of_no_turns {s : State} (h : ∀ e ∈ s.slices, e.2.held = []) : s.reap = s := by
  unfold State.reap
  dsimp only
  rw [List.flatMap_eq_nil_iff.2 fun e he => by rw [h e he, List.filterMap_nil], List.foldl_nil]

/-- The cycle begins with no wait that ends, no turn of an agent, no message and no flit in a port: operations over other dies that have
ended long since go, and nothing else does. -/
theorem State.begin_of_idle {s : State} (hwakes : s.wakes = []) (hinbox : s.inbox = []) (hheld : ∀ e ∈ s.slices, e.2.held = [])
    (hports : ∀ p ∈ s.ports, p.2.buf = []) : s.begin = s.reapFar := by
  have hw : s.applyWakes = s := by rw [State.applyWakes, hwakes, List.foldl_nil, ← hwakes]
  have hr : s.reapFar.receiveAll = s.reapFar := by
    have hin : s.reapFar.inbox = [] := hinbox
    rw [State.receiveAll, hin, List.foldl_nil, ← hin]
  have hp : (s.reapFar.ports.filter fun p => !p.2.buf.isEmpty) = [] := by
    rw [List.filter_eq_nil_iff]
    intro p hp
    simp [hports p hp]
  rw [State.begin, hw, State.reap_of_no_turns hheld, hr, hp, List.foldl_nil]

/-- Settles O9: the three branches of a step, and the beginning of an idle cycle. -/
theorem stepRunsDecoded : Obligations.StepRunsDecoded := by
  refine ⟨?group, ?event, ?idle⟩
  case group =>
    intro s s1 ref t g c ws i n hfatal hcur ht hg hc hrun hline hd
    exact step_of_fetched hfatal hcur (State.fetchNext_of_instr ht hg hc hrun hline hd)
  case event =>
    intro s e r hfatal hcur hag
    exact step_of_event hfatal hcur hag
  case idle =>
    intro s hfatal hcur hag
    refine ⟨s.tick, step_of_idle hfatal hcur hag, fun hwakes hinbox hheld hports => ?_⟩
    have hbegin := State.begin_of_idle
      (s := { s with clk := s.clk + 1, ptp := s.ptp + ((s.clk + 1) * 1000 / s.mhz - s.clk * 1000 / s.mhz) }) hwakes hinbox hheld hports
    rw [State.tick]
    dsimp only
    rw [hbegin]
    exact ⟨rfl, rfl, rfl, rfl, rfl, rfl, rfl, rfl⟩

end Sys2Proof.Machine
end

section
/-!
SUPPORT. O28 (R59, R127, R130, R282, R287): what LD, ST, LDL and STL raise. A body answers with a cause before any access is translated, or
with that of the first access whose translation fails.
-/

namespace Sys2Proof.Machine

open Safety

/-! ### The issue of an instruction whose access faults -/

theorem runGroup_susp {i : Instr} {s s' t : State} {x : Ctx} {nf : Info} {body : Ctx → State → Res} {f : PageFault} (h : Issues i s x s')
    (hn : nf = infoOf i) (hb : body x s' = .susp t f) :
    runGroup i nf body s = .next (((x.undo t).suspend x.ref f).issuedAt x.core x.g.quarter) := by
  obtain ⟨s0, x0, hi, hc⟩ := issues_from h
  obtain ⟨d, rfl⟩ := clear_ctx hc
  subst hn
  have hchk : x0.checked (infoOf i) (specOf i).1 (deadGone x0 s0) body = .susp t f := (checked_of_clear body hc).trans hb
  simp only [deadGone] at hchk
  simp only [runGroup, hi, issueAs, hchk]
  rfl

/-- A translation cause of a lane: 0x100 to 0x102 suspend the team, the others are raised (R282, R287). -/
theorem runGroup_accessRes {i : Instr} {s s0 s' t : State} {x : Ctx} {nf : Info} {body : Ctx → State → Res} {code kind : Nat}
    {va : BitVec 56} {einfo : DWord} (h : IssuesFrom i s s0 x s') (hn : nf = infoOf i) (hb : body x s' = accessRes t code kind va einfo) :
    runGroup i nf body s = .next
      (if code = 0x100 ∨ code = 0x101 ∨ code = 0x102 then
        ((x.undo t).suspend x.ref { cause := code, kind, va }).issuedAt x.core x.g.quarter
       else raised x code einfo s0) := by
  unfold accessRes at hb
  by_cases hq : code = 0x100 ∨ code = 0x101 ∨ code = 0x102
  · rw [if_pos hq] at hb ⊢
    exact runGroup_susp (issuesFrom_issues h) hn hb
  · rw [if_neg hq] at hb ⊢
    exact runGroup_cause h hn hb

/-! ### Translation up to the first access that fails -/

theorem Ctx.translateAll_append (x : Ctx) (write : Bool) (kind : Nat) (k : State → List (VAcc × Tgt) → Res) (before rest : List VAcc) :
    ∀ acc s, x.translateAll write kind k (before ++ rest) acc s
      = x.translateAll write kind (fun s ts => x.translateAll write kind k rest ts s) before acc s := by
  induction before with
  | nil => intro acc s; rfl
  | cons a r ih => intro acc s; simp only [List.cons_append, Ctx.translateAll, ih]

/-- The accesses before one whose translation fails reach something, so that one's cause is the answer (R282). -/
theorem Ctx.translateAll_of_failing {x : Ctx} {write : Bool} {kind : Nat} {k : State → List (VAcc × Tgt) → Res} {before after : List VAcc}
    {a : VAcc} {s s1 s2 : State} {ts : List (VAcc × Tgt)} {c : Nat} (hr : Rules.reached x write before s = some (s1, ts))
    (hpeer : isPeer a.va = false) (hc : s1.translateLane x.from x.ref a.lane a.va write = (s2, .err c)) :
    x.translateAll write kind k (before ++ a :: after) [] s = accessRes s2 c kind a.va 0 := by
  rw [x.translateAll_append, x.translateAll_of_reached write kind _ before [] s s1 ts hr]
  simp only [Ctx.translateAll, hpeer, hc, Bool.false_and, Bool.false_eq_true, if_false]

theorem misaligned_eq_none {accs : List VAcc} (h : ∀ a ∈ accs, a.va.toNat % a.len = 0) : misaligned accs = none := by
  simpa [misaligned] using h

/-! ### The bodies of loads and stores -/

theorem Ctx.loadLanes_eq (x : Ctx) (dst : Operand) : x.loadLanes dst = Rules.loading x dst := by
  cases dst <;> rfl

theorem Ctx.load_of_misaligned {x : Ctx} {w : ExtM} {accs : List VAcc} {regs : Nat} {s : State} {a : VAcc} (h : misaligned accs = some a) :
    x.load w accs regs s = .cause 0x008 (a.va.setWidth 64) := by
  rw [Ctx.load, h]

theorem Ctx.store_of_misaligned {x : Ctx} {cls : Nat} {d : StoreSrc} {accs : List VAcc} {s : State} {a : VAcc}
    (h : misaligned accs = some a) : x.store cls d accs s = .cause 0x008 (a.va.setWidth 64) := by
  rw [Ctx.store, h]

/-- A lane whose address in its own memory fails gives that address (R130; log 57). -/
theorem Ctx.privates_of_failing {x : Ctx} {s : State} {w : ExtM} {ls : List Nat} {l : Nat} (h : ls.find? (Rules.ownFails x s w) = some l) :
    x.privates s w ls = .error (BitVec.ofInt 64 (Rules.ownAddress x w l)) := by
  have hfind : (ls.find? fun l => privBad (x.privAddr w l) (sizeBytes w.size) (Rules.ownArea x s).2) = some l := h
  simp only [Ctx.privates, Ctx.privArea_eq, hfind]
  rfl

theorem Ctx.load_of_failing {x : Ctx} {w : ExtM} {before after : List VAcc} {a : VAcc} {regs : Nat} {s s1 s2 : State}
    {ts : List (VAcc × Tgt)} {c : Nat} (halign : ∀ b ∈ before ++ a :: after, b.va.toNat % b.len = 0)
    (hr : Rules.reached x false before s = some (s1, ts)) (hpeer : isPeer a.va = false)
    (hc : s1.translateLane x.from x.ref a.lane a.va false = (s2, .err c)) :
    x.load w (before ++ a :: after) regs s = accessRes s2 c kindRead a.va 0 := by
  rw [Ctx.load, misaligned_eq_none halign]
  exact (if_neg (by simp)).trans (Ctx.translateAll_of_failing hr hpeer hc)

theorem Ctx.store_of_failing {x : Ctx} {cls : Nat} {d : StoreSrc} {before after : List VAcc} {a : VAcc} {s s1 s2 : State}
    {ts : List (VAcc × Tgt)} {c : Nat} (halign : ∀ b ∈ before ++ a :: after, b.va.toNat % b.len = 0)
    (hr : Rules.reached x true before s = some (s1, ts)) (hpeer : isPeer a.va = false)
    (hc : s1.translateLane x.from x.ref a.lane a.va true = (s2, .err c)) :
    x.store cls d (before ++ a :: after) s = accessRes s2 c kindWrite a.va 0 := by
  rw [Ctx.store, misaligned_eq_none halign]
  exact Ctx.translateAll_of_failing hr hpeer hc

/-! ### LD, ST, LDL and STL -/

theorem exec_ld (w : ExtM) (s : State) : exec (.ld w) s = execLd w s := rfl

theorem exec_ldl (w : ExtM) (s : State) : exec (.ldl w) s = execLdl w s := rfl

theorem Ctx.vaccs_eq (x : Ctx) (w : ExtM) (ls : List Nat) : x.vaccs w ls = Rules.accesses x w ls := rfl

/-- Settles O28: a misaligned lane, and an address of a lane's own memory that fails, are found before any access is translated; of translations the first
that fails, in lane order, ends the instruction. -/
theorem accessFaults : Obligations.AccessFaults := by
  refine ⟨?ld, ?st, ?ldl, ?stl, ?stTranslate, ?ldTranslate⟩
  case ld =>
    intro w s s0 x s' a h hfind
    rw [exec_ld, execLd]
    refine runGroup_cause h rfl (Ctx.load_of_misaligned ?_)
    rwa [Ctx.loadLanes_eq, Ctx.vaccs_eq]
  case st =>
    intro w s s0 x s' a h hfind
    rw [exec_st, execSt]
    exact runGroup_cause h rfl (Ctx.store_of_misaligned hfind)
  case ldl =>
    intro w s s0 x s' l h hfind
    rw [exec_ldl, execLdl]
    refine runGroup_cause h rfl ?_
    rw [Ctx.loadLanes_eq, Ctx.privates_of_failing hfind]
  case stl =>
    intro w s s0 x s' l h hfind
    rw [exec_stl, execStl]
    refine runGroup_cause h rfl ?_
    rw [Ctx.privates_of_failing hfind]
  case stTranslate =>
    intro w s s0 x s' before a after s1 ts s2 c h haccs halign hr hpeer hc
    rw [exec_st, execSt]
    refine runGroup_accessRes h rfl ?_
    rw [Ctx.vaccs_eq, haccs]
    exact Ctx.store_of_failing halign hr hpeer hc
  case ldTranslate =>
    intro w s s0 x s' before a after s1 ts s2 c h haccs halign hr hpeer hc
    rw [exec_ld, execLd]
    refine runGroup_accessRes h rfl ?_
    rw [Ctx.loadLanes_eq, Ctx.vaccs_eq, haccs]
    exact Ctx.load_of_failing halign hr hpeer hc

end Sys2Proof.Machine
end

section
/-!
SUPPORT. The lanes of a mask as a list, its lowest lane, and a mask that a test cuts out of another.
-/

namespace Sys2Proof.Machine

theorem Mask.mem_list {m : Mask} {l : Nat} : l ∈ Mask.list m ↔ m.getLsbD l = true := by
  rw [Mask.list, List.mem_filter, lanes32, List.mem_range]
  exact ⟨And.right, fun h => ⟨BitVec.lt_of_getLsbD h, h⟩⟩

theorem Mask.decide_and_getLsbD (m : Mask) (l : Nat) : (decide (l < 32) && m.getLsbD l) = m.getLsbD l := by
  by_cases h : l < 32
  · simp [h]
  · simp [h, BitVec.getLsbD_of_ge m l (by omega)]

theorem Mask.list_ne_nil {m : Mask} (h : m ≠ 0) : Mask.list m ≠ [] := by
  refine fun hnil => h (BitVec.eq_of_getLsbD_eq fun l _ => ?_)
  have hout : l ∉ Mask.list m := by simp [hnil]
  simpa [Mask.mem_list] using hout

theorem Mask.head?_list {m : Mask} (h : m ≠ 0) : (Mask.list m).head? = some (Mask.lowest m) := by
  rw [Mask.lowest, Mask.lowest?]
  obtain ⟨l, r, e⟩ := List.exists_cons_of_ne_nil (Mask.list_ne_nil h)
  rw [e]
  rfl

/-- A test holds of all lanes of a mask when it cuts the whole mask out. -/
theorem maskOf_and_eq_iff {m : Mask} {p : Nat → Bool} :
    (maskOf fun l => m.getLsbD l && p l) = m ↔ ∀ l ∈ Mask.list m, p l = true := by
  simp only [Mask.mem_list]
  refine ⟨fun h l hl => ?_, fun h => BitVec.eq_of_getLsbD_eq fun l hl => ?_⟩
  · rw [← h, maskOf_getLsbD] at hl
    simp only [Bool.and_eq_true] at hl
    exact hl.2.2
  · rw [maskOf_getLsbD, decide_eq_true hl, Bool.true_and]
    cases hm : m.getLsbD l with
    | false => rfl
    | true => exact h l hm

end Sys2Proof.Machine
end

section
/-!
SUPPORT. Distinct elements stand once, and the distinct addresses of a list, sorted, rise strictly.
-/

namespace Sys2Proof.Machine

theorem mem_insertBy {α : Type} {le : α → α → Bool} {a b : α} {l : List α} : b ∈ insertBy le a l ↔ b = a ∨ b ∈ l := by
  induction l with
  | nil => exact List.mem_cons
  | cons c l ih =>
    rw [insertBy]
    cases le a c with
    | true => exact List.mem_cons
    | false => exact List.mem_cons.trans ((or_congr_right ih).trans (or_left_comm.trans (or_congr_right List.mem_cons.symm)))

theorem mem_sortBy {α : Type} {le : α → α → Bool} {b : α} {l : List α} : b ∈ sortBy le l ↔ b ∈ l := by
  induction l with
  | nil => exact Iff.rfl
  | cons a l ih => rw [sortBy, mem_insertBy, List.mem_cons, ih]

theorem nodup_eraseDups {α : Type} [BEq α] [LawfulBEq α] : ∀ l : List α, l.eraseDups.Nodup
  | [] => List.nodup_nil
  | a :: l => by
    rw [List.eraseDups_cons, List.nodup_cons, List.mem_eraseDups, List.mem_filter]
    exact ⟨fun h => absurd h.2 (by rw [beq_self_eq_true]; exact Bool.false_ne_true), nodup_eraseDups _⟩
termination_by l => l.length
decreasing_by exact Nat.lt_succ_of_le (List.length_filter_le _ _)

/-- The order in which `pathsOf` sorts addresses. -/
def addrLe (a b : BitVec 56) : Bool := decide (a.toNat ≤ b.toNat)

theorem addrLe_iff {a b : BitVec 56} : addrLe a b = true ↔ a.toNat ≤ b.toNat := decide_eq_true_iff

/-- A new address takes its place in a list that rises strictly. -/
theorem insertBy_rising {a : BitVec 56} {l : List (BitVec 56)} (hl : l.Pairwise fun a b => a.toNat < b.toNat) (ha : a ∉ l) :
    (insertBy addrLe a l).Pairwise fun a b => a.toNat < b.toNat := by
  induction l with
  | nil => exact List.pairwise_singleton _ _
  | cons b l ih =>
    obtain ⟨hb, hl'⟩ := List.pairwise_cons.mp hl
    have hne : a.toNat ≠ b.toNat := fun e => ha (List.mem_cons.mpr (.inl (BitVec.eq_of_toNat_eq e)))
    have hal : a ∉ l := fun h => ha (List.mem_cons_of_mem _ h)
    rw [insertBy]
    by_cases hle : a.toNat ≤ b.toNat
    · rw [if_pos (addrLe_iff.mpr hle)]
      refine List.pairwise_cons.mpr ⟨fun c hc => ?_, hl⟩
      have hlt : a.toNat < b.toNat := by omega
      obtain rfl | hc := List.mem_cons.mp hc
      · exact hlt
      · exact Nat.lt_trans hlt (hb c hc)
    · rw [if_neg (mt addrLe_iff.mp hle)]
      refine List.pairwise_cons.mpr ⟨fun c hc => ?_, ih hl' hal⟩
      obtain rfl | hc := mem_insertBy.mp hc
      · omega
      · exact hb c hc

/-- The distinct addresses of a list in ascending order. -/
def ascending (l : List (BitVec 56)) : List (BitVec 56) := sortBy addrLe l.eraseDups

theorem mem_ascending {l : List (BitVec 56)} {a : BitVec 56} : a ∈ ascending l ↔ a ∈ l := by
  rw [ascending, mem_sortBy, List.mem_eraseDups]

theorem sortBy_rising {l : List (BitVec 56)} (h : l.Nodup) : (sortBy addrLe l).Pairwise fun a b => a.toNat < b.toNat := by
  induction l with
  | nil => exact List.Pairwise.nil
  | cons a l ih =>
    obtain ⟨ha, hl⟩ := List.nodup_cons.mp h
    exact insertBy_rising (ih hl) (mt mem_sortBy.mp ha)

theorem ascending_pairwise (l : List (BitVec 56)) : (ascending l).Pairwise fun a b => a.toNat < b.toNat :=
  sortBy_rising (nodup_eraseDups l)

end Sys2Proof.Machine
end

section
/-!
SUPPORT. Targets of control transfers (R47, R111 to R113): what an instruction does when its targets are instruction starts, and when one
is not; and the fall-through address of an instruction of the arithmetic layout.
-/

namespace Sys2Proof.Machine

open Safety

theorem Ctx.withTarget_ok {x : Ctx} {s s1 : State} {va : BitVec 56} (k : State → Res) (h : s.checkTarget x.from va = (s1, .ok)) :
    x.withTarget s va k = k s1 := by rw [Ctx.withTarget, h]

theorem Ctx.withTarget_bad {x : Ctx} {s s1 : State} {va : BitVec 56} (k : State → Res) (h : s.checkTarget x.from va = (s1, .bad)) :
    x.withTarget s va k = .cause 0x009 (va.setWidth 64) := by rw [Ctx.withTarget, h]

theorem checked_cons {f : From} {va : BitVec 56} {vas : List (BitVec 56)} {s s2 : State} :
    Rules.checked f (va :: vas) s = some s2 ↔ ∃ s1, s.checkTarget f va = (s1, .ok) ∧ Rules.checked f vas s1 = some s2 := by
  rw [Rules.checked]
  split
  next s1 h => simp [h]
  next h => exact ⟨nofun, fun ⟨s1, hok, _⟩ => absurd hok (h s1)⟩

/-- The targets before one that fails, or before the end, only change the state in which the next is checked (R112). -/
theorem Ctx.withTargets_append {x : Ctx} (k : State → Res) (rest : List (BitVec 56)) {s1 : State} : ∀ {vas : List (BitVec 56)} {s : State},
    Rules.checked x.from vas s = some s1 → x.withTargets k (vas ++ rest) s = x.withTargets k rest s1
  | [], s, h => by cases h; rfl
  | va :: vas, s, h => by
    obtain ⟨s2, hok, hvas⟩ := checked_cons.mp h
    rw [List.cons_append, Ctx.withTargets, x.withTarget_ok _ hok, x.withTargets_append k rest hvas]

theorem Ctx.withTargets_ok {x : Ctx} (k : State → Res) {s s1 : State} {vas : List (BitVec 56)} (h : Rules.checked x.from vas s = some s1) :
    x.withTargets k vas s = k s1 := by
  rw [← List.append_nil vas, x.withTargets_append k [] h, Ctx.withTargets]

theorem Ctx.withTargets_bad {x : Ctx} (k : State → Res) {s s1 s2 : State} {pre post : List (BitVec 56)} {va : BitVec 56}
    (h : Rules.checked x.from pre s = some s1) (hbad : s1.checkTarget x.from va = (s2, .bad)) :
    x.withTargets k (pre ++ va :: post) s = .cause 0x009 (va.setWidth 64) := by
  rw [x.withTargets_append k _ h, Ctx.withTargets, x.withTarget_bad _ hbad]

theorem Ctx.split_of_stuck {x : Ctx} {s : State} {g : Group} {join : BitVec 56} {paths : List (BitVec 56 × Mask)} (hg : s.group? x.ref = some g)
    (h : g.divide x.slot join x.act paths = none) : x.split join paths s = .cause 0x00C 0 := by
  simp only [Ctx.split, hg, h]

theorem Ctx.split_of_divided {x : Ctx} {s : State} {g g' : Group} {join : BitVec 56} {paths : List (BitVec 56 × Mask)}
    (hg : s.group? x.ref = some g) (h : g.divide x.slot join x.act paths = some g') :
    x.split join paths s = .jump (s.modGroup x.ref fun _ => g') true := by
  simp only [Ctx.split, hg, h]

theorem next_eq_through {i : Instr} {s s' : State} {x : Ctx} {w : ExtA} (h : Issues i s x s')
    (hf : fieldsOf i = some (Fields.ofA (some w.form) w)) (hform : w.form ≠ .baseLit) : x.next = Rules.through x w := by
  obtain ⟨-, hx, -⟩ := issues_spec h
  rw [hf] at hx
  have hfx : x.f.form = some w.form := by rw [← Option.some.inj hx]; rfl
  rw [Ctx.next, hfx, Rules.through]
  cases hw : w.form
  case baseLit => exact absurd hw hform
  case ext => rfl
  case extLit => rfl

end Sys2Proof.Machine
end

section
/-!
SUPPORT. O19 (R111, R112): BRA and BRX. The body of each is written out once in the terms of the statements; the paths of BRX are the
distinct next PCs in ascending order.
-/

namespace Sys2Proof.Machine

open Safety

/-- How a division ends (R18, R19, R111, R112): its join address is no instruction start, the stack has no room, or the paths are taken. -/
theorem runGroup_divide {i : Instr} {s s0 s' s1 : State} {x : Ctx} {nf : Info} {body : Ctx → State → Res} {join : BitVec 56}
    {paths : List (BitVec 56 × Mask)} (h : IssuesFrom i s s0 x s') (hn : nf = infoOf i)
    (hb : body x s' = x.withTarget s1 join (x.split join paths)) :
    (∀ s2, s1.checkTarget x.from join = (s2, .bad) → runGroup i nf body s = .next (raised x 0x009 (join.setWidth 64) s0)) ∧
    ∀ s2 g, s1.checkTarget x.from join = (s2, .ok) → s2.group? x.ref = some g →
      (g.divide x.slot join x.act paths = none → runGroup i nf body s = .next (raised x 0x00C 0 s0)) ∧
      ∀ g', g.divide x.slot join x.act paths = some g' →
        runGroup i nf body s = .next (jumped x true (s2.modGroup x.ref fun _ => g')) := by
  refine ⟨fun s2 hbad => ?_, fun s2 g hok hg => ⟨fun hstuck => ?_, fun g' hg' => ?_⟩⟩
  · exact runGroup_cause h hn (by rw [hb, x.withTarget_bad _ hbad])
  · exact runGroup_cause h hn (by rw [hb, x.withTarget_ok _ hok, x.split_of_stuck hg hstuck])
  · exact runGroup_jump (issuesFrom_issues h) hn (by rw [hb, x.withTarget_ok _ hok, x.split_of_divided hg hg'])

/-! ### BRA -/

/-- What BRA does (R111). -/
def Ctx.branch (x : Ctx) (w : ExtA) (s : State) : Res :=
  let t := Rules.relative x (w.spec.signExtend 56)
  if x.ex = 0 then .jump (x.goto (Rules.through x w) s) false
  else x.withTarget s t fun s =>
    if x.act &&& ~~~x.ex ≠ 0 ∧ t ≠ Rules.through x w then
      x.withTarget s (Rules.joinOf x w) (x.split (Rules.joinOf x w) (Rules.braPaths x w))
    else .jump (x.goto t s) false

theorem braJoin_eq_joinOf {x : Ctx} {w : ExtA} (h : x.next = Rules.through x w) : braJoin x w = Rules.joinOf x w := by
  unfold braJoin Rules.joinOf
  rw [h]
  cases w.b <;> rfl

theorem exec_bra {w : ExtA} {s s' : State} {x : Ctx} (h : Issues (.bra w) s x s') (hform : w.form ≠ .baseLit) :
    ∃ body, exec (.bra w) s = runGroup (.bra w) {} body s ∧ body x s' = x.branch w s' := by
  have hnext := next_eq_through h rfl hform
  refine ⟨_, rfl, ?_⟩
  simp only [braJoin_eq_joinOf hnext, Ctx.branch, hnext]
  congr 2
  funext s1
  by_cases hdiv : x.act &&& ~~~x.ex ≠ 0 ∧ Rules.relative x (w.spec.signExtend 56) ≠ Rules.through x w
  · rw [if_pos hdiv, if_neg (by simpa [Ctx.rel, Rules.relative] using hdiv)]
    rfl
  · rw [if_neg hdiv, if_pos (by simpa [Ctx.rel, Rules.relative, Decidable.or_iff_not_imp_left] using hdiv)]
    rfl

theorem directBranchResults : Rules.BranchResults := by
  intro w s s0 x s' h hform
  obtain ⟨body, hexec, hbody⟩ := exec_bra (issuesFrom_issues h) hform
  rw [hexec]
  refine ⟨fun hex => ?noLane, fun hex => ⟨fun s1 hbad => ?bad, fun s1 hok => ⟨fun hdiv => ?whole, fun hdiv => ?divided⟩⟩⟩
  case noLane => exact runGroup_jump (issuesFrom_issues h) rfl (by rw [hbody, Ctx.branch, if_pos hex])
  all_goals rw [Ctx.branch, if_neg hex] at hbody
  case bad => exact runGroup_cause h rfl (by rw [hbody, x.withTarget_bad _ hbad])
  case whole => exact runGroup_jump (issuesFrom_issues h) rfl (by rw [hbody, x.withTarget_ok _ hok, if_neg hdiv])
  case divided => exact runGroup_divide h rfl (by rw [hbody, x.withTarget_ok _ hok, if_pos hdiv])

/-! ### BRX -/

/-- The next PCs of the lanes of a list, as `pathsOf` takes them. -/
def nextsOf (lanes : List Nat) (next : Nat → BitVec 56) : List (Nat × BitVec 56) := lanes.map fun l => (l, next l)

theorem pathsOf_eq (nexts : List (Nat × BitVec 56)) :
    pathsOf nexts = (ascending (nexts.map (·.2))).map fun pc => (pc, maskOf fun l => nexts.contains (l, pc)) := rfl

theorem mem_nextsOf {lanes : List Nat} {next : Nat → BitVec 56} {l : Nat} {pc : BitVec 56} :
    (l, pc) ∈ nextsOf lanes next ↔ l ∈ lanes ∧ next l = pc := by
  simp only [nextsOf, List.mem_map, Prod.mk.injEq]
  exact ⟨fun ⟨_, hl, e, hpc⟩ => e ▸ ⟨hl, hpc⟩, fun ⟨hl, hpc⟩ => ⟨l, hl, rfl, hpc⟩⟩

theorem pathsOf_ascending (nexts : List (Nat × BitVec 56)) : (pathsOf nexts).Pairwise fun p q => p.1.toNat < q.1.toNat := by
  rw [pathsOf_eq, List.pairwise_map]
  exact ascending_pairwise _

theorem mem_pathsOf_fst {lanes : List Nat} {next : Nat → BitVec 56} {pc : BitVec 56} :
    pc ∈ (pathsOf (nextsOf lanes next)).map Prod.fst ↔ ∃ l ∈ lanes, next l = pc := by
  simp [pathsOf_eq, nextsOf, mem_ascending]

theorem mem_pathsOf_lanes {lanes : List Nat} {next : Nat → BitVec 56} {p : BitVec 56 × Mask} (hp : p ∈ pathsOf (nextsOf lanes next)) {l : Nat}
    (hl : l < 32) : p.2.getLsbD l = true ↔ l ∈ lanes ∧ next l = p.1 := by
  rw [pathsOf_eq, List.mem_map] at hp
  obtain ⟨pc, -, rfl⟩ := hp
  rw [maskOf_getLsbD, ← mem_nextsOf]
  simp [hl]

theorem pathsOf_of_one {lanes : List Nat} {next : Nat → BitVec 56} {pc : BitVec 56} (hne : lanes ≠ []) (h : ∀ l ∈ lanes, next l = pc) :
    ∃ m, pathsOf (nextsOf lanes next) = [(pc, m)] := by
  have hpc (p) (hp : p ∈ pathsOf (nextsOf lanes next)) : p.1 = pc := by
    obtain ⟨l, hl, e⟩ := mem_pathsOf_fst.mp (List.mem_map_of_mem hp)
    rw [← e, h l hl]
  obtain ⟨l, hl⟩ := List.exists_mem_of_ne_nil _ hne
  have hmem : pc ∈ (pathsOf (nextsOf lanes next)).map Prod.fst := mem_pathsOf_fst.mpr ⟨l, hl, h l hl⟩
  have hasc := pathsOf_ascending (nextsOf lanes next)
  match hp : pathsOf (nextsOf lanes next) with
  | [] => rw [hp] at hmem; cases hmem
  | [p] => exact ⟨p.2, by rw [← hpc p (by simp [hp])]⟩
  | p :: q :: r =>
    rw [hp, List.pairwise_cons] at hasc
    have hlt := hasc.1 q List.mem_cons_self
    rw [hpc p (by simp [hp]), hpc q (by simp [hp])] at hlt
    exact absurd hlt (Nat.lt_irrefl _)

theorem pathsOf_of_several {lanes : List Nat} {next : Nat → BitVec 56} (h : ∃ l ∈ lanes, ∃ m ∈ lanes, next l ≠ next m) :
    ∃ p q r, pathsOf (nextsOf lanes next) = p :: q :: r := by
  obtain ⟨l, hl, m, hm, hne⟩ := h
  have hlp : next l ∈ (pathsOf (nextsOf lanes next)).map Prod.fst := mem_pathsOf_fst.mpr ⟨l, hl, rfl⟩
  have hmp : next m ∈ (pathsOf (nextsOf lanes next)).map Prod.fst := mem_pathsOf_fst.mpr ⟨m, hm, rfl⟩
  match hp : pathsOf (nextsOf lanes next) with
  | [] => rw [hp] at hlp; cases hlp
  | [p] =>
    rw [hp] at hlp hmp
    exact absurd ((List.mem_singleton.mp hlp).trans (List.mem_singleton.mp hmp).symm) hne
  | p :: q :: r => exact ⟨p, q, r, rfl⟩

/-- The join address of BRX (R112). -/
def Ctx.brxJoin (x : Ctx) (w : ExtA) : BitVec 56 :=
  if w.spec = 0 then Rules.through x w else Rules.relative x (w.spec.signExtend 56)

/-- The paths of BRX. -/
def Ctx.brxPaths (x : Ctx) (w : ExtA) : List (BitVec 56 × Mask) := pathsOf (nextsOf (Mask.list x.act) (Rules.brxNext x w))

/-- What BRX does once its targets are checked (R112). -/
def Ctx.branchAlong (x : Ctx) (w : ExtA) (s : State) : Res :=
  match x.brxPaths w with
  | [] => .jump (x.goto (Rules.through x w) s) true
  | [(pc, _)] => .jump (x.goto pc s) true
  | paths => x.withTarget s (x.brxJoin w) (x.split (x.brxJoin w) paths)

theorem exec_brx {w : ExtA} {s s' : State} {x : Ctx} (h : Issues (.brx w) s x s') (hform : w.form = .ext) :
    ∃ body, exec (.brx w) s = runGroup (.brx w) { ends := true } body s ∧
      body x s' = x.withTargets (x.branchAlong w) ((Mask.list x.ex).map (Rules.brxNext x w)).eraseDups s' := by
  have hnext := next_eq_through h rfl (by simp [hform])
  have htargets : ((Mask.list x.ex).map fun l => (x.src64 w.a l).setWidth 56) = (Mask.list x.ex).map (Rules.brxNext x w) :=
    List.map_congr_left fun l hl => by rw [Rules.brxNext, if_pos (Mask.mem_list.mp hl)]
  refine ⟨_, rfl, ?_⟩
  simp only [htargets, hnext]
  rfl

theorem indexedBranchResults : Rules.IndexedBranchResults := by
  intro w s s0 x s' h hform hact
  obtain ⟨body, hexec, hbody⟩ := exec_brx (issuesFrom_issues h) hform
  rw [hexec]
  refine ⟨fun pre va post s1 s2 htargets hpre hbad => ?bad, fun s1 hok => ⟨fun pc hone => ?whole, fun hseveral => ?divided⟩⟩
  case bad => exact runGroup_cause h rfl (by rw [hbody, htargets, x.withTargets_bad _ hpre hbad])
  all_goals rw [x.withTargets_ok _ hok] at hbody
  case whole =>
    obtain ⟨m, hm⟩ := pathsOf_of_one (Mask.list_ne_nil hact) hone
    exact runGroup_jump (issuesFrom_issues h) rfl (by rw [hbody, Ctx.branchAlong, Ctx.brxPaths, hm])
  case divided =>
    obtain ⟨p, q, r, hpaths⟩ := pathsOf_of_several hseveral
    have hsplit : x.branchAlong w s1 = x.withTarget s1 (x.brxJoin w) (x.split (x.brxJoin w) (x.brxPaths w)) := by
      rw [Ctx.branchAlong, Ctx.brxPaths, hpaths]
    obtain ⟨hbad, hdivides⟩ := runGroup_divide h rfl (hbody.trans hsplit)
    exact ⟨hbad, x.brxPaths w, pathsOf_ascending _, fun _ => mem_pathsOf_fst, fun p hp l => mem_pathsOf_lanes hp, hdivides⟩

/-- Settles O19: the targets of BRA and BRX are checked one after another, and only then does the split go on or divide; the paths of BRX are
the distinct next PCs, sorted. -/
theorem branchResults : Obligations.BranchResults := ⟨directBranchResults, indexedBranchResults⟩

end Sys2Proof.Machine
end

section
/-!
SUPPORT. O20 (R113): CALL and RET.
-/

namespace Sys2Proof.Machine

open Safety

theorem exec_call (w : ExtA) (s : State) : exec (.call w) s = execCall w s := rfl

theorem exec_ret (w : ExtA) (s : State) : exec (.ret w) s = execRet w s := rfl

/-- An address has no bit above 55. -/
theorem shiftRight_56_ne_zero (a : DWord) : a >>> 56 ≠ 0 ↔ a.toNat / 2 ^ 56 ≠ 0 := by
  rw [Ne, ← BitVec.toNat_inj, BitVec.toNat_ushiftRight, Nat.shiftRight_eq_div_pow]
  rfl

/-- Settles O20: a pair with a bit above 55 is no target of CALL; otherwise the target's check decides, and the target of CALL is that of R113
by definition. -/
theorem callAndReturn : Obligations.CallAndReturn := by
  refine ⟨?call, ?ret⟩
  case call =>
    intro w s s0 x s' h hform
    have hnext := next_eq_through (issuesFrom_issues h) rfl hform
    rw [exec_call, execCall]
    refine ⟨fun hhigh => ?high, fun hlow => ⟨fun s1 hbad => ?bad, fun s1 hok => ?ok⟩⟩
    case high => exact runGroup_cause h rfl (if_pos ⟨hhigh.1, (shiftRight_56_ne_zero _).mpr hhigh.2⟩)
    all_goals
      have hin : ¬(w.a ≠ .zero ∧ x.src64 w.a 0 >>> 56 ≠ 0) := by
        rw [shiftRight_56_ne_zero]
        exact fun hhigh => hlow.elim hhigh.1 hhigh.2
    case bad => exact runGroup_cause h rfl ((if_neg hin).trans (x.withTarget_bad _ hbad))
    case ok =>
      rw [← hnext]
      exact runGroup_jump (issuesFrom_issues h) rfl ((if_neg hin).trans (x.withTarget_ok _ hok))
  case ret =>
    intro w s s0 x s' h
    rw [exec_ret, execRet]
    exact ⟨fun s1 hbad => runGroup_cause h rfl (x.withTarget_bad _ hbad),
      fun s1 hok => runGroup_jump (issuesFrom_issues h) rfl (x.withTarget_ok _ hok)⟩

end Sys2Proof.Machine
end

section
/-!
SUPPORT. O24 (R119, R289): RDSYS and WRSYS: which registers exist and may be written, and the fields of PCFG that are written as numbers.
-/

namespace Sys2Proof.Machine

open Safety

theorem exec_rdsys (w : ExtA) (s : State) : exec (.rdsys w) s = execRdsys w s := rfl

theorem exec_wrsys (w : ExtA) (s : State) : exec (.wrsys w) s = execWrsys w s := rfl

theorem sysWide_eq_sysLong (n : Nat) : sysWide n = Rules.sysLong n := rfl

/-- A register that exists reads as R119 has it. -/
theorem sysValue_eq_sysReg (x : Ctx) (s : State) {n : Nat} (h : n ∈ [0, 1, 2, 3, 4, 5, 8, 0x10, 0x11]) :
    sysValue x s n = Rules.sysReg x s n := by
  simp only [List.mem_cons, List.not_mem_nil, or_false] at h
  obtain rfl | rfl | rfl | rfl | rfl | rfl | rfl | rfl | rfl := h <;>
    simp only [sysValue, Rules.sysReg] <;> cases s.node? x.team.node <;> rfl

theorem sysDenied_iff (n : Nat) (priv : Bool) :
    sysDenied n priv = true ↔ n ∈ [1, 3, 4, 5] ∨ n ∈ [0x10, 0x11] ∧ priv = false := by
  simp [sysDenied, and_comm, or_assoc]

theorem setWidth_setWidth_word (v : Word) : (v.setWidth 64).setWidth 32 = v :=
  (BitVec.setWidth_setWidth_of_le v (by decide)).trans (BitVec.setWidth_eq v)

/-- SRBASE stands in the upper word of PCFG. -/
theorem high_word_eq (v : Word) (p : DWord) :
    (v ++ p.extractLsb' 0 32 : BitVec 64) = BitVec.ofNat 64 (v.toNat * 2 ^ 32 + p.toNat % 2 ^ 32) := by
  apply BitVec.eq_of_toNat_eq
  rw [BitVec.toNat_append, BitVec.extractLsb'_toNat, Nat.shiftRight_zero, BitVec.toNat_ofNat,
    ← Nat.shiftLeft_add_eq_or_of_lt (Nat.mod_lt _ (Nat.two_pow_pos 32)), Nat.shiftLeft_eq]
  have := v.isLt
  omega

/-- CHKSB stands in bit 0 of PCFG. -/
theorem low_bit_eq (v : Word) (p : DWord) :
    (p &&& ~~~1#64) ||| (v.setWidth 64 &&& 1#64) = BitVec.ofNat 64 (p.toNat / 2 * 2 + v.toNat % 2) := by
  apply BitVec.eq_of_getLsbD_eq
  intro i hi
  rw [BitVec.getLsbD_or, BitVec.getLsbD_and, BitVec.getLsbD_and, BitVec.getLsbD_not, BitVec.getLsbD_one, BitVec.getLsbD_setWidth,
    BitVec.getLsbD_ofNat]
  cases i with
  | zero => simp [BitVec.getLsbD, Nat.testBit_zero]
  | succ k =>
    have hhalf : (p.toNat / 2 * 2 + v.toNat % 2) / 2 = p.toNat / 2 := by omega
    rw [Nat.testBit_succ, hhalf, ← Nat.testBit_succ]
    simp [hi, BitVec.getLsbD]

theorem Ctx.writeSys_srseed (x : Ctx) (v : Word) (s : State) :
    x.writeSys 0x08 (v.setWidth 64) s = s.modGroup x.ref fun g => { g with srstate := if v = 0 then 1 else v } := by
  simp only [Ctx.writeSys, setWidth_setWidth_word]
  rfl

theorem Ctx.writeSys_srbase (x : Ctx) (v : Word) (s : State) :
    x.writeSys 0x10 (v.setWidth 64) s
      = s.modPart x.team.part fun p => { p with pcfg := BitVec.ofNat 64 (v.toNat * 2 ^ 32 + p.pcfg.toNat % 2 ^ 32) } := by
  simp only [Ctx.writeSys, setWidth_setWidth_word, high_word_eq]

theorem Ctx.writeSys_chksb (x : Ctx) (v : Word) (s : State) :
    x.writeSys 0x11 (v.setWidth 64) s
      = s.modPart x.team.part fun p => { p with pcfg := BitVec.ofNat 64 (p.pcfg.toNat / 2 * 2 + v.toNat % 2) } := by
  simp only [Ctx.writeSys, low_bit_eq]

/-- WRSYS writes a register that it may write; the width of the register decides how much of the source is read. -/
theorem exec_wrsys_of_allowed {w : ExtA} {s s' : State} {x : Ctx} {n : Nat} {v : DWord} (h : Issues (.wrsys w) s x s') (hex : x.ex ≠ 0)
    (hn : w.f 16 9 = n) (hallowed : sysDenied n x.team.priv = false)
    (hv : v = if sysWide n then x.src64 w.a (Mask.lowest x.ex) else (LVec.at (x.src .int w.a) (Mask.lowest x.ex)).setWidth 64) :
    exec (.wrsys w) s = .next (passed (.wrsys w) x (x.writeSys n v s')) := by
  rw [exec_wrsys, execWrsys]
  refine runGroup_done h rfl ?_
  rw [if_neg hex, hn, hallowed, hv]
  rfl

/-- Settles O24: RDSYS reads by the table of R119; WRSYS is denied for the registers that its table denies, and otherwise writes the register
by its width. -/
theorem systemRegisters : Obligations.SystemRegisters := by
  refine ⟨?read, ?write⟩
  case read =>
    intro w s x s' h hn
    rw [exec_rdsys, execRdsys, ← sysValue_eq_sysReg x s' hn, ← sysWide_eq_sysLong]
    exact runGroup_done h rfl rfl
  case write =>
    intro w s s0 x s' h n l a32 a64
    have hi := issuesFrom_issues h
    refine ⟨fun hex => ?idle, fun hex => ⟨fun hdenied => ?denied, fun hn => ?tvec, fun hn => ?epc, fun hn => ?srseed,
      fun hpriv hn => ?srbase, fun hpriv hn => ?chksb⟩⟩
    case idle =>
      rw [exec_wrsys, execWrsys]
      exact runGroup_done hi rfl (if_pos hex)
    case denied =>
      rw [exec_wrsys, execWrsys]
      exact runGroup_cause h rfl ((if_neg hex).trans (if_pos ((sysDenied_iff _ _).mpr hdenied)))
    case tvec => exact exec_wrsys_of_allowed hi hex hn (by simp [sysDenied]) rfl
    case epc => exact exec_wrsys_of_allowed hi hex hn (by simp [sysDenied]) rfl
    case srseed => rw [exec_wrsys_of_allowed (v := a32.setWidth 64) hi hex hn (by simp [sysDenied]) rfl, x.writeSys_srseed]
    case srbase => rw [exec_wrsys_of_allowed (v := a32.setWidth 64) hi hex hn (by simp [sysDenied, hpriv]) rfl, x.writeSys_srbase]
    case chksb => rw [exec_wrsys_of_allowed (v := a32.setWidth 64) hi hex hn (by simp [sysDenied, hpriv]) rfl, x.writeSys_chksb]

end Sys2Proof.Machine
end

section
/-!
SUPPORT. The folds of REDG (R123): each by what it makes of the values of the lanes.
-/

namespace Sys2Proof.Machine

/-- Keeping the better of two values all along leaves one of them, and none is better: the one with the smallest key. -/
theorem foldFirst_selects (key : Word → Int) {better : Word → Word → Bool} (hb : ∀ a b, better a b = true ↔ key a < key b)
    {vs : List Word} (hne : vs ≠ []) :
    foldFirst (fun a b => if better b a then b else a) vs ∈ vs ∧
      ∀ v ∈ vs, key (foldFirst (fun a b => if better b a then b else a) vs) ≤ key v := by
  obtain ⟨a, r, rfl⟩ := List.exists_cons_of_ne_nil hne
  clear hne
  simp only [foldFirst, List.forall_mem_cons]
  induction r generalizing a with
  | nil => exact ⟨List.mem_cons_self, Int.le_refl _, List.forall_mem_nil _⟩
  | cons b r ih =>
    simp only [List.foldl_cons, List.forall_mem_cons]
    by_cases hba : better b a = true
    · have hlt : key b < key a := (hb b a).mp hba
      rw [if_pos hba]
      obtain ⟨hmem, hfirst, hrest⟩ := ih b
      exact ⟨List.mem_cons_of_mem _ hmem, by omega, hfirst, hrest⟩
    · have hle : key a ≤ key b := Int.not_lt.mp (mt (hb b a).mpr hba)
      rw [if_neg hba]
      obtain ⟨hmem, hfirst, hrest⟩ := ih a
      exact ⟨(List.mem_cons.mp hmem).elim (fun e => List.mem_cons.mpr (.inl e)) fun h => List.mem_cons_of_mem _ (List.mem_cons_of_mem _ h),
        hfirst, by omega, hrest⟩

theorem foldFirst_add (vs : List Word) : foldFirst (· + ·) vs = BitVec.ofNat 32 (vs.map BitVec.toNat).sum := by
  cases vs with
  | nil => rfl
  | cons a r =>
    simp only [foldFirst]
    induction r generalizing a with
    | nil => simp
    | cons b r ih =>
      rw [List.foldl_cons, ih]
      apply BitVec.eq_of_toNat_eq
      simp [Nat.add_assoc]

theorem foldFirst_and_getLsbD {vs : List Word} (hne : vs ≠ []) (i : Nat) :
    (foldFirst (· &&& ·) vs).getLsbD i = vs.all fun v => v.getLsbD i := by
  obtain ⟨a, r, rfl⟩ := List.exists_cons_of_ne_nil hne
  simp only [foldFirst]
  clear hne
  induction r generalizing a with
  | nil => simp
  | cons b r ih => simp [ih, Bool.and_assoc]

theorem foldFirst_or_getLsbD (vs : List Word) (i : Nat) : (foldFirst (· ||| ·) vs).getLsbD i = vs.any fun v => v.getLsbD i := by
  cases vs with
  | nil => simp [foldFirst]
  | cons a r =>
    simp only [foldFirst]
    induction r generalizing a with
    | nil => simp
    | cons b r ih => simp [ih, Bool.or_assoc]

theorem foldFirst_xor_getLsbD (vs : List Word) (i : Nat) :
    (foldFirst (· ^^^ ·) vs).getLsbD i = (vs.filter fun v => v.getLsbD i).length.testBit 0 := by
  cases vs with
  | nil => simp [foldFirst]
  | cons a r =>
    simp only [foldFirst]
    induction r generalizing a with
    | nil => cases h : a.getLsbD i <;> simp [h]
    | cons b r ih =>
      rw [List.foldl_cons, ih]
      cases ha : a.getLsbD i <;> cases hb : b.getLsbD i <;> simp [ha, hb, Nat.add_assoc]

end Sys2Proof.Machine
end

section
/-!
SUPPORT. PRMT byte by byte (R125): the byte that a selector picks, and the stages that it passes through, as numbers.
-/

namespace Sys2Proof.Machine

theorem lt_eight_cases {i : Nat} (h : i < 8) : i = 0 ∨ i = 1 ∨ i = 2 ∨ i = 3 ∨ i = 4 ∨ i = 5 ∨ i = 6 ∨ i = 7 := by omega

theorem byte_toNat {n : Nat} (w : BitVec n) (k : Nat) : (w.extractLsb' (8 * k) 8).toNat = w.toNat / 256 ^ k % 256 := by
  rw [BitVec.extractLsb'_toNat, Nat.shiftRight_eq_div_pow, Nat.pow_mul]

/-- The byte of the two sources that a selector picks (R125). -/
theorem pair_byte_toNat (a b : Word) {j : Nat} (hj : j < 8) :
    ((b ++ a : BitVec 64).extractLsb' (8 * j) 8).toNat = (if j < 4 then a.toNat / 256 ^ j else b.toNat / 256 ^ (j - 4)) % 256 := by
  rw [byte_toNat, BitVec.toNat_append, ← Nat.shiftLeft_add_eq_or_of_lt a.isLt, Nat.shiftLeft_eq]
  have := a.isLt
  obtain rfl | rfl | rfl | rfl | rfl | rfl | rfl | rfl := lt_eight_cases hj <;> simp only [reduceIte, Nat.reduceLT, Nat.reduceSub] <;> omega

/-- A byte of the low nibbles of two others. -/
def lowNibbles (hi lo : BitVec 8) : BitVec 8 := hi.extractLsb' 0 4 ++ lo.extractLsb' 0 4

theorem lowNibbles_toNat (hi lo : BitVec 8) : (lowNibbles hi lo).toNat = hi.toNat % 16 * 16 + lo.toNat % 16 := by
  rw [lowNibbles, BitVec.toNat_append, ← Nat.shiftLeft_add_eq_or_of_lt (BitVec.isLt _), Nat.shiftLeft_eq]
  simp

theorem lowNibbles_getLsbD (hi lo : BitVec 8) {i : Nat} (h : i < 8) :
    (lowNibbles hi lo).getLsbD i = if i < 4 then lo.getLsbD i else hi.getLsbD (i - 4) := by
  have : i - 4 < 4 := by omega
  rw [lowNibbles, BitVec.getLsbD_append]
  by_cases hi : i < 4 <;> simp [*]

theorem eq_lowNibbles {hi lo v : BitVec 8} (h : ∀ i, i < 8 → v.getLsbD i = if i < 4 then lo.getLsbD i else hi.getLsbD (i - 4)) :
    v = lowNibbles hi lo :=
  BitVec.eq_of_getLsbD_eq fun i hi => (h i hi).trans (lowNibbles_getLsbD _ _ hi).symm

theorem rotateLeft_four (v : BitVec 8) : v.rotateLeft 4 = lowNibbles v (v >>> 4) :=
  eq_lowNibbles fun i hi => by
    obtain rfl | rfl | rfl | rfl | rfl | rfl | rfl | rfl := lt_eight_cases hi <;> simp

theorem shift_or_low (old v : BitVec 8) : (v <<< 4) ||| (old &&& (0x0F : BitVec 8)) = lowNibbles v old :=
  eq_lowNibbles fun i hi => by
    obtain rfl | rfl | rfl | rfl | rfl | rfl | rfl | rfl := lt_eight_cases hi <;> simp

theorem high_or_low (old v : BitVec 8) : (old &&& (0xF0 : BitVec 8)) ||| (v &&& (0x0F : BitVec 8)) = lowNibbles (old >>> 4) v :=
  eq_lowNibbles fun i hi => by
    obtain rfl | rfl | rfl | rfl | rfl | rfl | rfl | rfl := lt_eight_cases hi <;> simp

/-- The three stages of a byte of PRMT after its pick (R125): the nibbles change places, the byte is replaced, and it or its low nibble is
placed beside the old byte. -/
def prmtSwap (sel v : BitVec 8) : BitVec 8 := if sel.getLsbD 3 then v.rotateLeft 4 else v

def prmtReplace (sel v : BitVec 8) : BitVec 8 :=
  match sel.toNat / 16 % 4 with
  | 0 => v
  | 1 => 0
  | 2 => 0xFF
  | _ => if v.msb then 0xFF else 0

def prmtPlace (sel old v : BitVec 8) : BitVec 8 :=
  match sel.toNat / 64 with
  | 0 => v
  | 1 => (old &&& 0xF0) ||| (v &&& 0x0F)
  | 2 => (v <<< 4) ||| (old &&& 0x0F)
  | _ => (v <<< 4) ||| (v &&& 0x0F)

theorem prmtByte_eq (a b c : Word) (k : Nat) :
    prmtByte a b c k =
      let sel := c.extractLsb' (8 * k) 8
      prmtPlace sel (a.extractLsb' (8 * k) 8)
        (prmtReplace sel (prmtSwap sel ((b ++ a : BitVec 64).extractLsb' (8 * (sel.toNat % 8)) 8))) := rfl

theorem prmtSwap_toNat (sel v : BitVec 8) :
    (prmtSwap sel v).toNat = if sel.toNat / 8 % 2 = 1 then v.toNat % 16 * 16 + v.toNat / 16 else v.toNat := by
  have hbit : sel.getLsbD 3 = true ↔ sel.toNat / 8 % 2 = 1 := by
    rw [BitVec.getLsbD, Nat.testBit_eq_decide_div_mod_eq, decide_eq_true_iff]
  rw [prmtSwap, rotateLeft_four, apply_ite BitVec.toNat, lowNibbles_toNat, BitVec.toNat_ushiftRight, Nat.shiftRight_eq_div_pow]
  simp only [hbit]
  have := v.isLt
  congr 2
  omega

theorem prmtReplace_toNat (sel v : BitVec 8) :
    (prmtReplace sel v).toNat = if sel.toNat / 16 % 4 = 0 then v.toNat else if sel.toNat / 16 % 4 = 1 then 0
      else if sel.toNat / 16 % 4 = 2 then 255 else if 128 ≤ v.toNat then 255 else 0 := by
  rw [prmtReplace]
  match sel.toNat / 16 % 4 with
  | 0 => rfl
  | 1 => rfl
  | 2 => rfl
  | n + 3 => simp [BitVec.msb_eq_decide, apply_ite BitVec.toNat]

theorem prmtPlace_toNat (sel old v : BitVec 8) :
    (prmtPlace sel old v).toNat = if sel.toNat / 64 = 0 then v.toNat else if sel.toNat / 64 = 1 then old.toNat / 16 * 16 + v.toNat % 16
      else if sel.toNat / 64 = 2 then v.toNat % 16 * 16 + old.toNat % 16 else v.toNat % 16 * 17 := by
  have hhigh : (old >>> 4).toNat % 16 = old.toNat / 16 := by
    rw [BitVec.toNat_ushiftRight, Nat.shiftRight_eq_div_pow]
    have := old.isLt
    omega
  rw [prmtPlace, shift_or_low, shift_or_low, high_or_low]
  match sel.toNat / 64 with
  | 0 => rfl
  | 1 => exact (lowNibbles_toNat _ _).trans (by rw [hhigh]; rfl)
  | 2 => exact lowNibbles_toNat _ _
  | n + 3 => exact (lowNibbles_toNat _ _).trans (Nat.mul_succ _ 16).symm

theorem prmtByte_toNat (a b c : Word) (k : Nat) : (prmtByte a b c k).toNat = Rules.prmt a.toNat b.toNat c.toNat k := by
  simp only [prmtByte_eq, prmtPlace_toNat, prmtReplace_toNat, prmtSwap_toNat, pair_byte_toNat a b (Nat.mod_lt _ (by decide : 0 < 8)), byte_toNat]
  rfl

theorem append_byte_toNat {n : Nat} (hi : BitVec n) (lo : BitVec 8) : (hi ++ lo).toNat = hi.toNat * 256 + lo.toNat := by
  rw [BitVec.toNat_append, ← Nat.shiftLeft_add_eq_or_of_lt lo.isLt, Nat.shiftLeft_eq]

theorem prmtW_toNat (a b c : Word) :
    (prmtW a b c).toNat = ((List.range 4).map fun k => Rules.prmt a.toNat b.toNat c.toNat k * 256 ^ k).sum := by
  simp only [prmtW, append_byte_toNat, prmtByte_toNat, List.range_succ, List.range_zero, List.nil_append, List.map_append, List.map_cons,
    List.map_nil, List.sum_append, List.sum_cons, List.sum_nil]
  omega

end Sys2Proof.Machine
end

section
/-!
SUPPORT. O8 (R120, R122 to R125): SHFL, MATCH and ELECT by their lanes, REDG by its folds, and PRMT by its bytes.
-/

namespace Sys2Proof.Machine

open Safety

/-! ### SHFL -/

theorem exec_shfl (w : ExtA) (s : State) : exec (.shfl w) s = execShfl w s := rfl

theorem shflFrom_eq_shfl (w : ExtA) (x : Ctx) (l : Nat) :
    shflFrom w.mod (2 ^ w.f 11 9) x.ex (LVec.at (x.src .int w.b) l).toNat l = Rules.shfl w x l := by
  simp only [shflFrom, Rules.shfl, Bool.and_assoc, Mask.decide_and_getLsbD]
  match w.mod with
  | 0 => rfl
  | 1 => rfl
  | 2 => rfl
  | n + 3 => rfl

theorem shuffleResults : Rules.ShuffleResults := by
  intro w s x s' h
  rw [exec_shfl, execShfl]
  simp only [beq_iff_eq]
  refine runGroup_done h rfl ?_
  simp only [shflFrom_eq_shfl]

/-! ### MATCH -/

theorem exec_matchLanes (w : ExtA) (s : State) : exec (.matchLanes w) s = execMatchLanes w s := rfl

/-- The value of a lane that MATCH compares (R122). -/
def Ctx.matched (x : Ctx) (w : ExtA) (l : Nat) : DWord :=
  if w.mod / 2 % 2 = 1 then x.src64 w.a l else (LVec.at (x.src .int w.a) l).setWidth 64

theorem same_eq_maskOf {w : ExtA} (x : Ctx) (hmod : w.mod ≤ 3) (l : Nat) :
    Rules.same w x l = maskOf fun j => x.ex.getLsbD j && x.matched w j == x.matched w l := by
  have hwide : 2 ≤ w.mod ↔ w.mod / 2 % 2 = 1 := by omega
  simp only [Rules.same, Ctx.matched, hwide]
  congr 1
  funext j
  congr 1
  rw [Bool.eq_iff_iff, beq_iff_eq, beq_iff_eq]
  split
  · exact BitVec.toNat_inj
  · rw [← BitVec.toNat_inj (n := 64), BitVec.toNat_setWidth_of_le (by decide), BitVec.toNat_setWidth_of_le (by decide)]

/-- All executing lanes have the value of the lowest exactly when each lane's matches are all of them. -/
theorem all_matched_eq {w : ExtA} (x : Ctx) (hmod : w.mod ≤ 3) :
    ((Mask.list x.ex).all fun j => x.matched w j == x.matched w (Mask.lowest x.ex))
      = decide (∀ l ∈ Mask.list x.ex, Rules.same w x l = x.ex) := by
  simp only [same_eq_maskOf x hmod, maskOf_and_eq_iff, beq_iff_eq]
  rw [Bool.eq_iff_iff, decide_eq_true_iff, List.all_eq_true]
  simp only [beq_iff_eq]
  refine ⟨fun h l hl j hj => (h j hj).trans (h l hl).symm, fun h j hj => h _ ?_ j hj⟩
  have hne : x.ex ≠ 0 := by
    rintro h0
    rw [h0, Mask.mem_list] at hj
    simp at hj
  exact List.mem_of_mem_head? (Mask.head?_list hne)

theorem matchResults : Rules.MatchResults := by
  intro w s x s' h hmod
  rw [exec_matchLanes, execMatchLanes]
  simp only [beq_iff_eq]
  refine runGroup_done h rfl ?_
  have hval (l : Nat) : (if w.mod / 2 % 2 = 1 then x.src64 w.a l else (LVec.at (x.src .int w.a) l).setWidth 64) = x.matched w l := rfl
  simp only [hval, ← same_eq_maskOf x hmod, all_matched_eq x hmod]

/-! ### REDG -/

theorem exec_redg (w : ExtA) (s : State) : exec (.redg w) s = execRedg w s := rfl

theorem reduceResults : Rules.ReduceResults := by
  intro w s x s' h hmod
  rw [exec_redg, execRedg, aluB]
  refine ⟨_, runGroup_done h rfl rfl, fun hex => ?_⟩
  have hne : Rules.vals w x ≠ [] := by simpa [Rules.vals] using Mask.list_ne_nil hex
  have hint {k : Nat} (hm : w.mod = k) (h8 : k ≠ 8) :
      redgOf w.mod ((Mask.list x.ex).map (LVec.at (x.src (if w.mod = 8 then .f32 else .int) w.a))) = redgOf k (Rules.vals w x) := by
    rw [hm, if_neg h8]
    rfl
  refine ⟨fun hm => ?sum, fun hm => ?minS, fun hm => ?maxS, fun hm => ?minU, fun hm => ?maxU, fun hm i _ => ?and, fun hm i _ => ?or,
    fun hm i _ => ?xor, fun hm => ?float⟩
  case float =>
    rw [hm, if_pos rfl, redgOf, List.map_map]
    · rfl
    all_goals decide
  all_goals rw [hint hm (by decide)]
  case sum => exact foldFirst_add _
  case minS => exact foldFirst_selects BitVec.toInt (fun _ _ => BitVec.slt_iff_toInt_lt) hne
  case maxS =>
    obtain ⟨hmem, hle⟩ := foldFirst_selects (fun a => -a.toInt) (better := fun a b => BitVec.slt b a)
      (fun _ _ => BitVec.slt_iff_toInt_lt.trans Int.neg_lt_neg_iff.symm) hne
    exact ⟨hmem, fun v hv => Int.neg_le_neg_iff.mp (hle v hv)⟩
  case minU =>
    obtain ⟨hmem, hle⟩ := foldFirst_selects (fun a => (a.toNat : Int)) (better := BitVec.ult)
      (fun _ _ => BitVec.ult_iff_toNat_lt.trans Int.ofNat_lt.symm) hne
    exact ⟨hmem, fun v hv => Int.ofNat_le.mp (hle v hv)⟩
  case maxU =>
    obtain ⟨hmem, hle⟩ := foldFirst_selects (fun a => -(a.toNat : Int)) (better := fun a b => BitVec.ult b a)
      (fun _ _ => BitVec.ult_iff_toNat_lt.trans (Int.ofNat_lt.symm.trans Int.neg_lt_neg_iff.symm)) hne
    exact ⟨hmem, fun v hv => Int.ofNat_le.mp (Int.neg_le_neg_iff.mp (hle v hv))⟩
  case and => exact foldFirst_and_getLsbD hne i
  case or => exact foldFirst_or_getLsbD _ i
  case xor => exact foldFirst_xor_getLsbD _ i

/-! ### ELECT -/

theorem exec_elect (w : ExtA) (s : State) : exec (.elect w) s = execElect w s := rfl

theorem exec_elect_of_issues {w : ExtA} {s s' : State} {x : Ctx} (h : Issues (.elect w) s x s') :
    exec (.elect w) s = .next (passed (.elect w) x
      (if x.ex = 0 then s'
       else x.putP 6 (w.f 15 13) (maskOf fun l => some l == (Mask.list x.ex).head?)
         (x.put .b 6 (LVec.splat (BitVec.ofNat 32 ((Mask.list x.ex).headD 0))) s'))) := by
  rw [exec_elect, execElect]
  refine runGroup_done h rfl ?_
  by_cases hex : x.ex = 0
  · rw [if_pos hex, if_pos hex]
  · rw [if_neg hex, if_neg hex, Mask.head?_list hex, List.headD_eq_head?_getD, Mask.head?_list hex]
    rfl

/-- Of an ELECT that passes the checks only PD [15:13] is set. -/
theorem elect_fields {w : ExtA} (hwf : (Instr.elect w).wf = true) :
    w.mod = 0 ∧ w.a = .zero ∧ w.b = .zero ∧ w.f 31 16 = 0 ∧ w.f 12 9 = 0 := by
  obtain ⟨-, -, -, hr, -⟩ := (wf_iff (op := 0xA4) rfl rfl rfl).mp hwf
  have hfields : Machine.reservedOk _ (Fields.ofA (some w.form) w) = true := hr
  simp only [Machine.reservedOk, ExtA.only, ExtA.f, Bool.and_eq_true, beq_iff_eq, and_assoc] at hfields ⊢
  obtain ⟨hmod, -, hown, -, -, -, ha, hb, -⟩ := hfields
  exact ⟨hmod, eq_of_beq ha, eq_of_beq hb, by omega, by omega⟩

/-! ### PRMT -/

theorem exec_prmt (w : ExtA) (s : State) : exec (.prmt w) s = execPrmt w s := rfl

theorem exec_prmt_of_issues {w : ExtA} {s s' : State} {x : Ctx} (h : Issues (.prmt w) s x s') :
    let v (o : Operand) (l : Nat) : Nat := (LVec.at (x.src .int o) l).toNat
    exec (.prmt w) s = .next (passed (.prmt w) x
      (x.put .b 6 (LVec.tab fun l => BitVec.ofNat 32 (((List.range 4).map fun k =>
        Rules.prmt (v w.a l) (v w.b l) (v w.c l) k * 256 ^ k).sum)) s')) := by
  intro v
  obtain ⟨-, hx, -⟩ := issues_spec h
  have hf : x.f = Fields.ofA (some w.form) w := (Option.some.inj hx).symm
  rw [exec_prmt, execPrmt, aluB]
  refine runGroup_done h rfl ?_
  simp only [Ctx.map3, hf, v, ← prmtW_toNat, BitVec.ofNat_toNat, BitVec.setWidth_eq]
  rfl

/-- Settles O8: each body is brought to the lanes of the statement: SHFL and MATCH by the lane read and the matching lanes, REDG by its folds,
ELECT by the lowest lane, and PRMT by the bytes of its result. -/
theorem crossLane : Obligations.CrossLane :=
  ⟨shuffleResults, matchResults, reduceResults, fun _ _ _ _ => exec_elect_of_issues, fun _ => elect_fields, fun _ _ _ _ => exec_prmt_of_issues⟩

end Sys2Proof.Machine
end

section
/-!
SUPPORT. O32 (R139, R163 to R166, R169): the copy instructions, whose shared body ends in one of five ways, and the fields and bounds of
command blocks.
-/

namespace Sys2Proof.Machine

open Safety

/-! ### The shared body of the copy instructions -/

/-- What the checks at issue know of CP, CP2D, CPG and CPS. -/
def copyInfo (w : ExtA) : Info := { ends := true, lat := some 1, pdst := [w.f 14 12] }

/-- The checked command of the copy instruction with a KIND: CP's own operands (R164), or the block in scratch (R165, R166). -/
def Ctx.copyCmd (x : Ctx) (w : ExtA) (kind : Nat) (s : State) : Option CopyCmd :=
  if kind = 1 then if extentsOk (cpCmd x w) x.team.scr then some (cpCmd x w) else none else x.block w kind s

theorem exec_cp (w : ExtA) (s : State) : exec (.cp w) s = execCp w s := rfl

theorem exec_cp2d (w : ExtA) (s : State) : exec (.cp2d w) s = execCp2d w s := rfl

theorem exec_cpg (w : ExtA) (s : State) : exec (.cpg w) s = execCpg w s := rfl

theorem exec_cps (w : ExtA) (s : State) : exec (.cps w) s = execCps w s := rfl

theorem exec_cpq (w : ExtA) (s : State) : exec (.cpq w) s = execCpq w s := rfl

theorem Ctx.copyCmd_one (x : Ctx) (w : ExtA) :
    x.copyCmd w 1 = fun _ => if extentsOk (cpCmd x w) x.team.scr then some (cpCmd x w) else none := rfl

theorem Ctx.copyCmd_ne_one (x : Ctx) (w : ExtA) {k : Nat} (hk : k ≠ 1) : x.copyCmd w k = x.block w k := by
  funext s
  rw [Ctx.copyCmd, if_neg hk]

/-- A copy instruction and the KIND of its command (R164, R165). -/
def IsCopy (w : ExtA) (i : Instr) (k : Nat) : Prop :=
  (i = .cp w ∧ k = 1) ∨ (i = .cp2d w ∧ k = 2) ∨ (i = .cpg w ∧ k = 3) ∨ (i = .cps w ∧ k = 4)

/-- The four copy instructions differ only in the command that they form (R163, R164). -/
theorem exec_of_isCopy {w : ExtA} {i : Instr} {k : Nat} (hik : IsCopy w i k) (s : State) :
    exec i s = runGroup i (copyInfo w) (fun x => x.copy w (x.copyCmd w k)) s := by
  obtain ⟨rfl, rfl⟩ | ⟨rfl, rfl⟩ | ⟨rfl, rfl⟩ | ⟨rfl, rfl⟩ := hik
  · simp only [exec_cp, execCp, copyInfo, Ctx.copyCmd_one]
  · simp only [exec_cp2d, execCp2d, copyInfo, Ctx.copyCmd_ne_one _ w (show 2 ≠ 1 by decide)]
  · simp only [exec_cpg, execCpg, copyInfo, Ctx.copyCmd_ne_one _ w (show 3 ≠ 1 by decide)]
  · simp only [exec_cps, execCps, copyInfo, Ctx.copyCmd_ne_one _ w (show 4 ≠ 1 by decide)]

theorem infoOf_of_isCopy {w : ExtA} {i : Instr} {k : Nat} (hik : IsCopy w i k) : copyInfo w = infoOf i := by
  obtain ⟨rfl, -⟩ | ⟨rfl, -⟩ | ⟨rfl, -⟩ | ⟨rfl, -⟩ := hik <;> rfl

section Body

variable {x : Ctx} {w : ExtA} {cmd : State → Option CopyCmd} {s : State}

/-- The role is checked before the lanes (log 73). -/
theorem Ctx.copy_of_other_role (hrole : x.g.role ≠ .copy) : x.copy w cmd s = .cause 0x043 0 := if_pos hrole

theorem Ctx.copy_of_no_lane (hrole : x.g.role = .copy) (hex : x.ex = 0) : x.copy w cmd s = .done s := by
  rw [Ctx.copy, if_neg (not_not_intro hrole), if_pos hex]

theorem Ctx.copy_of_full (hrole : x.g.role = .copy) (hex : x.ex ≠ 0) (hfull : 32 ≤ (s.core x.core).cq.length) :
    x.copy w cmd s = .done (x.nowP (w.f 14 12) 0 s) := by
  rw [Ctx.copy, if_neg (not_not_intro hrole), if_neg hex, if_pos hfull]

theorem Ctx.copy_of_refused (hrole : x.g.role = .copy) (hex : x.ex ≠ 0) (hroom : (s.core x.core).cq.length < 32) (hcmd : cmd s = none) :
    x.copy w cmd s = .cause 0x047 0 := by
  rw [Ctx.copy, if_neg (not_not_intro hrole), if_neg hex, if_neg (Nat.not_le.2 hroom), hcmd]

theorem Ctx.copy_of_accepted {c : CopyCmd} (hrole : x.g.role = .copy) (hex : x.ex ≠ 0) (hroom : (s.core x.core).cq.length < 32)
    (hcmd : cmd s = some c) : x.copy w cmd s = .done (Rules.entered x w c s) := by
  rw [Ctx.copy, if_neg (not_not_intro hrole), if_neg hex, if_neg (Nat.not_le.2 hroom), hcmd]
  rfl

end Body

/-! ### The command that each forms -/

theorem cpCmd_eq (x : Ctx) (w : ExtA) : cpCmd x w = Rules.cp x w := by
  have hsk : (w.mod % 2 == 1) = w.h.mod.getLsbD 0 := by
    rw [BitVec.getLsbD, Nat.testBit_eq_decide_div_mod_eq, Nat.pow_zero, Nat.div_one]
    rfl
  have hdk : (w.mod / 2 % 2 == 1) = w.h.mod.getLsbD 1 := by
    rw [BitVec.getLsbD, Nat.testBit_eq_decide_div_mod_eq]
    rfl
  rw [cpCmd, hsk, hdk]
  rfl

/-- The bytes that CP can address (R166): none for a length of 0, else `len` of them in each of its sides that is scratch. -/
theorem extentsOk_cp_iff {x : Ctx} {w : ExtA} {scr : Nat} :
    extentsOk (Rules.cp x w) scr = true ↔
      let c := Rules.cp x w
      c.len = 0 ∨ ((c.sk = true → c.src + c.len ≤ scr) ∧ (c.dk = true → c.dst + c.len ≤ scr)) := by
  have hkind : (Rules.cp x w).kind = 1 := rfl
  simp only [extentsOk, hkind, Bool.or_eq_true, Bool.and_eq_true, Bool.not_eq_true', beq_iff_eq, decide_eq_true_eq, Bool.eq_false_iff,
    Decidable.imp_iff_not_or]

theorem Ctx.copyCmd_cp (x : Ctx) (w : ExtA) (s : State) :
    x.copyCmd w 1 s = if extentsOk (Rules.cp x w) x.team.scr then some (Rules.cp x w) else none := by
  rw [Ctx.copyCmd_one, cpCmd_eq]

/-- The block of a command in scratch, refused where it is not aligned or in range, or fails the checks of R166 (R164). -/
theorem Ctx.copyCmd_block {x : Ctx} {w : ExtA} {k : Nat} (s : State) (hk : k ≠ 1) :
    x.copyCmd w k s =
      let off := (LVec.at (x.src .int w.a) 0).toNat
      let block := (Rules.scratch x s).bytes (x.team.scrBase + off) 64
      if off % 64 ≠ 0 ∨ x.team.scr < off + 64 then none else if blockOk block k x.team.scr then some (cmdOf block) else none := by
  rw [Ctx.copyCmd_ne_one x w hk]
  rfl

theorem copyResults : Rules.CopyResults := by
  refine ⟨?enter, ?cpq⟩
  case cpq =>
    intro w s x s' h
    rw [exec_cpq, execCpq]
    exact runGroup_done h rfl rfl
  case enter =>
    intro w s s0 x s' i k hik h
    have hinfo := infoOf_of_isCopy hik
    have hissues := issuesFrom_issues h
    rw [exec_of_isCopy hik]
    refine ⟨fun hrole => runGroup_cause h hinfo (Ctx.copy_of_other_role hrole), fun hrole =>
      ⟨fun hex => runGroup_done hissues hinfo (Ctx.copy_of_no_lane hrole hex),
        fun hex hfull => runGroup_done hissues hinfo (Ctx.copy_of_full hrole hex hfull), ?_⟩⟩
    intro hex hroom
    refine ⟨?fits, ?exceeds, ?badBlock, ?goodBlock⟩
    case fits =>
      rintro rfl hfits
      refine runGroup_done hissues hinfo (Ctx.copy_of_accepted hrole hex hroom ?_)
      rw [Ctx.copyCmd_cp, if_pos (extentsOk_cp_iff.2 hfits)]
    case exceeds =>
      rintro rfl hfits
      refine runGroup_cause h hinfo (Ctx.copy_of_refused hrole hex hroom ?_)
      rw [Ctx.copyCmd_cp, if_neg (mt extentsOk_cp_iff.1 hfits)]
    case badBlock =>
      intro hk hbad
      refine runGroup_cause h hinfo (Ctx.copy_of_refused hrole hex hroom ?_)
      rw [Ctx.copyCmd_block s' hk]
      obtain hplace | hblock := or_assoc.2 hbad
      · exact if_pos hplace
      · simp only [hblock, Bool.false_eq_true, if_false, ite_self]
    case goodBlock =>
      intro hk halign hrange hblock
      refine runGroup_done hissues hinfo (Ctx.copy_of_accepted hrole hex hroom ?_)
      rw [Ctx.copyCmd_block s' hk]
      dsimp only
      rw [if_neg (by omega), if_pos hblock]

/-! ### Command blocks -/

/-- The checks of R166 that a statement about accepted blocks rests on, KIND by KIND. -/
theorem blockOk_bounds {b : List Byte} {kind scr : Nat} (h : blockOk b kind scr = true) :
    (cmdOf b).kind = kind ∧ (kind = 3 → (cmdOf b).dk = true) ∧ (kind = 4 → (cmdOf b).sk = true ∧ (cmdOf b).dk = false) ∧
    1 ≤ (cmdOf b).rowb ∧ (cmdOf b).rowb ≤ 2 ^ 20 ∧
    (kind ≠ 2 → 1 ≤ (cmdOf b).boxh ∧ (cmdOf b).boxh ≤ 4096 ∧ (cmdOf b).idx % 16 = 0) ∧ extentsOk (cmdOf b) scr = true := by
  simp only [blockOk, Bool.and_eq_true, Bool.or_eq_true, beq_iff_eq, bne_iff_ne, decide_eq_true_eq, Bool.not_eq_true', and_assoc] at h
  obtain ⟨hkind, -, hpatched, hplaced, hlow, hhigh, hbox, hext⟩ := h
  exact ⟨hkind, hpatched.resolve_left ∘ not_not_intro, hplaced.resolve_left ∘ not_not_intro, hlow, hhigh, hbox.resolve_left, hext⟩

/-- What CP2D can address: `n` rows (R166). -/
theorem extents_cp2d {c : CopyCmd} {scr : Nat} (hkind : c.kind = 2) (h : extentsOk c scr = true) (hn : c.n ≠ 0) :
    (c.sk = true → c.src + (c.n - 1) * c.sstr + c.rowb ≤ scr) ∧ (c.dk = true → c.dst + (c.n - 1) * c.dstr + c.rowb ≤ scr) := by
  simp only [extentsOk, hkind, Bool.or_eq_true, Bool.and_eq_true, Bool.not_eq_true', beq_iff_eq, decide_eq_true_eq] at h
  obtain ⟨hs, hd⟩ := h.resolve_left hn
  exact ⟨fun hk => hs.resolve_left (by simp [hk]), fun hk => hd.resolve_left (by simp [hk])⟩

/-- What CPG can address: its patch records, the rows that it fills, and a source in scratch (R166). -/
theorem extents_cpg {c : CopyCmd} {scr : Nat} (hkind : c.kind = 3) (h : extentsOk c scr = true) :
    c.idx + 16 * c.n ≤ scr ∧ (c.n ≠ 0 → c.dst + (c.n - 1) * c.bstr + (c.boxh - 1) * c.dstr + c.rowb ≤ scr) ∧
    (c.sk = true → c.srows ≠ 0 → c.srowb ≠ 0 → c.src + (c.srows - 1) * c.sstr + c.srowb ≤ scr) := by
  simp only [extentsOk, hkind, Bool.or_eq_true, Bool.and_eq_true, Bool.not_eq_true', beq_iff_eq, decide_eq_true_eq, and_assoc,
    or_assoc] at h
  obtain ⟨hidx, hdst, hsrc⟩ := h
  exact ⟨hidx, hdst.resolve_left, fun hk hrows hrowb => ((hsrc.resolve_left (by simp [hk])).resolve_left hrows).resolve_left hrowb⟩

/-- What CPS can address: its patch records and the rows that it reads (R166). -/
theorem extents_cps {c : CopyCmd} {scr : Nat} (hkind : c.kind = 4) (h : extentsOk c scr = true) :
    c.idx + 16 * c.n ≤ scr ∧ (c.n ≠ 0 → c.src + (c.n - 1) * c.bstr + (c.boxh - 1) * c.sstr + c.rowb ≤ scr) := by
  simp only [extentsOk, hkind, Bool.or_eq_true, Bool.and_eq_true, beq_iff_eq, decide_eq_true_eq] at h
  obtain ⟨hidx, hsrc⟩ := h
  exact ⟨hidx, hsrc.resolve_left⟩

theorem commandBlocks : Rules.CommandBlocks := by
  intro b kind scr _ hlow hhigh
  refine ⟨rfl, rfl, rfl, rfl, rfl, rfl, rfl, rfl, rfl, rfl, rfl, rfl, rfl, rfl, rfl, BitVec.toNat_ofNat _ 8, fun hok => ?_⟩
  obtain ⟨hkind, hpatched, hplaced, hrow, hrow', hbox, hext⟩ := blockOk_bounds hok
  refine ⟨hkind, hrow, hrow', hpatched, hplaced, fun h2 => ?patches, fun h2 => ?cp2d, fun h3 => ?cpg, fun h3 => ?cpgSource,
    fun h4 => ?cps⟩
  case patches =>
    obtain ⟨hbox1, hbox2, halign⟩ := hbox h2
    refine ⟨hbox1, hbox2, halign, ?_⟩
    obtain rfl | rfl : kind = 3 ∨ kind = 4 := by omega
    · exact extents_cpg hkind hext |>.left
    · exact extents_cps hkind hext |>.left
  case cp2d => exact extents_cp2d (hkind.trans h2) hext
  case cpg =>
    obtain ⟨-, hdst, -⟩ := extents_cpg (hkind.trans h3) hext
    exact hdst
  case cpgSource =>
    obtain ⟨-, -, hsrc⟩ := extents_cpg (hkind.trans h3) hext
    exact hsrc
  case cps =>
    obtain ⟨-, hsrc⟩ := extents_cps (hkind.trans h4) hext
    exact hsrc

/-- Settles O32: the four instructions share one body, whose five endings are read with the command that each forms; the bounds of an
accepted block are the checks of R166 for its KIND. -/
theorem copyCommands : Obligations.CopyCommands := ⟨copyResults, commandBlocks⟩

end Sys2Proof.Machine
end

section
/-!
SUPPORT. The link state of a partition at a cluster, and the grid of clusters (R197, R199).
-/

namespace Sys2Proof.Machine

/-! ### Link state -/

/-- A change of link state matters at the present state alone. -/
theorem State.modLinks_congr {s : State} {c part : Nat} {f g : LinkSt → LinkSt} (h : f (s.links c part) = g (s.links c part)) :
    s.modLinks c part f = s.modLinks c part g := by
  unfold State.links State.cluster at h
  unfold State.modLinks State.modCluster NMap.update
  by_cases hp : (s.clusters.getD c {}).part = some part
  · simp only [hp, if_true] at h ⊢
    rw [h]
  · simp only [hp, if_false] at h ⊢
    rw [h]

/-- One more credit is spent. -/
theorem State.modLinks_spend (s : State) (c part k : Nat) :
    (s.modLinks c part fun l => { l with spent := l.spent.update k 0 (· + 1) })
      = s.modLinks c part fun l => { l with spent := l.spent.set k ((s.links c part).spent.getD k 0 + 1) } := State.modLinks_congr rfl

/-- A message takes its flight time at least (R198). -/
theorem State.flightTime_le_arrivalOf (s : State) (a b side : Nat) : s.clk + flightTime a b ≤ s.arrivalOf a b side := by
  rw [State.arrivalOf, List.foldl_max]
  exact Nat.le_max_left ..

/-- A message takes its flight time where no other is on its way to its side (R198). -/
theorem State.arrivalOf_of_free {s : State} {a b side : Nat} (h : ∀ f ∈ s.flying, f.cluster = b → f.side ≠ side) :
    s.arrivalOf a b side = s.clk + flightTime a b := by
  have hnone : (s.flying.filter fun f => f.cluster == b && f.side == side) = [] := by
    simpa [List.filter_eq_nil_iff] using h
  rw [State.arrivalOf, hnone]
  rfl

/-! ### The grid -/

/-- A cluster stands at its grid position. -/
theorem atGrid_gridPos : ∀ c < 84, atGrid (gridPos c).1 (gridPos c).2 = some c := by decide

/-- The cluster at a grid position is one of the 84, and has that position. -/
theorem gridPos_of_atGrid {row col : Int} {n : Nat} (h : atGrid row col = some n) : n < 84 ∧ gridPos n = (row, col) := by
  unfold atGrid at h
  split at h
  · cases h
  · simp only [Option.some.injEq] at h
    simp only [gridPos, sectorOf, dieOf, Prod.mk.injEq]
    by_cases hrow : 3 ≤ row.toNat <;> by_cases hcol : 7 ≤ col.toNat <;> simp only [hrow, hcol, if_true, if_false] at h <;> omega

/-- The row and column of the neighbour in a direction, from those of a cluster (R197). -/
def ahead (dir : Nat) (p : Int × Int) : Int × Int :=
  match dir with
  | 0 => (p.1 - 1, p.2)
  | 1 => (p.1, p.2 + 1)
  | 2 => (p.1 + 1, p.2)
  | _ => (p.1, p.2 - 1)

theorem neighbour_eq (c dir : Nat) : neighbour c dir = atGrid (ahead dir (gridPos c)).1 (ahead dir (gridPos c)).2 := by
  match dir with
  | 0 | 1 | 2 | _ + 3 => rfl

theorem ahead_opposite {dir : Nat} (h : dir < 4) (p : Int × Int) : ahead (opposite dir) (ahead dir p) = p := by
  match dir, h with
  | 0, _ | 1, _ | 2, _ | 3, _ => simp [ahead, opposite]

/-- A neighbour's neighbour in the direction back is the cluster itself. -/
theorem neighbour_opposite {c dir n : Nat} (hc : c < 84) (hdir : dir < 4) (h : neighbour c dir = some n) :
    n < 84 ∧ neighbour n (opposite dir) = some c := by
  rw [neighbour_eq] at h
  obtain ⟨hn, hpos⟩ := gridPos_of_atGrid h
  refine ⟨hn, ?_⟩
  rw [neighbour_eq, hpos, ahead_opposite hdir, atGrid_gridPos c hc]

end Sys2Proof.Machine
end

section
/-!
SUPPORT. O37 (R155, R197, R198, R201 to R203): NSEND, NRECV and NPOLL, and the way that a message takes.
-/

namespace Sys2Proof.Machine

open Safety

/-! ### What the link instructions share -/

theorem exec_nsend (w : ExtA) (s : State) : exec (.nsend w) s = execNsend w s := rfl

section WithLink

variable {x : Ctx} {w : ExtA} {s : State} {k : Nat → Res}

theorem Ctx.withLink_of_no_lane (hex : x.ex = 0) : x.withLink w s k = .done s := if_pos hex

theorem Ctx.withLink_of_no_neighbour (hex : x.ex ≠ 0) (hnone : s.partNeighbour x.team.part (x.core / 8) (Rules.dir w) = none) :
    x.withLink w s k = .cause 0x080 0 := by
  have hnb : s.partNeighbour x.team.part x.cluster (linkDir w) = none := hnone
  rw [Ctx.withLink, if_neg hex, hnb]

theorem Ctx.withLink_of_neighbour {n : Nat} (hex : x.ex ≠ 0)
    (hsome : s.partNeighbour x.team.part (x.core / 8) (Rules.dir w) = some n) : x.withLink w s k = k n := by
  have hnb : s.partNeighbour x.team.part x.cluster (linkDir w) = some n := hsome
  rw [Ctx.withLink, if_neg hex, hnb]

end WithLink

/-- A link instruction without an executing lane, and in a direction without a neighbour (R155, R201, R202). -/
theorem runGroup_without_link {i : Instr} {s s0 s' : State} {x : Ctx} {nf : Info} {body : Ctx → State → Res} {w : ExtA}
    {k : Nat → Res} (h : IssuesFrom i s s0 x s') (hn : nf = infoOf i) (hb : body x s' = x.withLink w s' k) :
    (x.ex = 0 → runGroup i nf body s = .next (passed i x s')) ∧
    (x.ex ≠ 0 → s'.partNeighbour x.team.part (x.core / 8) (Rules.dir w) = none →
      runGroup i nf body s = .next (raised x 0x080 0 s0)) :=
  ⟨fun hex => runGroup_done (issuesFrom_issues h) hn (hb.trans (Ctx.withLink_of_no_lane hex)),
    fun hex hnone => runGroup_cause h hn (hb.trans (Ctx.withLink_of_no_neighbour hex hnone))⟩

/-! ### NSEND -/

/-- The message of an NSEND to cluster `n` (R198, R201). -/
def sentMsg (x : Ctx) (w : ExtA) (n : Nat) (s : State) : FlyMsg :=
  { cluster := n, side := opposite (Rules.dir w), channel := Rules.chan w
    at_ := s.arrivalOf (x.core / 8) n (opposite (Rules.dir w)), part := x.team.part
    msg := { words := LVec.merge LVec.zero (x.src .int w.b) x.ex, lanes := x.ex, lid := x.team.lid, tlin := x.team.tlin } }

/-- The state in which one more credit is spent and a message to cluster `n` has set out. -/
def sent (x : Ctx) (w : ExtA) (n : Nat) (s : State) : State :=
  let k := 4 * Rules.dir w + Rules.chan w
  (s.modLinks (x.core / 8) x.team.part fun l =>
    { l with spent := l.spent.set k ((s.links (x.core / 8) x.team.part).spent.getD k 0 + 1) }).launch
      { from_ := x.core / 8 / 21, to_ := n / 21, pair := (x.core / 8, n), msg := .fly (sentMsg x w n s) }

theorem flightTime_eq (a b : Nat) : flightTime a b = if b / 21 = a / 21 then 24 else 96 := by
  rw [flightTime]
  exact ite_congr (propext eq_comm) (fun _ => rfl) (fun _ => rfl)

theorem sentMsg_words (x : Ctx) (w : ExtA) (n : Nat) (s : State) {l : Nat} (hl : l < 32) :
    LVec.at (sentMsg x w n s).msg.words l = if x.ex.getLsbD l then LVec.at (x.src .int w.b) l else 0 := by
  rw [sentMsg, LVec.merge_at _ _ _ _ hl, LVec.at_zero]

section Issue

variable {w : ExtA} {s s' : State} {x : Ctx} {n : Nat}

theorem exec_nsend_of_spent (h : Issues (.nsend w) s x s') (hex : x.ex ≠ 0)
    (hnb : s'.partNeighbour x.team.part (x.core / 8) (Rules.dir w) = some n)
    (hspent : 16 ≤ (s'.links (x.core / 8) x.team.part).spent.getD (4 * Rules.dir w + Rules.chan w) 0) :
    exec (.nsend w) s = .next (passed (.nsend w) x (x.nowP (w.f 14 12) 0 s')) := by
  rw [exec_nsend, execNsend]
  exact runGroup_done h rfl ((Ctx.withLink_of_neighbour hex hnb).trans (if_pos hspent))

theorem exec_nsend_of_credit (h : Issues (.nsend w) s x s') (hex : x.ex ≠ 0)
    (hnb : s'.partNeighbour x.team.part (x.core / 8) (Rules.dir w) = some n)
    (hcredit : (s'.links (x.core / 8) x.team.part).spent.getD (4 * Rules.dir w + Rules.chan w) 0 < 16) :
    exec (.nsend w) s = .next (passed (.nsend w) x (x.nowP (w.f 14 12) x.ex (sent x w n s'))) := by
  rw [exec_nsend, execNsend]
  refine runGroup_done h rfl ((Ctx.withLink_of_neighbour hex hnb).trans ((if_neg (Nat.not_le.2 hcredit)).trans ?_))
  rw [sent, ← State.modLinks_spend]
  rfl

/-! ### NRECV and NPOLL -/

/-- The wait of an NRECV whose FIFO has no message of its launch at its head (R203). -/
theorem nrecv_wait_eq (x : Ctx) (w : ExtA) (s : State) :
    execNrecv.wait w x (4 * Rules.dir w + Rules.chan w) s = .wait
      (s.modLinks (x.core / 8) x.team.part fun l =>
        { l with waiters := l.waiters.update (4 * Rules.dir w + Rules.chan w) [] (· ++ [Rules.me x]) })
      { on := .nrecv (Rules.dir w) (Rules.chan w), ipc := x.pc, dst := w.dst, wide := false, pd := none, lanes := x.ex } := by
  have hchan : Rules.chan w < 4 := Nat.mod_lt _ (by decide)
  have hdir : (4 * Rules.dir w + Rules.chan w) / 4 = Rules.dir w := by omega
  have hmod : (4 * Rules.dir w + Rules.chan w) % 4 = Rules.chan w := by omega
  rw [execNrecv.wait, hdir, hmod]
  rfl

/-- NRECV after stale heads have gone (R199, R201, R203). -/
def Ctx.receive (x : Ctx) (w : ExtA) (s : State) : Res :=
  match (Rules.fifo x w s).head? with
  | some m =>
    if m.lid = x.team.lid then
      .done (Rules.settled x w (x.now (LVec.at m.words) (s.popFifo (x.core / 8) x.team.part (Rules.dir w) (Rules.chan w))))
    else execNrecv.wait w x (4 * Rules.dir w + Rules.chan w) s
  | none => execNrecv.wait w x (4 * Rules.dir w + Rules.chan w) s

theorem exec_nrecv (w : ExtA) (s : State) :
    exec (.nrecv w) s = runGroup (.nrecv w) { ends := true }
      (fun x s => x.withLink w s fun _ => x.receive w (Rules.settled x w s)) s := rfl

theorem Ctx.receive_of_own {s : State} {m : LinkMsg} {r : List LinkMsg} (hq : Rules.fifo x w s = m :: r) (hlid : m.lid = x.team.lid) :
    x.receive w s = .done (Rules.settled x w (x.now (LVec.at m.words)
      (s.popFifo (x.core / 8) x.team.part (Rules.dir w) (Rules.chan w)))) := by
  simp only [Ctx.receive, hq, List.head?_cons, hlid, if_true]

theorem Ctx.receive_of_other {s : State} (h : ∀ m r, Rules.fifo x w s = m :: r → m.lid ≠ x.team.lid) :
    x.receive w s = execNrecv.wait w x (4 * Rules.dir w + Rules.chan w) s := by
  cases hq : Rules.fifo x w s with
  | nil => simp only [Ctx.receive, hq, List.head?_nil]
  | cons m r => simp only [Ctx.receive, hq, List.head?_cons, if_neg (h m r hq)]

/-- NPOLL after stale heads have gone (R199, R201). -/
def Ctx.poll (x : Ctx) (w : ExtA) (s : State) : State :=
  let q := Rules.fifo x w s
  let own := match q.head? with | some m => m.lid == x.team.lid | none => false
  let low := match q.head? with | some m => m.tlin % 2 ^ 24 | none => 0
  x.nowP (w.f 14 12) (if own then x.ex else 0) (x.now (fun _ => BitVec.ofNat 32 (q.length * 2 ^ 24 + low)) s)

theorem exec_npoll (w : ExtA) (s : State) :
    exec (.npoll w) s = runGroup (.npoll w) { ends := true, pdst := [w.f 14 12] }
      (fun x s => x.withLink w s fun _ => .done (x.poll w (Rules.settled x w s))) s := rfl

theorem Ctx.poll_of_empty {s : State} (hq : Rules.fifo x w s = []) : x.poll w s = x.nowP (w.f 14 12) 0 (x.now (fun _ => 0) s) := by
  rw [Ctx.poll, hq]
  rfl

theorem Ctx.poll_of_head {s : State} {m : LinkMsg} {r : List LinkMsg} (hq : Rules.fifo x w s = m :: r) :
    x.poll w s = x.nowP (w.f 14 12) (if m.lid = x.team.lid then x.ex else 0)
      (x.now (fun _ => BitVec.ofNat 32 ((r.length + 1) * 2 ^ 24 + m.tlin % 2 ^ 24)) s) := by
  simp only [Ctx.poll, hq, List.head?_cons, beq_iff_eq, List.length_cons]

end Issue

/-! ### Where a message goes -/

theorem State.launch_within (s : State) {c : Crossing} {m : FlyMsg} (hdie : c.from_ = c.to_) (hm : c.msg = .fly m) :
    s.launch c = { s with fly := s.fly ++ [m] } := by
  rw [State.launch, if_pos hdie, hm]
  rfl

/-- The horizontal edge comes first (R207). -/
theorem nextHop_fst (here to_ : Nat) : (nextHop here to_).1 = if here % 2 ≠ to_ % 2 then here / 2 else 2 + here % 2 := by
  rw [← apply_ite Prod.fst (here % 2 ≠ to_ % 2) (here / 2, here ^^^ 1) (2 + here % 2, here ^^^ 2)]
  rfl

/-- A message for another die leaves over the edge that it crosses next. -/
theorem State.launch_across (s : State) {c : Crossing} (hdie : c.from_ ≠ c.to_) :
    ∃ m : UcieRef, s.launch c = s.ucieSend m c ∧ m.edge = if c.from_ % 2 ≠ c.to_ % 2 then c.from_ / 2 else 2 + c.from_ % 2 :=
  ⟨_, if_neg hdie, nextHop_fst c.from_ c.to_⟩

/-- Settles O37: a lane and a neighbour found, each instruction acts on the FIFO that it names; the message of an NSEND and its arrival are
read field by field, and the grid of clusters gives the neighbours of both sides of a link. -/
theorem linkResults : Obligations.LinkResults := by
  refine ⟨?without, ?nsend, ?nrecv, ?npoll, fun s c m => s.launch_within, fun s c => s.launch_across, fun c d n => neighbour_opposite⟩
  case without =>
    intro w s s0 x s' i hi h
    obtain rfl | rfl | rfl := hi
    · rw [exec_nsend, execNsend]
      exact runGroup_without_link h rfl rfl
    · rw [exec_nrecv]
      exact runGroup_without_link h rfl rfl
    · rw [exec_npoll]
      exact runGroup_without_link h rfl rfl
  case nsend =>
    intro w s x s' n h hex hnb
    refine ⟨exec_nsend_of_spent h hex hnb, fun hcredit => ⟨sentMsg x w n s', exec_nsend_of_credit h hex hnb hcredit, rfl, rfl, rfl, rfl,
      ?atLeast, ?free, rfl, rfl, rfl, fun l => sentMsg_words x w n s'⟩⟩
    case atLeast =>
      rw [← flightTime_eq]
      exact s'.flightTime_le_arrivalOf _ _ _
    case free =>
      intro hfree
      rw [← flightTime_eq]
      exact State.arrivalOf_of_free hfree
  case nrecv =>
    intro w s x s' n h hex hnb
    rw [exec_nrecv]
    refine ⟨fun m r hq hlid => ?own, fun hother => ?other⟩
    case own => exact runGroup_done h rfl ((Ctx.withLink_of_neighbour hex hnb).trans (Ctx.receive_of_own hq hlid))
    case other =>
      exact runGroup_wait h rfl ((Ctx.withLink_of_neighbour hex hnb).trans ((Ctx.receive_of_other hother).trans (nrecv_wait_eq x w _)))
  case npoll =>
    intro w s x s' n h hex hnb
    have hexec : exec (.npoll w) s = .next (passed (.npoll w) x (x.poll w (Rules.settled x w s'))) :=
      (exec_npoll w s).trans (runGroup_done h rfl (Ctx.withLink_of_neighbour hex hnb))
    rw [hexec]
    dsimp only
    cases hq : Rules.fifo x w (Rules.settled x w s') with
    | nil => rw [Ctx.poll_of_empty hq]
    | cons m r => rw [Ctx.poll_of_head hq]

end Sys2Proof.Machine
end

section
/-!
SUPPORT. The matrix unit of a core: a change of it, the numbering of accumulator elements, and tables of elements after several
writes and after a clear (R189 to R191).
-/

namespace Sys2Proof.Machine

/-! ### Tables after several changes -/

/-- Keys taken out of a table by a test. -/
theorem NMap.getD_filter {α : Type} (p : Nat → Bool) (m : NMap α) (k : Nat) (d : α) :
    NMap.getD (m.filter fun e => p e.1) k d = if p k then NMap.getD m k d else d := by
  induction m with
  | nil => exact (ite_self d).symm
  | cons e r ih =>
    obtain ⟨i, y⟩ := e
    simp only [NMap.getD, List.filter_cons] at ih ⊢
    by_cases hk : k = i
    · subst hk
      cases hp : p k <;> simp [hp, ih]
    · cases hp : p i <;> simp [List.lookup_cons, beq_false_of_ne hk, ih]

/-- Several writes, read at a key that one number alone can name. -/
theorem NMap.getD_foldl_set {α : Type} (key : Nat → Nat) (val : Nat → α) (d : α) {l : Nat} :
    ∀ (ls : List Nat) (m : NMap α), (∀ j ∈ ls, key j = key l → j = l) →
      NMap.getD (ls.foldl (fun m j => m.set (key j) (val j)) m) (key l) d = if l ∈ ls then val l else NMap.getD m (key l) d
  | [], _, _ => rfl
  | j :: ls, m, hinj => by
    obtain ⟨hj, hls⟩ := List.forall_mem_cons.1 hinj
    rw [List.foldl_cons, NMap.getD_foldl_set key val d ls _ hls]
    by_cases hl : l = j
    · subst hl
      simp
    · have hne : key l ≠ key j := fun h => hl (hj h.symm).symm
      simp [hl, NMap.getD_set_ne _ _ _ hne]

/-! ### The unit -/

/-- A change of a matrix unit matters at the present unit alone. -/
theorem State.modMx_congr {s : State} {core : Nat} {f g : MxUnit → MxUnit} (h : f (s.core core).mx = g (s.core core).mx) :
    s.modMx core f = s.modMx core g := by
  have hcore : ({ s.core core with mx := f (s.core core).mx } : Core) = { s.core core with mx := g (s.core core).mx } := by rw [h]
  exact congrArg (fun c : Core => { s with cores := s.cores.set core c }) hcore

/-- A change of a matrix unit puts the changed unit in its place. -/
theorem State.modMx_const (s : State) (core : Nat) (f : MxUnit → MxUnit) :
    s.modMx core f = s.modMx core fun _ => f (s.core core).mx := State.modMx_congr rfl

/-- The same after an earlier change. -/
theorem State.modMx_after (s : State) (core : Nat) (f g : MxUnit → MxUnit) :
    (s.modMx core f).modMx core g = (s.modMx core f).modMx core fun _ => g (f (s.core core).mx) := by
  refine State.modMx_congr (congrArg g ?_)
  rw [State.core, State.modMx, State.modCore_cores, NMap.getD_update_self]
  rfl

/-! ### Elements of a tile -/

theorem accElem_eq (tr : Bool) (tile e : Nat) :
    accElem tr tile e = 192 * tile + if tr then 12 * (e % 16) + e / 16 else 12 * (e / 12) + e % 12 := by
  cases tr <;> exact Nat.add_assoc ..

theorem getD_accElem (mx : MxUnit) (tr : Bool) (tile e : Nat) : mx.acc.getD (accElem tr tile e) 0 = Rules.accAt mx tr tile e := by
  rw [accElem_eq, Rules.accAt]

/-- Both numberings reach each element of a tile once (R189). -/
theorem accElem_inj {tr : Bool} {tile a b : Nat} (ha : a < 192) (hb : b < 192) (h : accElem tr tile a = accElem tr tile b) :
    a = b := by
  rw [accElem_eq, accElem_eq] at h
  cases tr <;> simp only [Bool.false_eq_true, if_true, if_false] at h <;> omega

end Sys2Proof.Machine
end

section
/-!
SUPPORT. O36 (R181, R184, R186, R188 to R191): MWAIT, the accumulator instructions and OHND.
-/

namespace Sys2Proof.Machine

open Safety

/-! ### The issue of a matrix instruction -/

/-- A meaning with one check: its cause, or its effect. -/
theorem runGroup_check {i : Instr} {s s0 s' t : State} {x : Ctx} {nf : Info} {body : Ctx → State → Res} {code : Nat} {c : Prop}
    [Decidable c] (h : IssuesFrom i s s0 x s') (hn : nf = infoOf i) (hb : body x s' = if c then .cause code 0 else .done t) :
    runGroup i nf body s = .next (if c then raised x code 0 s0 else passed i x t) := by
  by_cases hc : c
  · rw [if_pos hc] at hb ⊢
    exact runGroup_cause h hn hb
  · rw [if_neg hc] at hb ⊢
    exact runGroup_done (issuesFrom_issues h) hn hb

theorem Ctx.matrix_of_lane {x : Ctx} {s : State} {k : Res} (hrole : x.g.role = .matrix) (hex : x.ex ≠ 0) : x.matrix s k = k := by
  rw [Ctx.matrix, if_neg (not_not_intro hrole), if_neg hex]

theorem exec_mwait (w : ExtA) (s : State) : exec (.mwait w) s = execMwait w s := rfl

theorem exec_accwr (w : ExtA) (s : State) : exec (.accwr w) s = execAccwr w s := rfl

theorem exec_accclr (w : ExtA) (s : State) : exec (.accclr w) s = execAccclr w s := rfl

theorem exec_ohnd (w : ExtA) (s : State) : exec (.ohnd w) s = execOhnd w s := rfl

theorem exec_ohndClr (w : ExtA) (s : State) : exec (.ohndClr w) s = execOhndClr w s := rfl

theorem Ctx.queueAcc_eq_queued (x : Ctx) (op : AccOp) (tile n : Nat) (s : State) :
    x.queueAcc op tile n s = Rules.queued x op tile n s := by
  refine congrArg (s.modCore x.core) (funext fun c => congrArg
    (fun after => ({ c with mx := { c.mx with accq := c.mx.accq ++ [{ op, after : AccIns }] } } : Core)) ?_)
  exact congrArg (fun f => c.mx.entries.filterMap f) (funext fun e => by cases e.work <;> rfl)

theorem mx_queued_congr {x : Ctx} {op : AccOp} {tile n : Nat} {s t : State} (h : t.cores = s.cores) :
    Rules.mx x (Rules.queued x op tile n t) = Rules.mx x (Rules.queued x op tile n s) := by
  simp only [Rules.mx, Rules.queued, Rules.modMx, State.core, State.modCore_cores, h]

/-! ### Outstanding results -/

@[simp] theorem State.addOut_outst (s : State) (o : Outst) : (s.addOut o).outst = s.outst.set o.id o := by
  unfold State.addOut
  cases o.sb <;> rfl

@[simp] theorem State.addOut_cores (s : State) (o : Outst) : (s.addOut o).cores = s.cores := by
  unfold State.addOut
  cases o.sb <;> rfl

theorem State.addOut_sameHomes (s : State) (o : Outst) : Rules.sameHomes s (s.addOut o) := by
  unfold State.addOut
  cases o.sb <;> exact ⟨rfl, rfl, rfl⟩

@[simp] theorem Ctx.advance_nextId (x : Ctx) (sr : Bool) (s : State) : (x.advance sr s).nextId = s.nextId := by
  cases sr <;> rfl

@[simp] theorem Ctx.advance_cores (x : Ctx) (sr : Bool) (s : State) : (x.advance sr s).cores = s.cores := by
  cases sr <;> rfl

theorem Ctx.advance_sameHomes (x : Ctx) (sr : Bool) (s : State) : Rules.sameHomes s (x.advance sr s) := by
  cases sr <;> exact ⟨rfl, rfl, rfl⟩

/-! ### ACCRD -/

/-- The outstanding result of an ACCRD (R44, R189). -/
def Ctx.accOut (x : Ctx) (w : ExtA) (s : State) : Outst :=
  { id := s.nextId, g := x.ref, core := x.core, kind := .accrd, sb := slotOf w.h, dst := w.dst, regs := 1, size := 2, sx := false
    lanes := x.ex, from_ := none
    pieces := [{ line := 0, accs := (Mask.list x.ex).map fun l => { lane := l, off := 0, len := 4, pos := 0 } }]
    part := x.team.part, epoch := s.epochOf x.team.part, l1pos := none, cls := .other, slot := x.slot, iss := x.clk }

/-- The state with that result outstanding, the stochastic-rounding state advanced (R79, R189). -/
def Ctx.accPending (x : Ctx) (w : ExtA) (s : State) : State :=
  let s := x.advance (w.f 19 17 == 4) s
  ({ s with nextId := s.nextId + 1 } : State).addOut (x.accOut w s)

/-- The operation of an ACCRD on a tile (R189). -/
def Ctx.accReadOp (x : Ctx) (w : ExtA) (tile load : Nat) : AccOp :=
  .read tile (w.f 25 23) (w.f 22 22 == 1) (w.f 21 21 == 1) (w.f 20 20 == 1) (w.f 19 17) w.mod (x.sr (w.f 19 17 == 4)) load

theorem exec_accrd (w : ExtA) (s : State) :
    exec (.accrd w) s = runGroup (.accrd w) { ends := true } (fun x s =>
      if x.g.role ≠ .matrix then .cause 0x043 0
      else if x.ex = 0 then .done (x.advance (w.f 19 17 == 4) s)
      else if 63 < w.f 31 26 + Rules.uni x w.a then .cause 0x050 0
      else .done (x.queueAcc (x.accReadOp w (w.f 31 26 + Rules.uni x w.a) (x.advance (w.f 19 17 == 4) s).nextId)
        (w.f 31 26 + Rules.uni x w.a) 1 (x.accPending w s))) s := rfl

theorem Ctx.accPending_outst (x : Ctx) (w : ExtA) (s : State) :
    (x.accPending w s).outst.get? s.nextId = some (x.accOut w (x.advance (w.f 19 17 == 4) s)) := by
  rw [Ctx.accPending, State.addOut_outst, ← Ctx.advance_nextId x (w.f 19 17 == 4) s]
  exact NMap.get?_set_self ..

theorem Ctx.accPending_cores (x : Ctx) (w : ExtA) (s : State) : (x.accPending w s).cores = s.cores := by
  rw [Ctx.accPending, State.addOut_cores]
  exact Ctx.advance_cores ..

theorem Ctx.accPending_sameHomes (x : Ctx) (w : ExtA) (s : State) : Rules.sameHomes s (x.accPending w s) := by
  obtain ⟨hmem, hpoison, hslices⟩ := x.advance_sameHomes (w.f 19 17 == 4) s
  obtain ⟨hmem', hpoison', hslices'⟩ := State.addOut_sameHomes
    { x.advance (w.f 19 17 == 4) s with nextId := (x.advance (w.f 19 17 == 4) s).nextId + 1 } (x.accOut w (x.advance (w.f 19 17 == 4) s))
  exact ⟨hmem'.trans hmem, hpoison'.trans hpoison, hslices'.trans hslices⟩

/-- Settles O36: with a lane executing each instruction makes its one check and has its one effect; what ACCRD leaves pending lies in
another part of the state than the queue that its operation enters. -/
theorem matrixResults : Obligations.MatrixResults := by
  refine ⟨?mwait, ?accrd, ?accwr, ?accclr, ?ohnd, ?ohndClr⟩
  case mwait =>
    intro w s x s' h hrole hex n
    rw [exec_mwait, execMwait]
    by_cases hn : n ≤ w.f 11 9
    · rw [if_pos hn]
      exact runGroup_done h rfl ((Ctx.matrix_of_lane hrole hex).trans (if_pos hn))
    · rw [if_neg hn]
      exact runGroup_wait h rfl ((Ctx.matrix_of_lane hrole hex).trans (if_neg hn))
  case accrd =>
    intro w s s0 x s' h hrole sr tile
    refine ⟨fun hex => ?noLane, fun hex htile => ?beyond, fun hex htile => ?queued⟩
    case noLane =>
      rw [exec_accrd]
      exact runGroup_done (issuesFrom_issues h) rfl <| (if_neg (not_not_intro hrole)).trans (if_pos hex)
    case beyond =>
      rw [exec_accrd]
      exact runGroup_cause h rfl <| (if_neg (not_not_intro hrole)).trans <| (if_neg hex).trans (if_pos htile)
    case queued =>
      have hdone : exec (.accrd w) s = .next (passed (.accrd w) x
          (Rules.queued x (x.accReadOp w tile s'.nextId) tile 1 (x.accPending w s'))) := by
        rw [exec_accrd]
        refine runGroup_done (issuesFrom_issues h) rfl <| (if_neg (not_not_intro hrole)).trans <| (if_neg hex).trans <|
          (if_neg (Nat.not_lt.2 htile)).trans ?_
        rw [Ctx.advance_nextId, Ctx.queueAcc_eq_queued]
      exact ⟨_, _, hdone, x.accPending_sameHomes w s', x.accPending_outst w s',
        rfl, rfl, rfl, rfl, rfl, mx_queued_congr (x.accPending_cores w s')⟩
  case accwr =>
    intro w s s0 x s' h hrole hex tile
    rw [exec_accwr, execAccwr, ← Ctx.queueAcc_eq_queued]
    exact runGroup_check h rfl (Ctx.matrix_of_lane hrole hex)
  case accclr =>
    intro w s s0 x s' h hrole hex tile n
    rw [exec_accclr, execAccclr, ← Ctx.queueAcc_eq_queued]
    have hlast : 64 < tile + n ↔ 63 < tile + n - 1 := by omega
    exact runGroup_check h rfl ((Ctx.matrix_of_lane hrole hex).trans (ite_congr (propext hlast) (fun _ => rfl) fun _ => rfl))
  case ohnd =>
    intro w s s0 x s' h hrole hex v
    rw [exec_ohnd, execOhnd, ← ite_not]
    exact runGroup_check h rfl ((Ctx.matrix_of_lane hrole hex).trans (ite_not ..).symm)
  case ohndClr =>
    intro w s x s' h hrole hex
    rw [exec_ohndClr, execOhndClr]
    exact runGroup_done h rfl (Ctx.matrix_of_lane hrole hex)

end Sys2Proof.Machine
end

section
/-!
SUPPORT. O46 (R176, R182, R185 to R191): the events of the matrix sequencer.
-/

namespace Sys2Proof.Machine

theorem exec_operandCacheFill (core : Nat) (s : State) : exec (.operandCacheFill core) s = execOperandCacheFill core s := rfl

theorem exec_matrixStepStart (core : Nat) (s : State) : exec (.matrixStepStart core) s = execMatrixStepStart core s := rfl

theorem exec_matrixStepUpdate (core : Nat) (s : State) : exec (.matrixStepUpdate core) s = execMatrixStepUpdate core s := rfl

theorem exec_wbldTransfer (core : Nat) (s : State) : exec (.wbldTransfer core) s = execWbldTransfer core s := rfl

theorem exec_matrixEntryComplete (core : Nat) (s : State) :
    exec (.matrixEntryComplete core) s = execMatrixEntryComplete core s := rfl

theorem exec_accumulatorPerform (core : Nat) (s : State) : exec (.accumulatorPerform core) s = execAccumulatorPerform core s := rfl

/-! ### Steps -/

/-- The unit once up to four missing lines of a step are on their way from scratch (R187). -/
def MxUnit.filling (now : MxUnit) (ha clk : Nat) (lines : List Nat) (read : Nat → List Byte) : MxUnit :=
  { now with
    fills := now.fills ++ ((now.missing ha lines).take 4).map fun l =>
      ({ h := ha, gen := (now.hnd.getD ha {}).gen, off := l, bytes := read l }, clk + 1)
    fillFree := clk + 1 }

/-- The unit once a step of an entry has started (R187). -/
def MxUnit.stepping (now : MxUnit) (e : MxEnt) (ha clk : Nat) (lines : List Nat) (work : MxWork) (st : MxStep) : MxUnit :=
  let m := (now.ocTouch ha lines).modEnt e.id fun x => { x with work, started := true, lastStart := clk }
  { m with steps := m.steps ++ [st], lastStep := clk + 1 }

section NextStep

variable {core : Nat} {s : State} {t : Team} {mx : MxUnit} {e : MxEnt} {oldest : Bool} {tile ha hb total next : Nat} {z : Bool}
  {wa wb : Word} {blk : LoopBlk} {os : OpSet}

theorem exec_operandCacheFill_of_missing (hruns : s.mxRuns core = some (t, mx)) (hcur : mx.current = some (e, oldest))
    (hwork : e.work = .loop tile z ha hb wa wb blk total next) (hset : opSet wa wb = some os) (hready : e.ready ≤ s.clk)
    (hgoes : mx.goesOn t e = true) (hfree : mx.fillFree ≤ s.clk)
    (hmissing : (mx.arrive s.clk).missing ha (rangeLines (blk.places next os.nb)) ≠ []) :
    exec (.operandCacheFill core) s = .next (s.modMx core fun _ => (mx.arrive s.clk).filling ha s.clk
      (rangeLines (blk.places next os.nb)) fun l => (s.core core).scratch.bytes (t.scrBase + 128 * l) 128) := by
  have htake : ¬ (((mx.arrive s.clk).missing ha (rangeLines (blk.places next os.nb))).take 4).isEmpty = true := by
    simpa using hmissing
  have hdue : ¬ (s.clk < e.ready ∨ s.clk < mx.fillFree ∨ mx.goesOn t e = false) := by simp [hready, hfree, hgoes]
  simp only [exec_operandCacheFill, execOperandCacheFill, hruns, hcur, hwork, hset, if_neg hdue, if_neg htake]
  rfl

section Due

variable (hruns : s.mxRuns core = some (t, mx)) (hcur : mx.current = some (e, oldest))
  (hwork : e.work = .loop tile z ha hb wa wb blk total next) (hset : opSet wa wb = some os) (hready : e.ready ≤ s.clk)
  (hgoes : mx.goesOn t e = true) (hstep : mx.lastStep ≤ s.clk) (hacc : mx.accBefore e.id tile = false)
  (hlines : ∀ l ∈ rangeLines (blk.places next os.nb), ((mx.arrive s.clk).ocFind ha l).isSome = true)

include hruns hcur hwork hset hready hgoes hstep hacc hlines

/-- A step that is due, its lines present, checks the slots that it reads (R182). -/
theorem exec_matrixStepStart_of_due :
    exec (.matrixStepStart core) s = .next
      (if (blk.places next os.nb).any fun p => !t.slotsReady p.1 p.2 then s.mxKill t
       else s.modMx core fun _ => (mx.arrive s.clk).stepping e ha s.clk (rangeLines (blk.places next os.nb))
        (.loop tile z ha hb wa wb blk total (next + 1)) ((mx.arrive s.clk).stepOf e.id tile z ha wa wb os blk next s.clk)) := by
  have hdue : ¬ (s.clk < e.ready ∨ s.clk < mx.lastStep ∨ mx.accBefore e.id tile = true ∨ mx.goesOn t e = false) := by
    simp [hready, hstep, hacc, hgoes]
  have hpresent : ¬ ((rangeLines (blk.places next os.nb)).any fun l => ((mx.arrive s.clk).ocFind ha l).isNone) = true := by
    simpa [Option.isSome_iff_ne_none] using hlines
  simp only [exec_matrixStepStart, execMatrixStepStart, hruns, hcur, hwork, hset, if_neg hdue, if_neg hpresent]
  split <;> rfl

end Due

end NextStep

/-! ### WBLD -/

/-- The unit once `n` more bytes of a WBLD have been copied (R185). -/
def MxUnit.copying (mx : MxUnit) (e : MxEnt) (src len dst done n clk : Nat) (bs : List Byte) : MxUnit :=
  { mx with wb := mx.wb.writeBytes (dst + done) bs }.modEnt e.id fun x =>
    { x with work := .wbld src len dst (done + n), started := true, lastStart := clk }

/-- A copy that is due checks the slots that it reads (R182, R185). -/
theorem exec_wbldTransfer_of_due {core : Nat} {s : State} {t : Team} {mx : MxUnit} {e : MxEnt} {src len dst done : Nat}
    (hruns : s.mxRuns core = some (t, mx)) (hcur : mx.current = some (e, true)) (hwork : e.work = .wbld src len dst done)
    (hready : e.ready ≤ s.clk) (hdone : done < len) (honce : e.started = false ∨ e.lastStart ≠ s.clk) (hgoes : mx.goesOn t e = true) :
    exec (.wbldTransfer core) s = .next
      (if !t.slotsReady (src + done) (min 256 (len - done)) then s.mxKill t
       else s.modMx core fun m => m.copying e src len dst done (min 256 (len - done)) s.clk
        ((s.core core).scratch.bytes (t.scrBase + src + done) (min 256 (len - done)))) := by
  have hdue : ¬ (s.clk < e.ready ∨ min 256 (len - done) = 0 ∨ (e.started = true ∧ e.lastStart = s.clk) ∨ mx.goesOn t e = false) := by
    rintro (hlate | hnone | ⟨hstarted, hlast⟩ | hstays)
    · omega
    · omega
    · simp [hstarted, hlast] at honce
    · simp [hgoes] at hstays
  simp only [exec_wbldTransfer, execWbldTransfer, hruns, hcur, hwork, if_neg hdue]
  split <;> rfl

/-! ### The accumulator -/

/-- The unit after an ACCWR (R190). -/
def MxUnit.accWritten (mx : MxUnit) (tile q : Nat) (tr : Bool) (lanes : Mask) (val : LVec) : MxUnit :=
  { mx with acc := (Mask.list lanes).foldl (fun a l => a.set (accElem tr tile (32 * q + l)) (LVec.at val l)) mx.acc }

/-- The unit after an ACCCLR (R191). -/
def MxUnit.accCleared (mx : MxUnit) (tile n : Nat) (sticky : Bool) : MxUnit :=
  { mx with
    acc := mx.acc.filter fun x => decide (x.1 < 192 * tile) || decide (192 * (tile + n) ≤ x.1)
    sticky := mx.sticky && !sticky }

/-- What an accumulator instruction does once it has left the queue, `mx` being the unit before it (R189 to R191). -/
def State.accumulate (s : State) (core : Nat) (mx : MxUnit) (op : AccOp) : State :=
  match op with
  | .read tile q tr ik sat rnd conv sr load =>
    s.modOut load fun o =>
      { o.modPiece 0 fun p => { p with vals := some (p.accs.map fun x =>
          (x.lane, (accConv conv ik sat (Rnd.ofField rnd) sr ((List.range 32).map fun l => Rules.accAt mx tr tile (32 * q + l))
            x.lane).setWidth 128)) } with at_ := s.clk + 6 }
  | .write tile q tr lanes val => s.modMx core fun m => m.accWritten tile q tr lanes val
  | .clear tile n sticky => s.modMx core fun m => m.accCleared tile n sticky

theorem State.accumulate_write (s : State) (core : Nat) (f : MxUnit → MxUnit) (mx : MxUnit) (tile q : Nat) (tr : Bool) (lanes : Mask)
    (val : LVec) :
    (s.modMx core f).accumulate core mx (.write tile q tr lanes val)
      = (s.modMx core f).modMx core fun _ => (f (s.core core).mx).accWritten tile q tr lanes val :=
  State.modMx_after s core f fun m => m.accWritten tile q tr lanes val

theorem State.accumulate_clear (s : State) (core : Nat) (f : MxUnit → MxUnit) (mx : MxUnit) (tile n : Nat) (sticky : Bool) :
    (s.modMx core f).accumulate core mx (.clear tile n sticky)
      = (s.modMx core f).modMx core fun _ => (f (s.core core).mx).accCleared tile n sticky :=
  State.modMx_after s core f fun m => m.accCleared tile n sticky

theorem exec_accumulatorPerform_of_first {core : Nat} {s : State} {a : AccIns} {r : List AccIns}
    (hqueue : (s.core core).mx.accq = a :: r) (hafter : ∀ e ∈ (s.core core).mx.entries, e.id ∉ a.after) :
    exec (.accumulatorPerform core) s
      = .next ((s.modMx core fun mx => { mx with accq := r }).accumulate core (s.core core).mx a.op) := by
  have hfree : ¬ ((s.core core).mx.entries.any fun e => a.after.contains e.id) = true := by simpa using hafter
  simp only [exec_accumulatorPerform, execAccumulatorPerform, hqueue, if_neg hfree, getD_accElem]
  cases a.op <;> rfl

/-- The elements of the lanes of an ACCWR are written, the others of its chunk kept (R190). -/
theorem accAt_accWritten (mx : MxUnit) (tr : Bool) (tile : Nat) {q l : Nat} (lanes : Mask) (val : LVec) (hl : l < 32)
    (hchunk : 32 * q + l < 192) :
    Rules.accAt (mx.accWritten tile q tr lanes val) tr tile (32 * q + l)
      = if lanes.getLsbD l then LVec.at val l else Rules.accAt mx tr tile (32 * q + l) := by
  have hinj : ∀ j ∈ Mask.list lanes, accElem tr tile (32 * q + j) = accElem tr tile (32 * q + l) → j = l := by
    intro j hj h
    have hj32 : j < 32 := BitVec.lt_of_getLsbD (Mask.mem_list.1 hj)
    have := accElem_inj (by omega) hchunk h
    omega
  rw [← getD_accElem, ← getD_accElem, MxUnit.accWritten,
    NMap.getD_foldl_set (fun l => accElem tr tile (32 * q + l)) (LVec.at val) 0 _ _ hinj]
  simp only [Mask.mem_list]

/-- The elements of the tiles of an ACCCLR are zero, the others kept (R191). -/
theorem getD_accCleared (mx : MxUnit) (tile n k : Nat) (sticky : Bool) :
    (mx.accCleared tile n sticky).acc.getD k 0 = if 192 * tile ≤ k ∧ k < 192 * (tile + n) then 0 else mx.acc.getD k 0 := by
  have hkept : (decide (k < 192 * tile) || decide (192 * (tile + n) ≤ k)) = true ↔ ¬ (192 * tile ≤ k ∧ k < 192 * (tile + n)) := by
    rw [Bool.or_eq_true, decide_eq_true_iff, decide_eq_true_iff]
    omega
  rw [MxUnit.accCleared, NMap.getD_filter (fun k => decide (k < 192 * tile) || decide (192 * (tile + n) ≤ k)),
    ite_congr (propext hkept) (fun _ => rfl) (fun _ => rfl), ite_not]

/-- Settles O46: each event, once its guards are met, takes the one branch left; the lemmas on tables read the accumulator after ACCWR
and ACCCLR. -/
theorem matrixSequencer : Obligations.MatrixSequencer := by
  refine ⟨?steps, ?update, ?transfer, ?complete, ?wakes, ?unsaved, ?accumulator⟩
  case steps =>
    intro core s t mx e tile ha hb total next z wa wb blk os hruns hnext hwork hset hready hgoes now parts lines gen
    obtain ⟨oldest, hcur⟩ := hnext
    refine ⟨fun hfree hmissing => ?fill, fun hstep hacc hlines => ?start⟩
    case fill => exact exec_operandCacheFill_of_missing hruns hcur hwork hset hready hgoes hfree hmissing
    case start =>
      rw [exec_matrixStepStart_of_due hruns hcur hwork hset hready hgoes hstep hacc hlines]
      refine ⟨fun hbad => ?kill, fun hslots => ?go⟩
      case kill =>
        rw [if_pos (by simpa using hbad)]
        rfl
      case go =>
        rw [if_neg (by simpa using hslots)]
        exact ⟨_, rfl, rfl, rfl, rfl, rfl, rfl, rfl⟩
  case update =>
    intro core s m r hsteps hat
    simp only [exec_matrixStepUpdate, execMatrixStepUpdate, hsteps, if_neg (Nat.not_lt.2 hat)]
    rfl
  case transfer =>
    intro core s t mx e src len dst done hruns hcur hwork hready hdone honce hgoes n
    rw [exec_wbldTransfer_of_due hruns hcur hwork hready hdone honce hgoes]
    refine ⟨fun hslots => ?kill, fun hslots => ?copy⟩
    case kill =>
      rw [if_pos (by simpa using hslots)]
      rfl
    case copy =>
      rw [if_neg (by simpa using hslots)]
      exact ⟨_, congrArg _ (State.modMx_const ..), rfl, rfl, rfl⟩
  case complete =>
    intro core s t mx e r hruns hentries hfinished s1
    simp only [exec_matrixEntryComplete, execMatrixEntryComplete, hruns, hentries, hfinished]
    rfl
  case wakes =>
    intro s w hwakes
    rw [State.applyWakes, hwakes]
    rfl
  case unsaved =>
    intro mx t e hsaving
    rw [MxUnit.goesOn, hsaving]
    rfl
  case accumulator =>
    intro core s a r hqueue hafter mx s1
    rw [exec_accumulatorPerform_of_first hqueue hafter]
    refine ⟨?read, ?write, ?clear⟩
    case read =>
      intro tile q tr ik sat rnd conv sr load hop xs
      rw [hop]
      rfl
    case write =>
      intro tile q tr lanes val hop
      rw [hop]
      exact ⟨_, congrArg _ (State.accumulate_write ..), rfl, rfl, fun l => accAt_accWritten { mx with accq := r } tr tile lanes val⟩
    case clear =>
      intro tile n sticky hop
      rw [hop]
      exact ⟨_, congrArg _ (State.accumulate_clear ..), rfl, fun k => getD_accCleared { mx with accq := r } tile n k sticky⟩

end Sys2Proof.Machine
end
